-- ==== Sys2Proof/Word.lean ====
section
/-!
DEFINITION. The word types of the Axvon (PL9160) model and their plainest arithmetic.
Registers, descriptor words and memory words are 64 bits wide (R10, R477); memory is addressed in bytes.
-/
namespace Sys2Proof

/-- One byte. -/
abbrev Byte := BitVec 8

/-- One 64-bit word (R10, R477). -/
abbrev Word := BitVec 64

/-- Bits `[lo + w - 1 : lo]` of a number (R5). -/
def bitsOf (v lo w : Nat) : Nat := (v >>> lo) % 2 ^ w

/-- `v` with bits `[lo + w - 1 : lo]` replaced by the low `w` bits of `x`. -/
def withBits (v lo w x : Nat) : Nat :=
  (v - bitsOf v lo w * 2 ^ lo) + (x % 2 ^ w) * 2 ^ lo

/-- The byte `i` of a little-endian word, byte 0 the least significant (R10, R477). -/
def byteOf (v i : Nat) : Byte := BitVec.ofNat 8 (v >>> (8 * i))

/-- The little-endian value of a list of bytes. -/
def leNat : List Byte → Nat
  | [] => 0
  | b :: bs => b.toNat + 256 * leNat bs

/-- The `n` little-endian bytes of a number. -/
def leBytes (v : Nat) : Nat → List Byte
  | 0 => []
  | n + 1 => byteOf v 0 :: leBytes (v / 256) n

end Sys2Proof
end

