-- ==== Sys2Proof/Syntax.lean ====
section
/-!
DEFINITION. The commands of the Axvon block: one constructor of `Instr` per row of the opcode table, with the operands the
outside world supplies. A command names what arrives or elapses (a write, a packet, a reading, a timer's end, a unit's
completion); what it does is the machine's. Operands that an outside party chooses freely are bit vectors of the width the
spec gives; `WellFormed` states the bounds a bit vector cannot.
-/
namespace Sys2Proof

/-- A descriptor in flight, named by its context and the free-running count of its slot (R377, R378). -/
structure DescRef where
  ctx : Fin 64
  cnt : BitVec 32
  deriving DecidableEq, Repr

/-- A vote cell (R33). -/
structure VoteCell where
  step : BitVec 48
  epoch : BitVec 32
  sev : BitVec 2
  firstId : BitVec 15
  cause : BitVec 8
  deriving DecidableEq, Repr

/-- A fabric packet: header, payload and trailer (R281, R282, R285). `typ` is the code of R283. -/
structure Packet where
  dst : BitVec 14
  src : BitVec 14
  tclass : BitVec 2
  epochBit : BitVec 1
  stag : BitVec 2
  ttl : BitVec 8
  typ : BitVec 4
  tag : BitVec 32
  offset : BitVec 32
  payload : List Byte
  abort : Bool
  abortCause : BitVec 3
  deriving DecidableEq, Repr

/-- A packet of a Seam, image or checkpoint stream, by its sub-kind (R348). `pos` is the image or stream byte position. -/
inductive StreamPkt where
  | opening (step : BitVec 48) (epoch : BitVec 32) (groups : BitVec 16) (bytes efb : BitVec 48)
  | group (records : List (List Word))
  | data (pos : BitVec 48) (bytes : List Byte)
  | efb (off : BitVec 48) (bytes : List Byte)
  | closing (total : BitVec 64)
  | ack (step : BitVec 48) (status : BitVec 64)
  | record (words : List Word)
  deriving DecidableEq, Repr

/-- How a burst of a data mover ends on the host link (R394, R401: the codes of ERR_KIND). -/
inductive BusError where
  | ur | ca | timeout | poisoned | integrity | linkDown
  deriving DecidableEq, Repr

/-- What a fault adds to a cell's group register, and to its residue lane modulo 7, while it forms a group of a tile job
(R156, R157): the row and column of D of the element, and the group by its number in the job. -/
structure GroupUpset where
  row : Nat
  col : Nat
  group : Nat
  reg : Int
  lane : Nat
  deriving DecidableEq, Repr

/-- What a fault adds to a cell's group register, and to its residue lane modulo 7, while its quad runs Steam ops (R153, R154): the
quad, and the cell by its row and column in it. -/
structure SteamUpset where
  quad : Fin 4
  row : Fin 64
  col : Fin 64
  reg : Int
  lane : Nat
  deriving DecidableEq, Repr

/-- The faults that the cells of an engine have met while it ran Steam ops (R154, R246). -/
structure SteamReport where
  bay : Fin 20
  me : Fin 8
  ups : List SteamUpset
  deriving DecidableEq, Repr


/-- What a test of the land monitor reads, in mV as signed numbers (R462, R463): V0 and V1 of COOLANT_OK, MAINT_PRESENT_N or
THERMTRIP_N; or V0 and V1 of each seal land alone, then V_F and V_R of the loop. -/
inductive LandReading where
  | coolant (v0 v1 : BitVec 16)
  | maint (v0 v1 : BitVec 16)
  | thermtrip (v0 v1 : BitVec 16)
  | seal (a0 a1 b0 b1 vf vr : BitVec 16)
  deriving DecidableEq, Repr

/-- The commands: one constructor per row of the opcode table. -/
inductive Instr where
  /-- RING_DOORBELL_SNOOP: A snoop takes the doorbell line of a context away (R386). -/
  | ringDoorbellSnoop (ctx : Fin 64)
  /-- DOORBELL_WRITE: A write of HIF.DBn (R389). -/
  | doorbellWrite (ctx : Fin 64) (ring : BitVec 2) (prod : BitVec 32)
  /-- RING_FETCH: The fetch turn of a ring (R379, R384). -/
  | ringFetch (ctx : Fin 64) (ring : Fin 3)
  /-- GEMM: A GEMM starts (R76 to R80). -/
  | gemm (d : DescRef)
  /-- TILE_JOB_ISSUE: A free array takes a tile job (R150); the cycles it waits for operands (R141) and the cycles of
  Steam ops of each quad of its engine before it (R153). -/
  | tileJobIssue (d : DescRef) (bay : Fin 20) (me : Fin 8) (quad : Fin 4) (feedStall : BitVec 64) (steamCycles : List (BitVec 64))
  /-- PASS_STAGING_ALLOCATE: The next pass gets its staging (R196), after the cycles it waited. -/
  | passStagingAllocate (d : DescRef) (waited : BitVec 64)
  /-- PARTIAL_SLOT_RESERVE: The partial slots of a tile are reserved (R197), after the cycles it waited. -/
  | partialSlotReserve (d : DescRef) (band col : BitVec 32) (waited : BitVec 64)
  /-- TILE_JOB_DRAIN: An issued tile job drains (R137, R142); the faults that its cells met, and those met in Steam ops. -/
  | tileJobDrain (d : DescRef) (pass band col part seg : BitVec 32) (upsets : List GroupUpset) (steam : Option SteamReport)
  /-- STATISTICS_FOLD: The statistics fold of a row band (R143). -/
  | statisticsFold (d : DescRef) (band : BitVec 32)
  /-- DESCRIPTOR_RETIRE: A finished descriptor retires (R73); whether the accounting check of R240 reports a mismatch. -/
  | descriptorRetire (ctx : Fin 64) (ring : Fin 3) (cnt : BitVec 32) (acctErr : Bool)
  /-- DESCRIPTOR_TIMEOUT: A descriptor's timer expires (R72). -/
  | descriptorTimeout (ctx : Fin 64) (ring : Fin 3) (cnt : BitVec 32)
  /-- NORM_FWD: A NORM_FWD runs (R81, R177). -/
  | normFwd (d : DescRef)
  /-- RMS_FWD: An RMS_FWD runs (R81, R177). -/
  | rmsFwd (d : DescRef)
  /-- SMAX_FWD: An SMAX_FWD runs (R81, R177). -/
  | smaxFwd (d : DescRef)
  /-- NORM_BWD: A NORM_BWD runs (R81, R178). -/
  | normBwd (d : DescRef)
  /-- RMS_BWD: An RMS_BWD runs (R81, R178). -/
  | rmsBwd (d : DescRef)
  /-- SMAX_BWD: An SMAX_BWD runs (R81, R178). -/
  | smaxBwd (d : DescRef)
  /-- ADD: An ELEM ADD runs (R82, R127). -/
  | add (d : DescRef)
  /-- MUL: An ELEM MUL runs (R82, R127). -/
  | mul (d : DescRef)
  /-- SCALE: An ELEM SCALE runs (R82, R127). -/
  | scale (d : DescRef)
  /-- CAST: An ELEM CAST runs (R82, R127). -/
  | cast (d : DescRef)
  /-- ACT: An ELEM ACT runs (R82, R171). -/
  | act (d : DescRef)
  /-- ACT_BWD: An ELEM ACT_BWD runs (R82, R173). -/
  | actBwd (d : DescRef)
  /-- DROPOUT: An ELEM DROPOUT runs (R82, R126). -/
  | dropout (d : DescRef)
  /-- ALLREDUCE: An ALLREDUCE starts (R309 to R311, R318 to R323). -/
  | allreduce (d : DescRef)
  /-- REDUCE_SCATTER: A REDUCE_SCATTER starts (R309 to R311). -/
  | reduceScatter (d : DescRef)
  /-- ALLGATHER: An ALLGATHER starts (R309, R312). -/
  | allgather (d : DescRef)
  /-- BROADCAST: A BROADCAST starts (R312). -/
  | broadcast (d : DescRef)
  /-- SEND: A SEND starts (R325, R326). -/
  | send (d : DescRef)
  /-- RECV: A RECV starts (R325, R326). -/
  | recv (d : DescRef)
  /-- HOST_IN: A HOST_IN starts (R85, R391). -/
  | hostIn (d : DescRef)
  /-- HOST_OUT: A HOST_OUT starts (R85, R391). -/
  | hostOut (d : DescRef)
  /-- LOCAL: A LOCAL move starts (R85, R518). -/
  | moveLocal (d : DescRef)
  /-- DM_BURST_COMPLETE: The outstanding burst at a descriptor offset completes (R391). -/
  | dmBurstComplete (chan : Fin 64) (off : BitVec 40)
  /-- DM_HALT: A burst ends with a bus error (R394). -/
  | dmHalt (chan : Fin 64) (off : BitVec 40) (kind : BusError)
  /-- DM_RESUME: The host writes DMn.CTL.RESUME (R395). -/
  | dmResume (chan : Fin 64)
  /-- DM_ABORT: The host writes DMn.CTL.ABORT (R395). -/
  | dmAbort (chan : Fin 64)
  /-- DM_BURST_AGED: A burst has waited AGE_US (R392). -/
  | dmBurstAged (chan : Fin 64) (off : BitVec 40)
  /-- NOP: A NOP starts (R86). -/
  | nop (d : DescRef)
  /-- STEP_OPEN: A STEP_OPEN starts (R21 to R23). -/
  | stepOpen (d : DescRef)
  /-- STEP_CLOSE: A STEP_CLOSE starts (R19). -/
  | stepClose (d : DescRef)
  /-- STEP_VERDICT_CONTRIBUTE: A CLOSING step contributes its verdict (R29, R33). -/
  | stepVerdictContribute (step : BitVec 48)
  /-- VOTE_SEAL: A VOTE_SEAL executes (R38). -/
  | voteSeal (d : DescRef)
  /-- VOTE_RESOLVE: A VOTE_RESOLVE executes (R39, R40). -/
  | voteResolve (d : DescRef)
  /-- OPT_BIND: An OPT_BIND starts (R89, R344). -/
  | optBind (d : DescRef)
  /-- CTR_SET: A CTR_SET starts (R91). -/
  | ctrSet (d : DescRef)
  /-- BARRIER: A BARRIER becomes eligible (R91). -/
  | barrier (d : DescRef)
  /-- BARRIER_RELEASE: Bobbin time reaches a BARRIER's value (R91). -/
  | barrierRelease (d : DescRef)
  /-- STEAM_PRE_RAMP_STEP: At each pre-ramp instant before an armed release, the idle engines of one wave begin Steam ops
  (R421). -/
  | steamPreRampStep (k : Fin 8)
  /-- START_WAVE_RELEASE: Bobbin time reaches a wave's offset, and engines of that wave start their held tile jobs (R155). -/
  | startWaveRelease (wave : Fin 8)
  /-- CAPS: A CAPS starts (R92). -/
  | caps (d : DescRef)
  /-- NOTICE_HOLDOFF_EXPIRE: The interrupt hold-off of a context ends (R399). -/
  | noticeHoldoffExpire (ctx : Fin 64)
  /-- VOTE_CELL_RECEIVE: A vote cell arrives, travelling along an axis (R34). `bad`, here and in the packets below: its cells failed the
  check after the port (R237). -/
  | voteCellReceive (axis : Fin 4) (plus bad : Bool) (cell : VoteCell)
  /-- VOTE_COMPLETE: The reduction of a step's vote is complete (R35). -/
  | voteComplete (step : BitVec 48)
  /-- VOTE_TIMEOUT: The vote timeout of a step expires (R37). -/
  | voteTimeout (step : BitVec 48)
  /-- OWN_UPDATE_COMPLETE: The own update of a step runs to its end (R41). -/
  | ownUpdateComplete (step : BitVec 48)
  /-- STEP_DISCARD_COMPLETE: The discard of a step completes (R50). -/
  | stepDiscardComplete (step : BitVec 48)
  /-- VERIFY_RECEIVE: A VERIFY packet arrives (R284). -/
  | verifyReceive (src : BitVec 14) (step : BitVec 48) (plus bad : Bool) (tag : BitVec 32) (bytes : BitVec 36)
  /-- VERIFY_SEND: The checks over a SEND's data have finished clean (R284). -/
  | verifySend (d : DescRef)
  /-- ANNOUNCE_RECEIVE: An ANNOUNCE packet arrives (R316). -/
  | announceReceive (bad : Bool) (p : Packet)
  /-- COLL_PACKET_RECEIVE: A COLL packet arrives along an axis; whether its cells failed the check after the port (R310,
  R237). -/
  | collPacketReceive (axis : Fin 4) (plus bad : Bool) (p : Packet)
  /-- P2P_PACKET_RECEIVE: A P2P packet arrives; the element bytes and all bytes of its SEND (R326). -/
  | p2pPacketReceive (axis : Fin 4) (plus bad : Bool) (elem total : BitVec 40) (p : Packet)
  /-- ABORTED_PACKET_RECEIVE: A packet completed with ABORT arrives (R285). -/
  | abortedPacketReceive (axis : Fin 4) (plus : Bool) (elem total : BitVec 40) (p : Packet)
  /-- HEAD_CELL_ROUTE: A head cell arrives at the router and is consumed, delivered, dropped or forwarded by the table of its epoch
  (R293); `more` counts the further cells of it that come in the head cell's own block (R294), `relayTo` is the target of a relayed
  image transfer the packet belongs to. -/
  | headCellRoute (port : Fin 12) (vc : Fin 8) (more : Fin 4) (relayTo : Option (BitVec 14)) (p : Packet)
  /-- CREDIT_RECEIVE: A CREDIT packet updates the sender's count of cells outstanding per VC (R289); the two credit words, and
  the LINKCLK cycles that cells of the port waited for credit. -/
  | creditReceive (port : Fin 12) (lo hi stall : BitVec 64)
  /-- CREDIT_TIMER_EXPIRE: 500 ns after the first unreported freed cell, the receiver sends a CREDIT packet (R289); of a port.
  -/
  | creditTimerExpire (port : Fin 12)
  /-- DISCOVER_RECEIVE: A DISCOVER packet records the neighbour in NBRn and reclassifies the port (R301); the peer's identity,
  whether it is assigned, its port number and its epoch bit. -/
  | discoverReceive (port : Fin 12) (id : BitVec 14) (valid : Bool) (peerPort : BitVec 4) (epoch : BitVec 1)
  /-- DISCOVER_PERIOD: Every 100 ms an active port sends a DISCOVER packet (R301). -/
  | discoverPeriod (port : Fin 12)
  /-- DRAIN_ROUND_RECEIVE: A DRAIN packet adds to the running total of a drain round, and a zero final total makes the
  draining table IDLE (R298); the axis it came along, the round and the running value. -/
  | drainRoundReceive (axis : Fin 4) (bad : Bool) (round : BitVec 16) (value : BitVec 64)
  /-- DRAIN_ROUND_GAP: GAP_US after a non-zero round, the device starts the next drain round (R298). -/
  | drainRoundGap
  /-- DRAIN_LATE: A table has drained for DRAIN.TIMEOUT_MS, so DRAIN_LATE is set and a notice posted (R299). -/
  | drainLate
  /-- FORCE_RELEASE: A write of ROUTE.CTL.FORCE_RELEASE makes a DRAINING table IDLE at once (R299). -/
  | forceRelease
  /-- BOBBIN_SYNC: Every SYNC_US a child sends a BOBBIN request to its parent (R332). -/
  | bobbinSync
  /-- BOBBIN_PACKET_RECEIVE: A BOBBIN request is answered, or an answer yields an offset that sets or trims the count and
  updates LOCKED (R333); request or answer, its sequence number and stamps, and whether either block was resent. -/
  | bobbinPacketReceive (port : Fin 12) (answer : Bool) (seq : BitVec 16) (t1 t2 t3 : BitVec 64) (resent : Bool)
  /-- BOBBIN_SET: A write of BOBBIN.SET sets a time source's count while no step is live (R334). -/
  | bobbinSet (value : BitVec 64)
  /-- SEAM_BEGIN: A SEAM BEGIN packet arrives (R348). -/
  | seamBegin (src : BitVec 14) (bad : Bool) (step : BitVec 48) (epoch : BitVec 32) (groups : BitVec 16) (bytes efb : BitVec 48)
  /-- SEAM_GROUP: A SEAM GROUP packet arrives (R348). -/
  | seamGroup (src : BitVec 14) (bad : Bool) (records : List (List Word))
  /-- SEAM_DATA: A SEAM DATA packet arrives (R348, R350). -/
  | seamData (src : BitVec 14) (bad : Bool) (pos : BitVec 48) (bytes : List Byte)
  /-- SEAM_EFB: A SEAM EFB packet arrives (R348). -/
  | seamEfb (src : BitVec 14) (bad : Bool) (off : BitVec 48) (bytes : List Byte)
  /-- SEAM_END: A SEAM END packet arrives (R348). -/
  | seamEnd (src : BitVec 14) (bad : Bool) (total : BitVec 64)
  /-- SEAM_ACK: A SEAM ACK packet arrives (R348, R350, R351). -/
  | seamAck (src : BitVec 14) (bad : Bool) (step : BitVec 48) (status : BitVec 2)
  /-- SEAM_RECORD: A RECORD packet arrives: a commit record or a request for one (R348, R364). -/
  | seamRecord (src : BitVec 14) (bad : Bool) (words : List Word)
  /-- SEAM_STREAM_TIMEOUT: No packet of a consumed stream for SEAM.TMO.STREAM_MS (R351). -/
  | seamStreamTimeout
  /-- SEAM_STREAM_RELEASE: The waiting SEAM packets are released after the outcome (R351). -/
  | seamStreamRelease
  /-- CKPT_PACKET_RECEIVE: A CKPT packet arrives (R348, R360). -/
  | ckptPacketReceive (src : BitVec 14) (bad : Bool) (pkt : StreamPkt)
  /-- LOAD_PACKET_RECEIVE: A LOAD packet arrives (R352). -/
  | loadPacketReceive (src : BitVec 14) (kind : BitVec 2) (bad : Bool) (pkt : StreamPkt)
  /-- IMAGE_TRANSFER_COMPLETE: Every byte of an incoming image is written (R352). -/
  | imageTransferComplete
  /-- FILL: The host starts a FILL with SEAM.XFER (R352, R520). -/
  | fill (relay : Option (BitVec 14))
  /-- LOAD: The host starts a LOAD with SEAM.XFER (R352, R520). -/
  | load (relay : Option (BitVec 14))
  /-- SLOT: The host starts a SLOT transfer with SEAM.XFER (R352, R520). -/
  | slot (slot : BitVec 1) (relay : Option (BitVec 14))
  /-- JOB_START: The host writes SEAM.JOB_START with START (R356). -/
  | jobStart (step : BitVec 48)
  /-- PRESS_COPY_COMPLETE: The press copy is complete (R359). -/
  | pressCopyComplete
  /-- CKPT_NOW: The host writes SEAM.CKPT_CTL.NOW (R358). -/
  | ckptNow
  /-- DRAIN_COMPLETE: Every byte of the drained slots is acknowledged (R361). -/
  | drainComplete
  /-- DRAIN_ABANDON: A drain destination is abandoned with a result code (R363). -/
  | drainAbandon (partner : Bool) (result : BitVec 3)
  /-- RESTORE_PREPARE: The host writes RESTORE.CMD = PREPARE (R364). -/
  | restorePrepare (source : BitVec 2) (step : BitVec 48)
  /-- RESTORE_COMMIT: The host writes RESTORE.CMD = COMMIT (R365). -/
  | restoreCommit
  /-- RESTORE_COMPLETE: The last byte of a restore has arrived (R365). -/
  | restoreComplete
  /-- RESTORE_ABORT: The host writes RESTORE.CMD = ABORT (R366). -/
  | restoreAbort
  /-- GROUP_COMMIT_SSTORE: The host writes SSTORE.GROUP_COMMIT (R190, R493). -/
  | groupCommitSstore
  /-- PARTITION_QUIET_APPLY: A partition with a pending change is quiet (R191). -/
  | partitionQuietApply (p : Fin 16)
  /-- GROUP_COMMIT_HBM: The host writes HBM.GROUP_COMMIT (R221, R493). -/
  | groupCommitHbm
  /-- GROUP_COMMIT_ROUTE: The host writes ROUTE.GROUP_COMMIT (R279, R296, R493). -/
  | groupCommitRoute
  /-- GROUP_COMMIT_SEAM: The host writes SEAM.GROUP_COMMIT (R346, R493). -/
  | groupCommitSeam
  /-- GROUP_COMMIT_OPP: The host writes OPP.GROUP_COMMIT (R406, R493). -/
  | groupCommitOpp
  /-- RING_ENABLE: The host writes RINGr.CTL with ENABLE 1 (R383). -/
  | ringEnable (ctx : Fin 64) (ring : Fin 4) (log2 : BitVec 5)
  /-- RING_DISABLE: The host writes RINGr.CTL with ENABLE 0 (R383). -/
  | ringDisable (ctx : Fin 64) (ring : Fin 4)
  /-- STEPCFG_WRITE: The host writes STEPCFG.CTL, KEEP_BASE or KEEP_SIZE (R489). -/
  | stepcfgWrite (reg : Fin 3) (value : BitVec 64)
  /-- SETUP_REGISTER_WRITE: The host writes a set-up register (R477). -/
  | setupRegisterWrite (addr : BitVec 24) (size : BitVec 4) (value : BitVec 64)
  /-- WINDOW_READ: The host reads the device memory window (R371). -/
  | windowRead (addr : BitVec 48) (len : BitVec 12)
  /-- WINDOW_WRITE: The host writes the device memory window (R371). -/
  | windowWrite (addr : BitVec 48) (bytes : List Byte)
  /-- LINT_PACK_LOAD: The host writes LINT.CTL.LOAD (R252). -/
  | lintPackLoad
  /-- LINT_ITEM_START: A unit is lent and an item begins (R241 to R243). -/
  | lintItemStart (unit : BitVec 16) (item : BitVec 16)
  /-- LINT_ITEM_COMPLETE: An item ends; whether its output's CRC matched (R241, R245). -/
  | lintItemComplete (unit : BitVec 16) (crcOk : Bool)
  /-- LINT_DEADLINE_MISS: The start of an item on a unit comes later than PERIOD_MS (R244). -/
  | lintDeadlineMiss (unit : BitVec 16) (item : BitVec 16)
  /-- CE_THRESHOLD_SECOND: A second of correction counting ends (R235). -/
  | ceThresholdSecond
  /-- PATROL_SCRUB: The patrol scrubber reads a word of HBM (R217). -/
  | patrolScrub
  /-- TG_START: The host writes HBM.TG_CTL.START (R227). -/
  | tgStart
  /-- TG_RUN_COMPLETE: A traffic-generator run ends; the words that mismatched, by stack, channel and local address (R228). -/
  | tgRunComplete (fails : List (Fin 8 × Fin 32 × BitVec 32))
  /-- STACK_TEMP_READ: The eight stack sensors are read (R222); none for a sensor that fails to answer. -/
  | stackTempRead (temps : List (Option (BitVec 8)))
  /-- PORT_ENABLE: A port leaves DARK when ENABLE is set and the RTR reset is released, and begins training (R262). -/
  | portEnable (port : Fin 12)
  /-- TRAINING_STATE_DONE: A training state's condition is met, and the port moves to the next state or to ACTIVE (R262); the
  lanes locked, and the symbols corrected per lane. -/
  | trainingStateDone (port : Fin 12) (lock : BitVec 16) (syms : List (BitVec 32))
  /-- TRAINING_FAIL_RETRY: 1 ms after a failure in training, the port returns to LIGHT or repeats ID (R262). -/
  | trainingFailRetry (port : Fin 12)
  /-- TRAIN_BLOCK_RECEIVE: A TRAIN block is received in ID and builds the lane map and generation choice (R265); the lane
  number heard, the first word, the nonce and the number the header acknowledges. -/
  | trainBlockReceive (port : Fin 12) (lane : Fin 16) (w0 nonce : BitVec 64) (ack : BitVec 16)
  /-- FIBRE_FAULT_CLASSIFY: The port measurements change the fibre fault class, and a LINK notice posts (R266); receive power
  and laser input per lane, and reverse power, in the units of R278. -/
  | fibreFaultClassify (port : Fin 12) (rxp lsp : List (BitVec 8)) (rev : BitVec 8)
  /-- LANE_BAD: An active lane becomes bad, and the port narrows to a smaller width (R268). -/
  | laneBad (port : Fin 12) (lane : Fin 16)
  /-- DATA_BLOCK_RECEIVE: A DATA block is accepted, or dropped with a NAK (R270); the symbols FEC corrected, whether it
  decoded, whether every Tack check passed, the number it acknowledges, and the channels of its cells that belong to packets
  whose head cells came in earlier blocks (R294). -/
  | dataBlockReceive (port : Fin 12) (corrected : BitVec 16) (fecOk tackOk : Bool) (ack : BitVec 16) (more : List (Fin 8))
  /-- NAK_RECEIVE: A NAK makes the sender send MARK and resend from the oldest unacknowledged block (R271); the block number
  asked for. -/
  | nakReceive (port : Fin 12) (ack : BitVec 16)
  /-- ACK_TIMEOUT: ACK has not moved for ACK_TIMEOUT_US, so the sender resends (R271). -/
  | ackTimeout (port : Fin 12)
  /-- MARK_RECEIVE: A MARK block sets the receiver's next expected block number (R271); the number of the next DATA block, and the
  number the header acknowledges. -/
  | markReceive (port : Fin 12) (num ack : BitVec 16)
  /-- PORT_DEAD: A port is declared dead; its buffers are discarded, cut packets ended, the live step failed and training
  restarted (R273). -/
  | portDead (port : Fin 12)
  /-- RETRAIN: A write of PCFGn.RETRAIN starts a full training once no step is live, or at once with NOW (R275); whether at
  once. -/
  | retrain (port : Fin 12) (now : Bool)
  /-- LASER_AGEING_SAMPLE: Every SAMPLE_MIN minutes, launch bias is sampled and a projected limit crossing raises LASER_AGEING
  (R276); the launch bias of each lane of each port, in hundredths of a mA. -/
  | laserAgeingSample (bias : List (List (BitVec 16)))
  /-- POWER_ALLOCATION: Every 10 µs, class demands are estimated and the MEM and CMP allowances, duty and ceiling are set
  (R413); the activity of LINK, MEM and CMP in parts of 65,536. -/
  | powerAllocation (link mem cmp : BitVec 17)
  /-- OPP_SELECTION_HELD: A new operating-point selection has held for DWELL_US, and a ramp or sprint decision begins (R409).
  -/
  | oppSelectionHeld (entry : Fin 16)
  /-- RAMP_STEP: A ramp moves ROOT by 25 MHz at each STEP_NS and reloads the Bobbin rate (R410). -/
  | rampStep
  /-- VR_SETTLE_EXPIRE: VR_US after a VCORE rise, the ramp takes its first step (R410). -/
  | vrSettleExpire
  /-- SPRINT_END: A sprint nears 40 ms or loses its condition, and the down-ramp to the fallback starts (R418). -/
  | sprintEnd
  /-- DROOP_DETECT: A droop detector reads low, CORECLK is stretched and any ramp pauses (R411). -/
  | droopDetect
  /-- DROOP_STRETCH_END: 64 stretched cycles after the last detector clears, CORECLK runs at full rate (R411); the cycles
  stretched. -/
  | droopStretchEnd (cycles : BitVec 64)
  /-- DROOP_QUIET_EXPIRE: QUIET_US without droop passes, and a paused ramp resumes (R412). -/
  | droopQuietExpire
  /-- STEAM_GAP_EXPIRE: No tile job arrives within MAX_NS, so the engine clock-gates its quads in turn (R419); the engine. -/
  | steamGapExpire (bay : Fin 20) (me : Fin 8)
  /-- JUNCTION_READ: Every 100 µs the junction sensors are read and throttle, limit or trip applied (R422); the 48 readings;
  none for a sensor that fails. -/
  | junctionRead (temps : List (Option (BitVec 8)))
  /-- COOLANT_FILTER_EXPIRE: COOLANT_OK stays deasserted for 2 µs, and a thermal stop runs (R423). -/
  | coolantFilterExpire
  /-- RAILS_OK_LOSS: RAILS_OK deasserts for 2 µs outside Folded, and the stop sequence runs (R505). -/
  | railsOkLoss
  /-- IDLE_ENTRY: After IDLE_US with no work, the device enters IDLE at entry 0 (R425). -/
  | idleEntry
  /-- STATE_REQ_ACTIVE: STATE_REQ ACTIVE powers CMP and leaves PARKED (R425). -/
  | stateReqActive
  /-- STATE_REQ_PARKED: STATE_REQ PARKED powers off CMP and puts stacks in self-refresh (R425). -/
  | stateReqParked
  /-- STATE_REQ_FOLDED: STATE_REQ FOLDED powers off all but AON (R425). -/
  | stateReqFolded
  /-- CTLCLK_SOURCE_SELECT: A write of CLK.CTL.SRC switches CTLCLK to ROOT/16 while the root PLL is locked (R405); 1 for
  ROOT/16. -/
  | ctlclkSourceSelect (root : BitVec 1)
  /-- WAKE: A command-target address match in Folded raises a wake that powers the domains and locks the PLL (R428). -/
  | wake
  /-- COLD_START: At AON power good the device runs the cold-start phases through to DONE (R439); the straps BOOT_SEL,
  MBUS_I3C and MADDR. -/
  | coldStart (bootSel : BitVec 2) (i3c : Bool) (maddr : BitVec 3)
  /-- BOOT_PHASE_COMPLETE: A cold-start phase completes, and the next phase begins (R439); whether the seed could be
  reconstructed (phase 2) or every SRAM repaired (phase 4), and the ms the phase took. -/
  | bootPhaseComplete (ok : Bool) (ms : BitVec 32)
  /-- BRING_UP_ENTRY: The boot sequencer runs one bring-up table entry, whose wait or poll ends or times out (R438); 0 POWER,
  1 HBM, 2 PORT, 3 HOST, with its stack or port; whether the wait, poll or TG run ended well. -/
  | bringUpEntry (table : Fin 4) (unit : BitVec 8) (ok : Bool)
  /-- RESET_CMP: A CMP reset request fences, resets and restarts the compute domain (R445). -/
  | resetCmp
  /-- RESET_MEM: A MEM reset request fences and resets MEM and CMP, losing HBM contents (R445). -/
  | resetMem
  /-- RESET_HIF: A HIF reset request, by register or PERST#, hot reset or FLR, fences and retrains the host interface (R448).
  -/
  | resetHif
  /-- RESET_FULL: A FULL reset request resets every domain but AON and reruns the cold start (R445); the strap BOOT_SEL as
  sampled. -/
  | resetFull (bootSel : BitVec 2)
  /-- FENCE_TIMEOUT: FENCE_US expires during a fence, and outstanding requests are answered (R443). -/
  | fenceTimeout
  /-- CMP_RESET_COMPLETE: A CMP reset ends and the step logic rebuilds each live step from HBM (R446); `written` blocks of the
  own update had been accepted. -/
  | cmpResetComplete (written : BitVec 32)
  /-- HOST_LINK_DOWN: The host link goes down; channels halt and write-backs wait (R396). -/
  | hostLinkDown
  /-- HOST_LINK_UP: The host link trains, and the device rereads every doorbell line (R388); the modes the partner supports, bit `n − 1`
  for MODE n, and the lanes it trained to. -/
  | hostLinkUp (modes : BitVec 6) (width : BitVec 5)
  /-- STATUS_BYTE_READ: A read of the status target returns the tray status byte (R455); the bytes read. -/
  | statusByteRead (bytes : BitVec 8)
  /-- SETDASA: An I3C SETDASA assigns a target its dynamic address from its static address (R454); the static address and the
  dynamic one. -/
  | setdasa (staticAddr dyn : BitVec 7)
  /-- RSTDAA: An I3C RSTDAA clears the dynamic addresses (R454). -/
  | rstdaa
  /-- STATUS: Management command STATUS returns 16 bytes of device status (R459). -/
  | status
  /-- READ_REG: Management command READ_REG returns an 8-byte set-up register (R458). -/
  | readReg (addr : BitVec 48)
  /-- SET_CAPS: Management command SET_CAPS writes the tray and sprint caps (R458). -/
  | setCaps (tray sprint : BitVec 16)
  /-- RESET: Management command RESET requests a domain reset (R458); the domain code, and BOOT_SEL as sampled for FULL. -/
  | reset (domain : BitVec 8) (bootSel : BitVec 2)
  /-- POWER: Management command POWER requests a power state (R458). -/
  | power (req : BitVec 8)
  /-- RESTART: Management command RESTART reruns the cold start after failure or recovery (R458); the straps as sampled again.
  -/
  | restart (bootSel : BitVec 2) (i3c : Bool) (maddr : BitVec 3)
  /-- FLASH_READ: Management command FLASH_READ returns flash bytes (R460). -/
  | flashRead (offset : BitVec 32) (len : BitVec 8)
  /-- FLASH_ERASE: Management command FLASH_ERASE erases a 64 KiB sector (R460). -/
  | flashErase (offset : BitVec 32)
  /-- FLASH_WRITE: Management command FLASH_WRITE programs up to 128 bytes within a page (R460); the offset and the bytes. -/
  | flashWrite (offset : BitVec 32) (bytes : List Byte)
  /-- ROTATE_OWNER: Management command ROTATE_OWNER writes a new owner record to both helper copies under presence (R466);
  POLICY, the owner modulus, and whether presence still holds at the last step. -/
  | rotateOwner (policy : BitVec 8) (key : List Byte) (held : Bool)
  /-- TEST_ENABLE: Management command TEST_ENABLE sets TEST_EN and TEST_EVER under presence (R474). -/
  | testEnable
  /-- TEST_DISABLE: Management command TEST_DISABLE clears TEST_EN (R474). -/
  | testDisable
  /-- CLEAR_OOS: Management command CLEAR_OOS clears the out-of-service latch and record under presence (R452). -/
  | clearOos
  /-- ERASE_HELPER: Management command ERASE_HELPER erases both identity helper copies (R471). -/
  | eraseHelper
  /-- BAD_PEC_COMMAND: A command with a wrong PEC receives BAD_PEC and counts (R457); the frame as it came, that of a CMD
  which R458 does not list among them. -/
  | badPecCommand (frame : List Byte)
  /-- LAND_TEST: Each ms a harness land or the seal loop is tested and its class updated after three agreeing tests (R462);
  what the monitor read. -/
  | landTest (r : LandReading)
  /-- PRESENCE_ASSERT: MAINT_PRESENT_N low and the seal open for 1 s assert physical presence (R461). -/
  | presenceAssert
  /-- IDENTITY_KEY_READY: Generation of the identity key completes and ID_READY is set (R470). -/
  | identityKeyReady
  /-- SPDM_GET_VERSION: An SPDM GET_VERSION request over DOE is answered (R472). -/
  | spdmGetVersion
  /-- SPDM_GET_CAPABILITIES: An SPDM GET_CAPABILITIES request is answered with CERT, CHAL and MEAS capabilities (R472); the
  request as it came. -/
  | spdmGetCapabilities (req : List Byte)
  /-- NEGOTIATE_ALGORITHMS: An SPDM NEGOTIATE_ALGORITHMS request selects RSA-4096 and SHA-512, or errors (R472); the request
  as it came. -/
  | negotiateAlgorithms (req : List Byte)
  /-- SPDM_GET_CERTIFICATE: An SPDM GET_CERTIFICATE request returns the slot 0 chain (R472). -/
  | spdmGetCertificate (slot : BitVec 4) (off len : BitVec 16)
  /-- CHALLENGE: An SPDM CHALLENGE is signed with the identity key, or answered Busy before ID_READY (R472); the slot, the
  kind of measurement summary, the nonce, and the context of a 1.3 request. -/
  | challenge (slot : BitVec 4) (kind : BitVec 8) (nonce : BitVec 256) (context : BitVec 64)
  /-- GET_MEASUREMENTS: An SPDM GET_MEASUREMENTS returns the measurement indices, signed when requested (R472); whether
  signed, the index, the nonce, and the context of a 1.3 request. -/
  | getMeasurements (sign : Bool) (index : BitVec 8) (nonce : BitVec 256) (context : BitVec 64)
  /-- BYPASS: JTAG instruction BYPASS selects the bypass register (R473). -/
  | bypass
  /-- IDCODE: JTAG instruction IDCODE selects the IDCODE register (R473). -/
  | idcode
  /-- SAMPLE_PRELOAD: JTAG instruction SAMPLE/PRELOAD captures or loads the boundary register (R473); the pins sampled and the
  cells shifted in. -/
  | samplePreload (pins cells : List Bool)
  /-- EXTEST: JTAG instruction EXTEST drives the boundary register while TEST_EN, else acts as BYPASS (R473). -/
  | extest
  /-- CLAMP: JTAG instruction CLAMP holds outputs while TEST_EN, else acts as BYPASS (R473). -/
  | clamp
  /-- HIGHZ: JTAG instruction HIGHZ floats outputs while TEST_EN, else acts as BYPASS (R473). -/
  | highz
  /-- VRC_FRAME_REPEAT: Every 1 ms the device resends the VCORE set-point frame in force (R502). -/
  | vrcFrameRepeat
  /-- RAILS_OK_ASSERT: RAILS_OK rises, letting phase 1 of a waiting cold start close its first power switch, or starting the
  wake timeline of a device whose rails were removed in Folded (R503). -/
  | railsOkAssert
  /-- NAK_REPEAT_TIMEOUT: A receiver that has sent NAK and gets no MARK within RETRY.ACK_TIMEOUT_US repeats the NAK (R270). -/
  | nakRepeatTimeout (port : Fin 12)
  /-- LINT_PACK_LOAD_COMPLETE: The checks of a pack being loaded are complete (R252, R253). -/
  | lintPackLoadComplete
  /-- MIRROR_UPDATE_COMPLETE: The mirror update has made every write (R350). -/
  | mirrorUpdateComplete
  /-- ENEC: An I3C ENEC command enables in-band interrupts of the command target (R456). -/
  | enec
  /-- AON_POWER_LOSS: Group 1 power is removed, losing the AON state: the sprint wear record, reset counters, out-of-service
  latch, TEST_EVER, dynamic addresses and PWR.AON (R504). -/
  | aonPowerLoss
  deriving DecidableEq, Repr

end Sys2Proof
end

