-- ==== Sys2Proof/Decode.lean ====
section
/-!
DEFINITION. The command a word spells by the table's bits. No row of this hardware's table gives bits: its commands are events
and register accesses of a block, not words.
-/
namespace Sys2Proof

/-- The command that a word of `nbits` bits spells: none, since no row gives bits. -/
def decodeTableWord (_nbits _w : Nat) : Option Instr := none

end Sys2Proof
end

