-- ==== Sys2Proof/Config.lean ====
section
/-!
DEFINITION. What one device fixes and the spec leaves open: free values, device secrets and straps. Every constant here is
opaque: no proof can see its value, so a statement that mentions one holds whatever it is.
-/
namespace Sys2Proof

/-- Free values: what a value the spec leaves open is, the `n`-th time one is drawn (log 1). -/
opaque Config.freeValue : Nat → Nat

/-- ID.DEV.STEPPING, from the mask ROM (R486). -/
opaque Config.stepping : BitVec 8

/-- ID.DEV.SAMPLE, from a strap in the substrate (R2, R486). -/
opaque Config.sample : BitVec 1

/-- Contents of the CXL component and device registers in a CXL mode, by offset (R484: the CXL 3.1 standard layout, which
the spec does not give). -/
opaque Config.cxlRegister : Nat → BitVec 64

/-- The device's PUF response, error-corrected with helper data (R470). -/
opaque Config.pufKey : List Byte → Nat

/-- The helper data that the `n`-th measurement of the PUF gives (R471). -/
opaque Config.pufHelper : Nat → List Byte

/-- The SHA-512 digests of the accepted vendor keys in mask ROM (R468). -/
opaque Config.vendorDigest : List Byte

/-- Power coefficients of the estimate of R413, which the set-up defaults of the image carry (R435) in a form that is not stated:
by their bytes, the class, and 0 for what it draws or 1 for what full activity adds. -/
opaque Config.powerCoeff : List Byte → Nat → Nat → Nat

/-- The host-link modes that the set-up defaults of the image permit (R369, R435), in a form that is not stated: bit `k` for mode
`k + 1`. -/
opaque Config.imageModes : List Byte → BitVec 6

/-- What a PHY-internal address holds before a bring-up table has written it (R438). -/
opaque Config.phyFirst : Nat → BitVec 64

/-- The logarithm of the burst length that a HIF.DM_ARB.BURST_LOG2 outside 8 to 12 gives (R391, R402; log 14). -/
opaque Config.burstLog2 : Nat → Nat

/-- The fixed hash of address bits [47:9] that gives a cache line its set, by the number of cache partitions and the line's
address in units of 512 bytes (R192). -/
opaque Config.cacheSet : Nat → Nat → Nat

/-- The first contents of a pattern generator of the array edges (R153), by quad of the device, edge and row or column. -/
opaque Config.steamFirst : Nat → BitVec 16

/-- The CORECLK cycles in which the `n`-th request to the shared store waited for a bank (R201; log 81). -/
opaque Config.xbarWait : Nat → Nat

/-- The MEMCLK cycles of the `n`-th request to HBM in which a channel queue was full (R211; log 81). -/
opaque Config.queueWait : Nat → Nat

/-- One step of a pattern generator (R153): its feedback taps are not stated. -/
opaque Config.steamNext : BitVec 16 → BitVec 16

/-- The format code as which Steam ops take their operands, and the products of one of their groups (R153): not stated. -/
opaque Config.steamFmt : Nat
/-- The number of products in a group of Steam ops (R153). -/
opaque Config.steamLen : Nat

/-- A word of the traffic generator's data under a reserved PATTERN (R228), by PATTERN, the seed (SEED xor the channel number) and
the word's number. -/
opaque Config.tgData : Nat → Nat → Nat → Nat

/-- The place of a local channel address in ORDER 1 of R228, whose LFSR is not stated, and in the reserved ORDER 3. -/
opaque Config.tgRank : Nat → Nat → Nat

/-- The bank that the set hash gives a cache line, by the number of cache partitions and the line (R200). -/
opaque Config.cacheBank : Nat → Nat → Nat

end Sys2Proof
end

