-- ==== Sys2Proof/Machine/Fp.lean ====
section
/-!
DEFINITION. Number formats, exact values and rounding (R101 to R110), the basic FP32 operations and the function
sequences built from them (R165 to R173), and the Philox generator (R124, R125).
A finite value is a dyadic number held exactly: sign, integer significand and power of two.
-/
namespace Sys2Proof

/-- The element formats of R60 (encodings in R101). -/
inductive Fmt where
  | fp8E4M3 | fp8E5M2 | mxfp8E4M3 | mxfp8E5M2 | mxfp6E2M3 | mxfp6E3M2 | mxfp4E2M1
  | bf16 | fp16 | fp32 | int8 | int32 | be8 | mask1
  deriving DecidableEq, Repr

/-- An exact value: NaN, an infinity, or `(-1)^neg * m * 2^e` (the sign of a zero is kept). -/
inductive FV where
  | nan
  | inf (neg : Bool)
  | fin (neg : Bool) (m : Nat) (e : Int)
  deriving DecidableEq, Repr

namespace Machine

/-- The format of a code of R60; none for a reserved code. -/
def fmtOfCode : Nat → Option Fmt
  | 0x01 => some .fp8E4M3 | 0x02 => some .fp8E5M2 | 0x03 => some .mxfp8E4M3 | 0x04 => some .mxfp8E5M2
  | 0x05 => some .mxfp6E2M3 | 0x06 => some .mxfp6E3M2 | 0x07 => some .mxfp4E2M1 | 0x08 => some .bf16
  | 0x09 => some .fp16 | 0x0A => some .fp32 | 0x0B => some .int8 | 0x0C => some .int32
  | 0x0D => some .be8 | 0x0E => some .mask1
  | _ => none

/-- Bits of one element (R101). -/
def fmtBits : Fmt → Nat
  | .fp8E4M3 | .fp8E5M2 | .mxfp8E4M3 | .mxfp8E5M2 | .int8 | .be8 => 8
  | .mxfp6E2M3 | .mxfp6E3M2 => 6
  | .mxfp4E2M1 => 4
  | .bf16 | .fp16 => 16
  | .fp32 | .int32 => 32
  | .mask1 => 1

/-- Whether the format carries a scale byte per block of 32 (R104). -/
def fmtBlocked : Fmt → Bool
  | .mxfp8E4M3 | .mxfp8E5M2 | .mxfp6E2M3 | .mxfp6E3M2 | .mxfp4E2M1 | .be8 => true
  | _ => false

/-- Exponent bits, significand bits and bias of a floating-point format (R101); none for the others. -/
def fpShape : Fmt → Option (Nat × Nat × Nat)
  | .fp8E4M3 | .mxfp8E4M3 => some (4, 3, 7)
  | .fp8E5M2 | .mxfp8E5M2 => some (5, 2, 15)
  | .mxfp6E2M3 => some (2, 3, 1)
  | .mxfp6E3M2 => some (3, 2, 3)
  | .mxfp4E2M1 => some (2, 1, 1)
  | .bf16 => some (8, 7, 127)
  | .fp16 => some (5, 10, 15)
  | .fp32 => some (8, 23, 127)
  | .int8 | .int32 | .be8 | .mask1 => none

/-- The magnitude code of the largest finite value (R101). -/
def fpMaxCode : Fmt → Nat
  | .fp8E4M3 | .mxfp8E4M3 => 0x7E
  | .fp8E5M2 | .mxfp8E5M2 => 0x7B
  | .mxfp6E2M3 | .mxfp6E3M2 => 31
  | .mxfp4E2M1 => 7
  | .bf16 => 0x7F7F
  | .fp16 => 0x7BFF
  | .fp32 => 0x7F7FFFFF
  | .int8 | .int32 | .be8 | .mask1 => 0

/-- The canonical NaN's encoding (R108). -/
def fpNanCode : Fmt → Nat
  | .fp32 => 0x7FC00000 | .bf16 => 0x7FC0 | .fp16 => 0x7E00
  | .fp8E4M3 => 0x7F | .fp8E5M2 => 0x7E
  | _ => 0

/-- A positive zero. -/
def fvZero : FV := .fin false 0 0

/-- An integer as an exact value. -/
def fvOfInt (i : Int) : FV := .fin (decide (i < 0)) i.natAbs 0

/-- A natural number as an exact value. -/
def fvOfNat (n : Nat) : FV := .fin false n 0

/-- A two's-complement number of `w` bits. -/
def twos (w v : Nat) : Int :=
  let u := v % 2 ^ w
  if u < 2 ^ (w - 1) then (u : Int) else (u : Int) - (2 ^ w : Nat)

/-- The value of a floating-point encoding (R101). -/
def fpDecode (f : Fmt) (bits : Nat) : FV :=
  match fpShape f with
  | none => fvZero
  | some (eb, mb, bias) =>
    let neg := decide (bits / 2 ^ (eb + mb) % 2 = 1)
    let mag := bits % 2 ^ (eb + mb)
    let e := mag / 2 ^ mb
    let m := mag % 2 ^ mb
    if mag > fpMaxCode f then
      (if fpMaxCode f + 1 = mag ∧ f ≠ .fp8E4M3 ∧ f ≠ .mxfp8E4M3 then .inf neg else .nan)
    else if e = 0 then .fin neg m (1 - (bias : Int) - mb)
    else .fin neg (2 ^ mb + m) ((e : Int) - bias - mb)

/-- `m * 2^(-s)` rounded to the nearest integer, ties to even. -/
def rneShift (m s : Nat) : Nat :=
  if s = 0 then m
  else
    let q := m >>> s
    let r := m % 2 ^ s
    let h := 2 ^ (s - 1)
    if r > h ∨ (r = h ∧ q % 2 = 1) then q + 1 else q

/-- `m * 2^d` rounded to the nearest integer, ties to even. -/
def rneScale (m : Nat) (d : Int) : Nat :=
  if 0 ≤ d then m <<< d.toNat else rneShift m (-d).toNat

/-- The magnitude code of `m * 2^e` rounded to nearest even in a format with `mb` significand bits and smallest
subnormal `2^qmin`, without any bound above (R107). -/
def roundCode (mb : Nat) (qmin : Int) (m : Nat) (e : Int) : Nat :=
  if m = 0 then 0
  else
    let q := max qmin ((m.log2 : Int) + e - mb)
    (q - qmin).toNat * 2 ^ mb + rneScale m (e - q)

/-- Rounds an exact value to the nearest integer, ties to even; NaN gives 0 and an infinity the bound given (R107). -/
def roundInt (lo hi : Int) : FV → Int
  | .nan => 0
  | .inf neg => if neg then lo else hi
  | .fin neg m e =>
    let v : Int := if neg then -(rneScale m e : Int) else (rneScale m e : Int)
    max lo (min hi v)

/-- Conversion of an exact value to a plain destination format (R107, R108): the element's encoding.
Elements of the blocked formats are converted by block (`convertBlock`). -/
def fpEncode (f : Fmt) (x : FV) : Nat :=
  match f with
  | .int8 => (roundInt (-128) 127 x % 256).toNat
  | .int32 => (roundInt (-2147483648) 2147483647 x % 4294967296).toNat
  | .mask1 => (match x with | .fin _ m _ => if m = 0 then 0 else 1 | _ => 1)
  | _ =>
    match fpShape f with
    | none => 0
    | some (eb, mb, bias) =>
      let sgn := 2 ^ (eb + mb)
      match x with
      | .nan => fpNanCode f
      | .inf neg =>
        if f = .fp8E4M3 then fpNanCode f
        else fpMaxCode f + 1 + (if neg then sgn else 0)
      | .fin neg m e =>
        let c := roundCode mb (1 - (bias : Int) - mb) m e
        let c := if c > fpMaxCode f then
            (if f = .fp8E4M3 then fpMaxCode f else fpMaxCode f + 1)
          else c
        c + (if neg then sgn else 0)

/-- One rounding to FP32 (R107), as a value. -/
def rnd32 (x : FV) : FV := fpDecode .fp32 (fpEncode .fp32 x)

/-- One rounding to BF16 (R107), as a value. -/
def rndBf16 (x : FV) : FV := fpDecode .bf16 (fpEncode .bf16 x)

/-- Whether a value is NaN. -/
def fvIsNan : FV → Bool
  | .nan => true
  | _ => false

/-- The sign bit of a value. -/
def fvNeg : FV → Bool
  | .nan => false
  | .inf n => n
  | .fin n _ _ => n

/-- The value with its sign changed; exact. -/
def fvMinus : FV → FV
  | .nan => .nan
  | .inf n => .inf (!n)
  | .fin n m e => .fin (!n) m e

/-- The magnitude of a value. -/
def fvAbs : FV → FV
  | .nan => .nan
  | .inf _ => .inf false
  | .fin _ m e => .fin false m e

/-- The value times `2^k`; exact. -/
def fvScale (k : Int) : FV → FV
  | .fin n m e => .fin n m (e + k)
  | x => x

/-- The signed significand. -/
def signed (neg : Bool) (m : Nat) : Int := if neg then -(m : Int) else m

/-- The exact sum of two finite values at the lower of the two exponents. -/
def sumParts (n1 : Bool) (m1 : Nat) (e1 : Int) (n2 : Bool) (m2 : Nat) (e2 : Int) : Int × Int :=
  let e := min e1 e2
  (signed n1 (m1 <<< (e1 - e).toNat) + signed n2 (m2 <<< (e2 - e).toNat), e)

/-- The exact sum, with IEEE 754-2019 infinities, NaN and zero signs (R114, R127). -/
def fvAdd : FV → FV → FV
  | .nan, _ => .nan
  | _, .nan => .nan
  | .inf a, .inf b => if a = b then .inf a else .nan
  | .inf a, .fin _ _ _ => .inf a
  | .fin _ _ _, .inf b => .inf b
  | .fin n1 m1 e1, .fin n2 m2 e2 =>
    let p := sumParts n1 m1 e1 n2 m2 e2
    if p.1 = 0 then .fin (n1 && n2) 0 p.2
    else .fin (decide (p.1 < 0)) p.1.natAbs p.2

/-- The exact product, with IEEE 754-2019 infinities, NaN and zero signs (R111, R112, R127). -/
def fvMul : FV → FV → FV
  | .nan, _ => .nan
  | _, .nan => .nan
  | .inf a, .inf b => .inf (a != b)
  | .inf a, .fin n m _ => if m = 0 then .nan else .inf (a != n)
  | .fin n m _, .inf b => if m = 0 then .nan else .inf (n != b)
  | .fin n1 m1 e1, .fin n2 m2 e2 => .fin (n1 != n2) (m1 * m2) (e1 + e2)

/-- A value that is a zero becomes +0 (R115). -/
def plusZero : FV → FV
  | .fin n m e => if m = 0 then fvZero else .fin n m e
  | x => x

/-- The exact sum of a list of values (R111, R112, R179): NaN and infinities first, then one exact sum; a sum of terms that are all
-0 is -0, as IEEE 754-2019 adds them (DEDUCED for an empty or zero sum, log 41). -/
def fvSum : List FV → FV
  | [] => fvZero
  | [x] => x
  | x :: xs => fvAdd x (fvSum xs)

/-- `a < b` for values that are not NaN; false when either is NaN. -/
def fvLt : FV → FV → Bool
  | .nan, _ => false
  | _, .nan => false
  | .inf a, .inf b => a && !b
  | .inf a, .fin _ _ _ => a
  | .fin _ _ _, .inf b => !b
  | .fin n1 m1 e1, .fin n2 m2 e2 => decide ((sumParts n1 m1 e1 (!n2) m2 e2).1 < 0)

/-- The larger of two values: NaN when either is NaN, +0 above -0 (R121). -/
def fvMax (a b : FV) : FV :=
  if fvIsNan a || fvIsNan b then .nan
  else if fvLt a b then b
  else if fvLt b a then a
  else if fvNeg a then b else a

/-- Correctly rounded FP32 division (R165): a quotient with a sticky bit, rounded once. -/
def f32Div (a b : FV) : FV :=
  match a, b with
  | .nan, _ => .nan
  | _, .nan => .nan
  | .inf _, .inf _ => .nan
  | .inf x, .fin n _ _ => .inf (x != n)
  | .fin n _ _, .inf y => .fin (n != y) 0 0
  | .fin n1 m1 e1, .fin n2 m2 e2 =>
    if m2 = 0 then (if m1 = 0 then .nan else .inf (n1 != n2))
    else
      let sh := m2.log2 + 64
      let num := m1 <<< sh
      let q := num / m2
      let sticky := if num % m2 = 0 then 0 else 1
      rnd32 (.fin (n1 != n2) (2 * q + sticky) (e1 - e2 - sh - 1))

/-- The integer square root, one bit at a time from bit `k - 1` down. -/
def isqrtBits (n : Nat) : Nat → Nat → Nat
  | 0, r => r
  | k + 1, r =>
    let t := r + 2 ^ k
    if t * t ≤ n then isqrtBits n k t else isqrtBits n k r

/-- Correctly rounded FP32 square root (R166). -/
def f32Sqrt : FV → FV
  | .nan => .nan
  | .inf neg => if neg then .nan else .inf false
  | .fin neg m e =>
    if m = 0 then .fin neg 0 0
    else if neg then .nan
    else
      let e0 := e % 2
      let n := m <<< (128 + e0.toNat)
      let r := isqrtBits n ((n.log2) / 2 + 1) 0
      let sticky := if r * r = n then 0 else 1
      rnd32 (.fin false (2 * r + sticky) ((e - e0) / 2 - 65))

/-- FP32 addition, rounded once (R165). -/
def f32Add (a b : FV) : FV := rnd32 (fvAdd a b)
/-- FP32 subtraction, rounded once (R165). -/
def f32Sub (a b : FV) : FV := rnd32 (fvAdd a (fvMinus b))
/-- FP32 multiplication, rounded once (R165). -/
def f32Mul (a b : FV) : FV := rnd32 (fvMul a b)
/-- The FP32 value of an encoding. -/
def f32 (bits : Nat) : FV := fpDecode .fp32 bits

/-- The reciprocal square root: two roundings (R166). -/
def f32Rsqrt (v : FV) : FV := f32Div (f32 0x3F800000) (f32Sqrt v)

/-- The exponential (R167, R168). -/
def f32Exp (x : FV) : FV :=
  if fvIsNan x then .nan
  else if fvLt (fvOfNat 89) x then .inf false
  else if fvLt x (fvOfInt (-104)) then fvZero
  else
    let n := roundInt (-1000) 1000 (f32Mul x (f32 0x3FB8AA3B))
    let fn := fvOfInt n
    let r := f32Sub x (f32Mul fn (f32 0x3F318000))
    let r := f32Sub r (f32Mul fn (f32 0xB95E8083))
    let p := [0x3C088889, 0x3D2AAAAB, 0x3E2AAAAB, 0x3F000000, 0x3F800000, 0x3F800000].foldl
      (fun p c => f32Add (f32Mul p r) (f32 c)) (f32 0x3AB60B61)
    rnd32 (fvScale n p)

/-- The sigmoid (R169). -/
def f32Sigmoid (x : FV) : FV :=
  f32Div (f32 0x3F800000) (f32Add (f32 0x3F800000) (f32Exp (fvMinus x)))

/-- A value given the sign of another. -/
def withSign (neg : Bool) : FV → FV
  | .nan => .nan
  | .inf _ => .inf neg
  | .fin _ m e => .fin neg m e

/-- The hyperbolic tangent (R170). -/
def f32Tanh (x : FV) : FV :=
  if fvIsNan x then .nan
  else
    let a := fvAbs x
    let y :=
      if fvLt a (.fin false 1 (-3)) then
        let s := f32Mul a a
        let p := f32Add (f32Mul (f32 0xBD5D0DD6) s) (f32 0x3E088889)
        let p := f32Add (f32Mul p s) (f32 0xBEAAAAAB)
        let p := f32Mul p s
        f32Add (f32Mul a p) a
      else
        let t := f32Exp (f32Mul (fvOfInt (-2)) a)
        f32Div (f32Sub (f32 0x3F800000) t) (f32Add (f32 0x3F800000) t)
    withSign (fvNeg x) y

/-- The activation functions of ACT and ACT_BWD (R82, R171). -/
inductive ActFunc where
  | relu | leaky | sigmoid | tanh | exp | sqrelu | silu | geluSig
  deriving DecidableEq, Repr

/-- `f x` and, for SILU and GELU_SIG, the gate `g` (R171). `a` is PARAM. -/
def actForward (f : ActFunc) (a x : FV) : FV × FV :=
  if fvIsNan x then (.nan, .nan)
  else
    let pos := fvLt fvZero x
    match f with
    | .relu => (if pos then x else fvZero, fvZero)
    | .leaky => (if pos then x else f32Mul a x, fvZero)
    | .sigmoid => (f32Sigmoid x, fvZero)
    | .tanh => (f32Tanh x, fvZero)
    | .exp => (f32Exp x, fvZero)
    | .sqrelu => (if pos then f32Mul x x else fvZero, fvZero)
    | .silu => let g := f32Sigmoid x; (f32Mul x g, g)
    | .geluSig => let g := f32Sigmoid (f32Mul (f32 0x3FD9DB23) x); (f32Mul x g, g)

/-- The derivative from the saved output `y` and gate `g` (R173). -/
def actDeriv (f : ActFunc) (a y g : FV) : FV :=
  let one := f32 0x3F800000
  let pos := fvLt fvZero y
  let gated := match f with | .silu | .geluSig => true | _ => false
  if fvIsNan y || (gated && fvIsNan g) then .nan
  else
    match f with
    | .relu => if pos then one else fvZero
    | .leaky => if pos then one else a
    | .sigmoid => f32Mul y (f32Sub one y)
    | .tanh => f32Sub one (f32Mul y y)
    | .exp => y
    | .sqrelu => if pos then f32Mul (f32 0x40000000) (f32Sqrt y) else fvZero
    | .silu => f32Add g (f32Mul y (f32Sub one g))
    | .geluSig => f32Add g (f32Mul (f32 0x3FD9DB23) (f32Mul y (f32Sub one g)))

/-- The value of an element under its block's scale byte (R106). Unblocked formats ignore the scale. -/
def elemValue (f : Fmt) (scale bits : Nat) : FV :=
  match f with
  | .int8 => fvOfInt (twos 8 bits)
  | .int32 => fvOfInt (twos 32 bits)
  | .mask1 => if bits % 2 = 0 then fvZero else fvOfNat 1
  | .be8 =>
    if scale = 255 then .nan else fvScale ((scale : Int) - 133) (fvOfInt (twos 8 bits))
  | _ =>
    if fmtBlocked f then
      (if scale = 255 then .nan else fvScale ((scale : Int) - 127) (fpDecode f bits))
    else fpDecode f bits

/-- The `emax` of an MX element format (R109); 0 for BE8, whose scale follows the largest magnitude itself (R110). -/
def mxEmax : Fmt → Int
  | .mxfp8E4M3 => 8 | .mxfp8E5M2 => 15 | .mxfp6E2M3 => 2 | .mxfp6E3M2 => 4 | .mxfp4E2M1 => 2
  | _ => 0

/-- The binary logarithm of a finite non-zero magnitude, rounded down; none for zero. -/
def floorLog2 : FV → Option Int
  | .fin _ m e => if m = 0 then none else some ((m.log2 : Int) + e)
  | _ => none

/-- The largest of the logarithms present. -/
def maxLog : List (Option Int) → Option Int
  | [] => none
  | none :: xs => maxLog xs
  | some a :: xs => match maxLog xs with | none => some a | some b => some (max a b)

/-- Whether a value is NaN or infinite. -/
def fvSpecial : FV → Bool
  | .fin _ _ _ => false
  | _ => true

/-- One element of a block: the scaled value rounded to the element encoding and saturated (R109, R110). -/
def blockElem (f : Fmt) (X : Int) (x : FV) : Nat :=
  match f with
  | .be8 => (roundInt (-127) 127 (fvScale (6 - X) x) % 256).toNat
  | _ =>
    match fpShape f, fvScale (-X) x with
    | some (eb, mb, bias), .fin neg m e =>
      min (fpMaxCode f) (roundCode mb (1 - (bias : Int) - mb) m e) + (if neg then 2 ^ (eb + mb) else 0)
    | _, _ => 0

/-- Conversion of a block of values to an MX format or BE8 (R109, R110): the scale byte and the element encodings. -/
def convertBlock (f : Fmt) (xs : List FV) : Nat × List Nat :=
  if xs.any fvSpecial then (255, xs.map (fun _ => 0))
  else
    match maxLog (xs.map floorLog2) with
    | none => (127, xs.map (fun _ => 0))
    | some l =>
      let X := max (-127) (min 127 (l - mxEmax f))
      ((X + 127).toNat, xs.map (blockElem f X))

/-- One Philox round on a counter of four 32-bit words (R124). -/
def philoxRound (c : Nat × Nat × Nat × Nat) (k0 k1 : Nat) : Nat × Nat × Nat × Nat :=
  let p0 := 0xD2511F53 * c.1
  let p1 := 0xCD9E8D57 * c.2.2.1
  ((p1 / 2 ^ 32 ^^^ c.2.1) ^^^ k0, p1 % 2 ^ 32, (p0 / 2 ^ 32 ^^^ c.2.2.2) ^^^ k1, p0 % 2 ^ 32)

/-- `n` further Philox rounds, the key stepped before each but the first (R124). -/
def philoxFrom : Nat → Nat × Nat × Nat × Nat → Nat → Nat → Nat × Nat × Nat × Nat
  | 0, c, _, _ => c
  | n + 1, c, k0, k1 =>
    philoxFrom n (philoxRound c k0 k1) ((k0 + 0x9E3779B9) % 2 ^ 32) ((k1 + 0xBB67AE85) % 2 ^ 32)

/-- The Philox generator, ten rounds (R124). -/
def philox (c : Nat × Nat × Nat × Nat) (k0 k1 : Nat) : Nat × Nat × Nat × Nat := philoxFrom 10 c k0 k1

/-- Word `i` of a Philox result. -/
def word4 (c : Nat × Nat × Nat × Nat) (i : Nat) : Nat :=
  if i = 0 then c.1 else if i = 1 then c.2.1 else if i = 2 then c.2.2.1 else c.2.2.2

/-- The 32-bit random word of logical element `e`, RNG key `key`, step `step` and stream `stream` (R124). -/
def randomWord (key step stream e : Nat) : Nat :=
  let e := e % 2 ^ 64
  let k := philox (bitsOf step 0 32, bitsOf step 32 16, stream % 2 ^ 32, 0) (bitsOf key 0 32) (bitsOf key 32 32)
  let q := e / 4
  let out := philox (bitsOf q 0 32, bitsOf q 32 30, 0, 0)
    (k.1 ^^^ bitsOf key 64 32) (k.2.1 ^^^ bitsOf key 96 32)
  word4 out (e % 4)

/-- The uniform value of a random word (R125). -/
def uniformOf (w : Nat) : FV := .fin false (bitsOf w 8 24) (-24)

end Machine
end Sys2Proof
end

