-- ==== Sys2Proof/Machine/SMap.lean ====
section
/-!
DEFINITION. Sparse maps: a list of key and value pairs in one canonical form. The keys rise strictly and no entry equals
what an unlisted key reads as, so equal maps are equal lists. The register file, the memories and every numbered group of
state records are held this way.
-/
namespace Sys2Proof.Machine

variable {α : Type}

/-- The value at key `k`; an unlisted key reads as `d k`. -/
def smGet (d : Nat → α) : List (Nat × α) → Nat → α
  | [], k => d k
  | (a, v) :: m, k => if a = k then v else smGet d m k

/-- `m` without key `k`. -/
def smDel : List (Nat × α) → Nat → List (Nat × α)
  | [], _ => []
  | (a, v) :: m, k => if a = k then smDel m k else (a, v) :: smDel m k

/-- The pair put at its place among rising keys. -/
def smIns (k : Nat) (v : α) : List (Nat × α) → List (Nat × α)
  | [] => [(k, v)]
  | (a, w) :: m => if k < a then (k, v) :: (a, w) :: m else (a, w) :: smIns k v m

/-- The map with key `k` set to `v`; a value an unlisted key reads as removes the entry. -/
def smSet [DecidableEq α] (d : Nat → α) (m : List (Nat × α)) (k : Nat) (v : α) : List (Nat × α) :=
  if v = d k then smDel m k else smIns k v (smDel m k)

/-- Keys strictly above `b`, rising strictly. -/
def smRising : Option Nat → List (Nat × α) → Bool
  | _, [] => true
  | none, (a, _) :: m => smRising (some a) m
  | some b, (a, _) :: m => decide (b < a) && smRising (some a) m

/-- No entry equals what an unlisted key reads as. -/
def smNoDefault [DecidableEq α] (d : Nat → α) (m : List (Nat × α)) : Bool :=
  m.all (fun p => decide (p.2 ≠ d p.1))

/-- The canonical form. -/
def smWf [DecidableEq α] (d : Nat → α) (m : List (Nat × α)) : Bool :=
  smRising none m && smNoDefault d m

/-- Every entry whose key fails the test is dropped: those keys read as unlisted again. -/
def smKeep (p : Nat → Bool) (m : List (Nat × α)) : List (Nat × α) :=
  m.filter (fun e => p e.1)

end Sys2Proof.Machine
end

