-- ==== Sys2Proof/Machine/Regs.lean ====
section
/-!
DEFINITION. The set-up register map (R484, R485): one row per register with its offset, its repetition, the bits of each
access code (R11) and its reset value, and one name per field. Written from the register tables of the chapters, each
field with the rule that names it.
-/
namespace Sys2Proof.Machine

/-- One register of the map. It lies at `base + i * st1 + j * st2` for `i < n1`, `j < n2`.
`rw`, `w1c`, `wo` and `ro` are the masks of its fields' access codes (R11); every other bit is reserved (R12).
`shadow` marks the fields that have a shadow (R491). `reset` is the Reset column (R483). -/
structure RegRow where
  name : String
  base : Nat
  n1 : Nat
  st1 : Nat
  n2 : Nat
  st2 : Nat
  rw : Nat
  w1c : Nat
  wo : Nat
  ro : Nat
  shadow : Nat
  reset : Nat
  deriving DecidableEq, Repr

/-- A field of a register: the register's BAR0 byte address, its lowest bit and its width. -/
structure Fld where
  reg : Nat
  lo : Nat
  w : Nat
  deriving DecidableEq, Repr

/-- Whether `a` is the address of one of the row's registers. -/
def rowHas (r : RegRow) (a : Nat) : Bool :=
  r.base ≤ a && (a - r.base) / r.st1 < r.n1 && (a - r.base) % r.st1 % r.st2 == 0
    && (a - r.base) % r.st1 / r.st2 < r.n2

/-- The registers of block ID (R485). -/
def rowsId : List RegRow := [
  ⟨"ID.DEV", 0x0, 1, 0x1000000, 1, 8, 0x0, 0x0, 0x0, 0x1ffffff, 0x0, 0x9160⟩,
  ⟨"ID.SERIAL", 0x8, 1, 0x1000000, 1, 8, 0x0, 0x0, 0x0, 0xffffffffffffffff, 0x0, 0x0⟩]

/-- The registers of block SETUP (R485). -/
def rowsSetup : List RegRow := [
  ⟨"SETUP.ERR", 0x1000, 1, 0x1000000, 1, 8, 0x0, 0x1, 0x0, 0xffffff3e, 0x0, 0x0⟩,
  ⟨"SETUP.ERR_COUNT", 0x1008, 1, 0x1000000, 1, 8, 0x0, 0x0, 0x0, 0xffffffffffffffff, 0x0, 0x0⟩,
  ⟨"SETUP.CSTAT", 0x1010, 1, 0x1000000, 1, 8, 0x0, 0x0, 0x0, 0x3, 0x0, 0x0⟩]

/-- The registers of block RST (R485). -/
def rowsRst : List RegRow := [
  ⟨"RST.CTL", 0x2000, 1, 0x1000000, 1, 8, 0x0, 0x0, 0x7, 0x0, 0x0, 0x0⟩,
  ⟨"RST.STAT", 0x2008, 1, 0x1000000, 1, 8, 0x0, 0x400, 0x0, 0xbff, 0x0, 0x0⟩,
  ⟨"RST.CFG", 0x2010, 1, 0x1000000, 1, 8, 0xffff, 0x0, 0x0, 0x0, 0x0, 0x3e8⟩,
  ⟨"RST.ESC", 0x2018, 1, 0x1000000, 1, 8, 0xffff000f, 0x0, 0x0, 0xf00000000, 0x0, 0x2580003⟩,
  ⟨"RST.BOOT_FAIL", 0x2020, 1, 0x1000000, 1, 8, 0x0, 0x8000000000000000, 0x0, 0xffffffff, 0x0, 0x0⟩,
  ⟨"RST.BOOT_MS", 0x2028, 1, 0x1000000, 1, 8, 0x0, 0x0, 0x0, 0xffffffff, 0x0, 0x0⟩,
  ⟨"RST.COUNT_CMP", 0x2030, 1, 0x1000000, 1, 8, 0x0, 0x0, 0x0, 0xffffffffffffffff, 0x0, 0x0⟩,
  ⟨"RST.COUNT_MEM", 0x2038, 1, 0x1000000, 1, 8, 0x0, 0x0, 0x0, 0xffffffffffffffff, 0x0, 0x0⟩,
  ⟨"RST.COUNT_HIF", 0x2040, 1, 0x1000000, 1, 8, 0x0, 0x0, 0x0, 0xffffffffffffffff, 0x0, 0x0⟩,
  ⟨"RST.COUNT_FULL", 0x2048, 1, 0x1000000, 1, 8, 0x0, 0x0, 0x0, 0xffffffffffffffff, 0x0, 0x0⟩]

/-- The registers of block SEC (R485). -/
def rowsSec : List RegRow := [
  ⟨"SEC.STAT", 0x3000, 1, 0x1000000, 1, 8, 0x0, 0x0, 0x0, 0x7ffff, 0x0, 0x928⟩,
  ⟨"SEC.OWNER_GEN", 0x3008, 1, 0x1000000, 1, 8, 0x0, 0x0, 0x0, 0xffffffffffffffff, 0x0, 0x0⟩,
  ⟨"SEC.SEAL_EVENTS", 0x3010, 1, 0x1000000, 1, 8, 0x0, 0x0, 0x0, 0xffffffffffffffff, 0x0, 0x0⟩,
  ⟨"SEC.PRESENCE_CMDS", 0x3018, 1, 0x1000000, 1, 8, 0x0, 0x0, 0x0, 0xffffffffffffffff, 0x0, 0x0⟩]

/-- The registers of block MGMT (R485). -/
def rowsMgmt : List RegRow := [
  ⟨"MGMT.ADDR", 0x4000, 1, 0x1000000, 1, 8, 0x0, 0x0, 0x0, 0xff7f, 0x0, 0x4840⟩,
  ⟨"MGMT.CMDS", 0x4008, 1, 0x1000000, 1, 8, 0x0, 0x0, 0x0, 0xffffffffffffffff, 0x0, 0x0⟩,
  ⟨"MGMT.PEC_ERR", 0x4010, 1, 0x1000000, 1, 8, 0x0, 0x0, 0x0, 0xffffffffffffffff, 0x0, 0x0⟩]

/-- The registers of block TEST (R485). -/
def rowsTest : List RegRow := [
  ⟨"TEST.OBS_SEL", 0x5000, 1, 0x1000000, 1, 8, 0xfffff, 0x0, 0x0, 0x0, 0x0, 0x0⟩,
  ⟨"TEST.OBS_CTL", 0x5008, 1, 0x1000000, 1, 8, 0x1, 0x0, 0x0, 0x0, 0x0, 0x0⟩]

/-- The registers of block CLK (R485). -/
def rowsClk : List RegRow := [
  ⟨"CLK.CTL", 0x10000, 1, 0x1000000, 1, 8, 0x1, 0x0, 0x0, 0x0, 0x0, 0x0⟩,
  ⟨"CLK.STAT", 0x10008, 1, 0x1000000, 1, 8, 0x0, 0x0, 0x0, 0xffff00f7, 0x0, 0x0⟩,
  ⟨"CLK.DVFS", 0x10010, 1, 0x1000000, 1, 8, 0xffffffffffff, 0x0, 0x0, 0x0, 0x0, 0x140a003203e8⟩,
  ⟨"CLK.RAMPS", 0x10018, 1, 0x1000000, 1, 8, 0x0, 0x0, 0x0, 0xffffffffffffffff, 0x0, 0x0⟩,
  ⟨"CLK.PAUSE_NS", 0x10020, 1, 0x1000000, 1, 8, 0x0, 0x0, 0x0, 0xffffffffffffffff, 0x0, 0x0⟩]

/-- The registers of block OPP (R485). -/
def rowsOpp : List RegRow := [
  ⟨"OPP.ENT", 0x11000, 1, 0x1000000, 16, 8, 0x3ffffff, 0x0, 0x0, 0x0, 0x3ffffff, 0x0⟩,
  ⟨"OPP.GROUP_COMMIT", 0x11080, 1, 0x1000000, 1, 8, 0x0, 0x0, 0x1, 0x0, 0x0, 0x0⟩]

/-- The registers of block PWR (R485). -/
def rowsPwr : List RegRow := [
  ⟨"PWR.CAP", 0x12000, 1, 0x1000000, 1, 8, 0xffff0000, 0x0, 0x0, 0xffff0000ffff, 0x0, 0xabe08fc08fc⟩,
  ⟨"PWR.CAP_CFG", 0x12008, 1, 0x1000000, 1, 8, 0xffff, 0x0, 0x0, 0x0, 0x0, 0x190⟩,
  ⟨"PWR.CTL", 0x12010, 1, 0x1000000, 1, 8, 0x3fffc, 0x0, 0x3, 0x0, 0x0, 0x190⟩,
  ⟨"PWR.STAT", 0x12018, 1, 0x1000000, 1, 8, 0x0, 0x0, 0x0, 0x7ffff, 0x0, 0x40800⟩,
  ⟨"PWR.EST", 0x12020, 1, 0x1000000, 1, 8, 0x0, 0x0, 0x0, 0xffffffffffffffff, 0x0, 0x0⟩,
  ⟨"PWR.STEAM", 0x12028, 1, 0x1000000, 1, 8, 0xffff, 0x0, 0x0, 0x0, 0x0, 0x7d0⟩,
  ⟨"PWR.DROOP", 0x12030, 1, 0x1000000, 1, 8, 0xff, 0x0, 0x0, 0x0, 0x0, 0x28⟩,
  ⟨"PWR.AON", 0x12038, 1, 0x1000000, 1, 8, 0x0, 0x3, 0x0, 0x0, 0x0, 0x0⟩,
  ⟨"PWR.SPRINT_WINDOW_MS", 0x12040, 1, 0x1000000, 1, 8, 0x0, 0x0, 0x0, 0xffffffffffffffff, 0x0, 0x0⟩,
  ⟨"PWR.SPRINT_GRANTED", 0x12048, 1, 0x1000000, 1, 8, 0x0, 0x0, 0x0, 0xffffffffffffffff, 0x0, 0x0⟩,
  ⟨"PWR.SPRINT_REFUSED", 0x12050, 1, 0x1000000, 1, 8, 0x0, 0x0, 0x0, 0xffffffffffffffff, 0x0, 0x0⟩,
  ⟨"PWR.DROOP_EVENTS", 0x12058, 1, 0x1000000, 1, 8, 0x0, 0x0, 0x0, 0xffffffffffffffff, 0x0, 0x0⟩,
  ⟨"PWR.STRETCH_CYCLES", 0x12060, 1, 0x1000000, 1, 8, 0x0, 0x0, 0x0, 0xffffffffffffffff, 0x0, 0x0⟩,
  ⟨"PWR.CAP_LIMITED_US", 0x12068, 1, 0x1000000, 1, 8, 0x0, 0x0, 0x0, 0xffffffffffffffff, 0x0, 0x0⟩,
  ⟨"PWR.ENERGY_MJ", 0x12070, 1, 0x1000000, 1, 8, 0x0, 0x0, 0x0, 0xffffffffffffffff, 0x0, 0x0⟩,
  ⟨"PWR.TJ", 0x12078, 1, 0x1000000, 1, 8, 0xffff, 0x0, 0x0, 0x0, 0x0, 0x695f⟩,
  ⟨"PWR.TJ_STAT", 0x12080, 1, 0x1000000, 1, 8, 0x0, 0x0, 0x0, 0x1ffff, 0x0, 0x0⟩,
  ⟨"PWR.THROTTLE_US", 0x12088, 1, 0x1000000, 1, 8, 0x0, 0x0, 0x0, 0xffffffffffffffff, 0x0, 0x0⟩]

/-- The registers of block BOBBIN (R485). -/
def rowsBobbin : List RegRow := [
  ⟨"BOBBIN.NOW", 0x13000, 1, 0x1000000, 1, 8, 0x0, 0x0, 0x0, 0xffffffffffffffff, 0x0, 0x0⟩,
  ⟨"BOBBIN.SET", 0x13008, 1, 0x1000000, 1, 8, 0x0, 0x0, 0xffffffffffffffff, 0x0, 0x0, 0x0⟩,
  ⟨"BOBBIN.CFG", 0x13010, 1, 0x1000000, 1, 8, 0xfffff, 0x0, 0x0, 0x0, 0x0, 0x64f⟩,
  ⟨"BOBBIN.RATE", 0x13018, 1, 0x1000000, 1, 8, 0x0, 0x0, 0x0, 0xffffffffffff, 0x0, 0x0⟩,
  ⟨"BOBBIN.STAT", 0x13020, 1, 0x1000000, 1, 8, 0x0, 0x0, 0x0, 0xffffffff00000001, 0x0, 0x0⟩,
  ⟨"BOBBIN.DELAY", 0x13028, 1, 0x1000000, 1, 8, 0x0, 0x0, 0x0, 0xffffffff, 0x0, 0x0⟩,
  ⟨"BOBBIN.STEPS", 0x13030, 1, 0x1000000, 1, 8, 0x0, 0x0, 0x0, 0xffffffffffffffff, 0x0, 0x0⟩,
  ⟨"BOBBIN.LOCK_LOSS", 0x13038, 1, 0x1000000, 1, 8, 0x0, 0x0, 0x0, 0xffffffffffffffff, 0x0, 0x0⟩]

/-- The registers of block STEPCFG (R485). -/
def rowsStepcfg : List RegRow := [
  ⟨"STEPCFG.CTL", 0x20000, 1, 0x1000000, 1, 8, 0xffff007f, 0x0, 0x0, 0x0, 0x0, 0xfa0000⟩,
  ⟨"STEPCFG.KEEP_BASE", 0x20008, 1, 0x1000000, 1, 8, 0xffffffffffff, 0x0, 0x0, 0x0, 0x0, 0xb7c0000000⟩,
  ⟨"STEPCFG.KEEP_SIZE", 0x20010, 1, 0x1000000, 1, 8, 0xffffffff, 0x0, 0x0, 0x0, 0x0, 0x8000⟩]

/-- The registers of block STEPSTAT (R485). -/
def rowsStepstat : List RegRow := [
  ⟨"STEPSTAT.STATE", 0x21000, 1, 0x1000000, 1, 8, 0x0, 0x0, 0x0, 0x3f, 0x0, 0x0⟩,
  ⟨"STEPSTAT.LAST_HEM", 0x21008, 1, 0x1000000, 1, 8, 0x0, 0x0, 0x0, 0x1ffffffffffff, 0x0, 0x0⟩,
  ⟨"STEPSTAT.VOTE", 0x21010, 1, 0x1000000, 1, 8, 0x0, 0x0, 0x0, 0xff7fff07, 0x0, 0x7fff00⟩,
  ⟨"STEPSTAT.VOTE_STEP", 0x21018, 1, 0x1000000, 1, 8, 0x0, 0x0, 0x0, 0xffffffffffff, 0x0, 0x0⟩,
  ⟨"STEPSTAT.VOTE_DROPS", 0x21020, 1, 0x1000000, 1, 8, 0x0, 0x0, 0x0, 0xffffffffffffffff, 0x0, 0x0⟩,
  ⟨"STEPSTAT.GRAD_WAITS", 0x21028, 1, 0x1000000, 1, 8, 0x0, 0x0, 0x0, 0xffffffffffffffff, 0x0, 0x0⟩,
  ⟨"STEPSTAT.HOLD_NS", 0x21030, 1, 0x1000000, 1, 8, 0x0, 0x0, 0x0, 0xffffffffffffffff, 0x0, 0x0⟩]

/-- The registers of block SSTORE (R485). -/
def rowsSstore : List RegRow := [
  ⟨"SSTORE.PCFG", 0x22000, 1, 0x1000000, 16, 8, 0xff, 0x0, 0x0, 0x0, 0xff, 0x2⟩,
  ⟨"SSTORE.PSTAT", 0x22080, 1, 0x1000000, 1, 8, 0x0, 0x0, 0x0, 0xffff, 0x0, 0x0⟩,
  ⟨"SSTORE.GROUP_COMMIT", 0x22088, 1, 0x1000000, 1, 8, 0x0, 0x0, 0x1, 0x0, 0x0, 0x0⟩,
  ⟨"SSTORE.CACHE_HIT", 0x22090, 1, 0x1000000, 1, 8, 0x0, 0x0, 0x0, 0xffffffffffffffff, 0x0, 0x0⟩,
  ⟨"SSTORE.CACHE_MISS", 0x22098, 1, 0x1000000, 1, 8, 0x0, 0x0, 0x0, 0xffffffffffffffff, 0x0, 0x0⟩,
  ⟨"SSTORE.WRITEBACK", 0x220a0, 1, 0x1000000, 1, 8, 0x0, 0x0, 0x0, 0xffffffffffffffff, 0x0, 0x0⟩,
  ⟨"SSTORE.STAGE_WAIT", 0x220a8, 1, 0x1000000, 1, 8, 0x0, 0x0, 0x0, 0xffffffffffffffff, 0x0, 0x0⟩,
  ⟨"SSTORE.SLOT_WAIT", 0x220b0, 1, 0x1000000, 1, 8, 0x0, 0x0, 0x0, 0xffffffffffffffff, 0x0, 0x0⟩,
  ⟨"SSTORE.XBAR_WAIT", 0x220b8, 1, 0x1000000, 1, 8, 0x0, 0x0, 0x0, 0xffffffffffffffff, 0x0, 0x0⟩,
  ⟨"SSTORE.PF_BYTES", 0x220c0, 1, 0x1000000, 1, 8, 0x0, 0x0, 0x0, 0xffffffffffffffff, 0x0, 0x0⟩,
  ⟨"SSTORE.PF_USED", 0x220c8, 1, 0x1000000, 1, 8, 0x0, 0x0, 0x0, 0xffffffffffffffff, 0x0, 0x0⟩]

/-- The registers of block TACK (R485). -/
def rowsTack : List RegRow := [
  ⟨"TACK.CORR_SRAM", 0x23000, 1, 0x1000000, 1, 8, 0x0, 0x0, 0x0, 0xffffffffffffffff, 0x0, 0x0⟩,
  ⟨"TACK.UNCORR_SRAM", 0x23008, 1, 0x1000000, 1, 8, 0x0, 0x0, 0x0, 0xffffffffffffffff, 0x0, 0x0⟩,
  ⟨"TACK.UNCORR_UNIT", 0x23010, 1, 0x1000000, 1, 8, 0x0, 0x8000000000000000, 0x0, 0xffff, 0x0, 0x0⟩,
  ⟨"TACK.ENDPOINT_FAIL", 0x23018, 1, 0x1000000, 1, 8, 0x0, 0x0, 0x0, 0xffffffffffffffff, 0x0, 0x0⟩,
  ⟨"TACK.ACCT_ERR", 0x23020, 1, 0x1000000, 1, 8, 0x0, 0x0, 0x0, 0xffffffffffffffff, 0x0, 0x0⟩,
  ⟨"TACK.CE_THRESH", 0x23028, 1, 0x1000000, 1, 8, 0xffff, 0x0, 0x0, 0x0, 0x0, 0x40⟩]

/-- The registers of block LINT (R485). -/
def rowsLint : List RegRow := [
  ⟨"LINT.CTL", 0x24000, 1, 0x1000000, 1, 8, 0x1, 0x0, 0x2, 0x0, 0x0, 0x1⟩,
  ⟨"LINT.CFG", 0x24008, 1, 0x1000000, 1, 8, 0xffffff3fff, 0x0, 0x0, 0x0, 0x0, 0x3e1c0064⟩,
  ⟨"LINT.PACK_ADDR", 0x24010, 1, 0x1000000, 1, 8, 0xffffffffffffffff, 0x0, 0x0, 0x0, 0x0, 0x0⟩,
  ⟨"LINT.STAT", 0x24018, 1, 0x1000000, 1, 8, 0x0, 0x0, 0x0, 0xfffffffff, 0x0, 0x0⟩,
  ⟨"LINT.MIN_VERSION", 0x24020, 1, 0x1000000, 1, 8, 0x0, 0x0, 0x0, 0xffffffff, 0x0, 0x0⟩,
  ⟨"LINT.SUSPECT", 0x24028, 1, 0x1000000, 1, 8, 0x0, 0x8000000000000000, 0x0, 0xffffffffffff, 0x0, 0x0⟩,
  ⟨"LINT.FAIL", 0x24030, 1, 0x1000000, 1, 8, 0x0, 0xffffffffffffffff, 0x0, 0x0, 0x0, 0x0⟩,
  ⟨"LINT.RUNS", 0x24038, 1, 0x1000000, 1, 8, 0x0, 0x0, 0x0, 0xffffffffffffffff, 0x0, 0x0⟩,
  ⟨"LINT.FAILS", 0x24040, 1, 0x1000000, 1, 8, 0x0, 0x0, 0x0, 0xffffffffffffffff, 0x0, 0x0⟩,
  ⟨"LINT.LENT_CYCLES", 0x24048, 1, 0x1000000, 1, 8, 0x0, 0x0, 0x0, 0xffffffffffffffff, 0x0, 0x0⟩,
  ⟨"LINT.FORCED", 0x24050, 1, 0x1000000, 1, 8, 0x0, 0x0, 0x0, 0xffffffffffffffff, 0x0, 0x0⟩,
  ⟨"LINT.LATE", 0x24058, 1, 0x1000000, 1, 8, 0x0, 0x0, 0x0, 0xffffffffffffffff, 0x0, 0x0⟩]

/-- The registers of block COLL (R485). -/
def rowsColl : List RegRow := [
  ⟨"COLL.STAGE", 0x25000, 1, 0x1000000, 1, 8, 0xffffffffffff, 0x0, 0x0, 0x0, 0x0, 0x0⟩,
  ⟨"COLL.STAGE_SIZE", 0x25008, 1, 0x1000000, 1, 8, 0xffffffff, 0x0, 0x0, 0x0, 0x0, 0x0⟩,
  ⟨"COLL.WINDOW", 0x25010, 1, 0x1000000, 1, 8, 0xffff, 0x0, 0x0, 0x0, 0x0, 0x2000⟩,
  ⟨"COLL.REPORT", 0x25018, 1, 0x1000000, 1, 8, 0xffffffffffffffff, 0x0, 0x0, 0x0, 0x0, 0x0⟩,
  ⟨"COLL.REPORT_CTL", 0x25020, 1, 0x1000000, 1, 8, 0x1f, 0x0, 0x0, 0x0, 0x0, 0x0⟩,
  ⟨"COLL.READY_DROP", 0x25028, 1, 0x1000000, 1, 8, 0x0, 0x0, 0x0, 0xffffffffffffffff, 0x0, 0x0⟩,
  ⟨"COLL.FENCE_DROP", 0x25030, 1, 0x1000000, 1, 8, 0x0, 0x0, 0x0, 0xffffffffffffffff, 0x0, 0x0⟩,
  ⟨"COLL.SEND_WAIT_NS", 0x25038, 1, 0x1000000, 1, 8, 0x0, 0x0, 0x0, 0xffffffffffffffff, 0x0, 0x0⟩,
  ⟨"COLL.RECV_WAIT_NS", 0x25040, 1, 0x1000000, 1, 8, 0x0, 0x0, 0x0, 0xffffffffffffffff, 0x0, 0x0⟩,
  ⟨"COLL.CE_BYTES", 0x25048, 1, 0x1000000, 4, 8, 0x0, 0x0, 0x0, 0xffffffffffffffff, 0x0, 0x0⟩,
  ⟨"COLL.CE_WAIT_NS", 0x25068, 1, 0x1000000, 4, 8, 0x0, 0x0, 0x0, 0xffffffffffffffff, 0x0, 0x0⟩,
  ⟨"COLL.DUP_DROP", 0x25088, 1, 0x1000000, 1, 8, 0x0, 0x0, 0x0, 0xffffffffffffffff, 0x0, 0x0⟩]

/-- The registers of block SEAM (R485). -/
def rowsSeam : List RegRow := [
  ⟨"SEAM.STATE.BASE", 0x26000, 1, 0x1000000, 1, 8, 0xffffffffffff, 0x0, 0x0, 0x0, 0xffffffffffff, 0x0⟩,
  ⟨"SEAM.EFB.BASE", 0x26008, 1, 0x1000000, 1, 8, 0xffffffffffff, 0x0, 0x0, 0x0, 0xffffffffffff, 0x0⟩,
  ⟨"SEAM.MIRROR.BASE", 0x26010, 1, 0x1000000, 1, 8, 0xffffffffffff, 0x0, 0x0, 0x0, 0xffffffffffff, 0x0⟩,
  ⟨"SEAM.PRESS.BASE", 0x26018, 1, 0x1000000, 1, 8, 0xffffffffffff, 0x0, 0x0, 0x0, 0xffffffffffff, 0x0⟩,
  ⟨"SEAM.HOLD.BASE", 0x26020, 1, 0x1000000, 1, 8, 0xffffffffffff, 0x0, 0x0, 0x0, 0xffffffffffff, 0x0⟩,
  ⟨"SEAM.STATE_SIZE", 0x26028, 1, 0x1000000, 1, 8, 0xffffffffffff, 0x0, 0x0, 0x0, 0xffffffffffff, 0x0⟩,
  ⟨"SEAM.EFB_SIZE", 0x26030, 1, 0x1000000, 1, 8, 0xffffffffffff, 0x0, 0x0, 0x0, 0xffffffffffff, 0x0⟩,
  ⟨"SEAM.HOST_SLOT_A", 0x26038, 1, 0x1000000, 1, 8, 0xffffffffffffffff, 0x0, 0x0, 0x0, 0x0, 0x0⟩,
  ⟨"SEAM.HOST_SLOT_B", 0x26040, 1, 0x1000000, 1, 8, 0xffffffffffffffff, 0x0, 0x0, 0x0, 0x0, 0x0⟩,
  ⟨"SEAM.PEER", 0x26048, 1, 0x1000000, 1, 8, 0xffffff7fff, 0x0, 0x0, 0x0, 0xffffff7fff, 0x9880000000⟩,
  ⟨"SEAM.GROUP_COMMIT", 0x26050, 1, 0x1000000, 1, 8, 0x0, 0x0, 0x1, 0x0, 0x0, 0x0⟩,
  ⟨"SEAM.ACCEPT", 0x26058, 1, 0x1000000, 1, 8, 0x1, 0x0, 0x0, 0x0, 0x0, 0x0⟩,
  ⟨"SEAM.TMO", 0x26060, 1, 0x1000000, 1, 8, 0xffff, 0x0, 0x0, 0x0, 0x0, 0x32⟩,
  ⟨"SEAM.XFER", 0x26068, 1, 0x1000000, 1, 8, 0x7fff0007, 0x0, 0x80000000, 0xf00000000, 0x0, 0x0⟩,
  ⟨"SEAM.MSTAT", 0x26070, 1, 0x1000000, 1, 8, 0x0, 0x0, 0x0, 0x7ffffffffffff, 0x0, 0x0⟩,
  ⟨"SEAM.OSTAT", 0x26078, 1, 0x1000000, 1, 8, 0x0, 0x0, 0x0, 0x3ffffffffffff, 0x0, 0x2000000000000⟩,
  ⟨"SEAM.CKPT", 0x26080, 1, 0x1000000, 1, 8, 0x3ffffffffffff, 0x0, 0x0, 0x0, 0x0, 0x1000000000000⟩,
  ⟨"SEAM.CKPT_CTL", 0x26088, 1, 0x1000000, 1, 8, 0x0, 0x0, 0x1, 0x0, 0x0, 0x0⟩,
  ⟨"SEAM.DRAIN", 0x26090, 1, 0x1000000, 1, 8, 0xffff, 0x0, 0x0, 0x0, 0x0, 0x10⟩,
  ⟨"SEAM.CKSTAT", 0x26098, 1, 0x1000000, 1, 8, 0x0, 0x0, 0x0, 0xffffffffffffff, 0x0, 0x0⟩,
  ⟨"SEAM.CK_SEQ", 0x260a0, 1, 0x1000000, 1, 8, 0x0, 0x0, 0x0, 0xffffffffffffffff, 0x0, 0x0⟩,
  ⟨"SEAM.RESTORE", 0x260a8, 1, 0x1000000, 1, 8, 0xffffffffffffc, 0x0, 0x3, 0x0, 0x0, 0x0⟩,
  ⟨"SEAM.RSTAT", 0x260b0, 1, 0x1000000, 1, 8, 0x0, 0x0, 0x0, 0x7, 0x0, 0x0⟩,
  ⟨"SEAM.RSLOT", 0x260b8, 1, 0x1000000, 4, 8, 0x0, 0x0, 0x0, 0x1ffffffffffff, 0x0, 0x0⟩,
  ⟨"SEAM.RCURSOR0", 0x260d8, 1, 0x1000000, 1, 8, 0x0, 0x0, 0x0, 0xffffffffffffffff, 0x0, 0x0⟩,
  ⟨"SEAM.RCURSOR1", 0x260e0, 1, 0x1000000, 1, 8, 0x0, 0x0, 0x0, 0xffffffffffffffff, 0x0, 0x0⟩,
  ⟨"SEAM.RKEY0", 0x260e8, 1, 0x1000000, 1, 8, 0x0, 0x0, 0x0, 0xffffffffffffffff, 0x0, 0x0⟩,
  ⟨"SEAM.RKEY1", 0x260f0, 1, 0x1000000, 1, 8, 0x0, 0x0, 0x0, 0xffffffffffffffff, 0x0, 0x0⟩,
  ⟨"SEAM.SEND_BYTES", 0x260f8, 1, 0x1000000, 1, 8, 0x0, 0x0, 0x0, 0xffffffffffffffff, 0x0, 0x0⟩,
  ⟨"SEAM.MIRROR_BYTES", 0x26100, 1, 0x1000000, 1, 8, 0x0, 0x0, 0x0, 0xffffffffffffffff, 0x0, 0x0⟩,
  ⟨"SEAM.XFER_BYTES", 0x26108, 1, 0x1000000, 1, 8, 0x0, 0x0, 0x0, 0xffffffffffffffff, 0x0, 0x0⟩,
  ⟨"SEAM.DRAIN_BYTES", 0x26110, 1, 0x1000000, 1, 8, 0x0, 0x0, 0x0, 0xffffffffffffffff, 0x0, 0x0⟩,
  ⟨"SEAM.XFER_DROP", 0x26118, 1, 0x1000000, 1, 8, 0x0, 0x0, 0x0, 0xffffffffffffffff, 0x0, 0x0⟩,
  ⟨"SEAM.PRESS_WAIT_NS", 0x26120, 1, 0x1000000, 1, 8, 0x0, 0x0, 0x0, 0xffffffffffffffff, 0x0, 0x0⟩,
  ⟨"SEAM.CKPT_SKIPPED", 0x26128, 1, 0x1000000, 1, 8, 0x0, 0x0, 0x0, 0xffffffffffffffff, 0x0, 0x0⟩,
  ⟨"SEAM.TORN", 0x26130, 1, 0x1000000, 1, 8, 0x0, 0x0, 0x0, 0xffffffffffffffff, 0x0, 0x0⟩,
  ⟨"SEAM.JOB_START", 0x26138, 1, 0x1000000, 1, 8, 0xffffffffffff, 0x0, 0x8000000000000000, 0x0, 0x0, 0x0⟩,
  ⟨"SEAM.MIRROR_SIZE", 0x26140, 1, 0x1000000, 1, 8, 0xffffffffffff, 0x0, 0x0, 0x0, 0xffffffffffff, 0x0⟩]

/-- The registers of block BAY (R485). -/
def rowsBay : List RegRow := [
  ⟨"BAY.ME", 0x30000, 20, 0x1000, 1, 8, 0x100ff, 0xff00, 0x0, 0x0, 0x0, 0x10000⟩,
  ⟨"BAY.FEED_STALL", 0x30008, 20, 0x1000, 1, 8, 0x0, 0x0, 0x0, 0xffffffffffffffff, 0x0, 0x0⟩,
  ⟨"BAY.DRAIN_STALL", 0x30010, 20, 0x1000, 1, 8, 0x0, 0x0, 0x0, 0xffffffffffffffff, 0x0, 0x0⟩,
  ⟨"BAY.STEAM_CYCLES", 0x30018, 20, 0x1000, 1, 8, 0x0, 0x0, 0x0, 0xffffffffffffffff, 0x0, 0x0⟩,
  ⟨"BAY.RESIDUE_ERR", 0x30020, 20, 0x1000, 1, 8, 0x0, 0x0, 0x0, 0xffffffffffffffff, 0x0, 0x0⟩]

/-- The registers of block HBM (R485). -/
def rowsHbm : List RegRow := [
  ⟨"HBM.REG", 0x50000, 1, 0x1000000, 16, 8, 0x3fffff, 0x0, 0x0, 0x0, 0x3fffff, 0x10000⟩,
  ⟨"HBM.GROUP_COMMIT", 0x50080, 1, 0x1000000, 1, 8, 0x0, 0x0, 0x1, 0x0, 0x0, 0x0⟩,
  ⟨"HBM.TEMP", 0x50088, 1, 0x1000000, 1, 8, 0x0, 0x0, 0x0, 0xffffffffffffffff, 0x0, 0x0⟩,
  ⟨"HBM.TSTAT", 0x50090, 1, 0x1000000, 1, 8, 0x0, 0x0, 0x0, 0xffffffff, 0x0, 0x0⟩,
  ⟨"HBM.SCRUB", 0x50098, 1, 0x1000000, 1, 8, 0xff, 0x0, 0x0, 0x0, 0x0, 0x18⟩,
  ⟨"HBM.CORR", 0x500a0, 1, 0x1000000, 1, 8, 0x0, 0x0, 0x0, 0xffffffffffffffff, 0x0, 0x0⟩,
  ⟨"HBM.UNCORR", 0x500a8, 1, 0x1000000, 1, 8, 0x0, 0x0, 0x0, 0xffffffffffffffff, 0x0, 0x0⟩,
  ⟨"HBM.UNCORR_ADDR", 0x500b0, 1, 0x1000000, 1, 8, 0x0, 0x8000000000000000, 0x0, 0xffffffffffff, 0x0, 0x0⟩,
  ⟨"HBM.QFULL", 0x500b8, 1, 0x1000000, 1, 8, 0x0, 0x0, 0x0, 0xffffffffffffffff, 0x0, 0x0⟩,
  ⟨"HBM.REGBYTES", 0x50100, 1, 0x1000000, 16, 8, 0x0, 0x0, 0x0, 0xffffffffffffffff, 0x0, 0x0⟩,
  ⟨"HBM.TG_CTL", 0x50180, 1, 0x1000000, 1, 8, 0x2, 0x0, 0x1, 0x4, 0x0, 0x0⟩,
  ⟨"HBM.TG_CFG", 0x50188, 1, 0x1000000, 1, 8, 0xffffffff00000fff, 0x0, 0x0, 0x0, 0x0, 0x0⟩,
  ⟨"HBM.TG_MASK", 0x50190, 1, 0x1000000, 8, 8, 0xffffffff, 0x0, 0x0, 0x0, 0x0, 0x0⟩,
  ⟨"HBM.TG_FAIL", 0x501d0, 1, 0x1000000, 8, 8, 0x0, 0x0, 0x0, 0xffffffff, 0x0, 0x0⟩,
  ⟨"HBM.TG_ERRCNT", 0x50210, 1, 0x1000000, 1, 8, 0x0, 0x0, 0x0, 0xffffffffffffffff, 0x0, 0x0⟩,
  ⟨"HBM.TG_FIRST", 0x50218, 1, 0x1000000, 1, 8, 0x0, 0x0, 0x0, 0x800000ffffffffff, 0x0, 0x0⟩]

/-- The registers of block UBVOR (R485). -/
def rowsUbvor : List RegRow := [
  ⟨"UBVOR.THRESH", 0x60000, 1, 0x1000000, 1, 8, 0xffffffff, 0x0, 0x0, 0x0, 0x0, 0x24b0c4dc⟩,
  ⟨"UBVOR.QUAL", 0x60008, 1, 0x1000000, 1, 8, 0xffffffffffff, 0x0, 0x0, 0x0, 0x0, 0x800001000⟩,
  ⟨"UBVOR.RETRY", 0x60010, 1, 0x1000000, 1, 8, 0xffffffffffff, 0x0, 0x0, 0x0, 0x0, 0x7d0001408⟩,
  ⟨"UBVOR.AGE", 0x60018, 1, 0x1000000, 1, 8, 0xffffffffffff, 0x0, 0x0, 0x0, 0x0, 0x2d096003c⟩,
  ⟨"UBVOR.PCFG", 0x60100, 12, 0x80, 1, 8, 0xffff001f, 0x0, 0x60, 0x0, 0x0, 0x0⟩,
  ⟨"UBVOR.PSTAT", 0x60108, 12, 0x80, 1, 8, 0x0, 0x0, 0x0, 0xffff1fff, 0x0, 0x0⟩,
  ⟨"UBVOR.LANEMAP", 0x60110, 12, 0x80, 1, 8, 0x0, 0x0, 0x0, 0xffffffffffffffff, 0x0, 0xfedcba9876543210⟩,
  ⟨"UBVOR.RXP_LO", 0x60118, 12, 0x80, 1, 8, 0x0, 0x0, 0x0, 0xffffffffffffffff, 0x0, 0x8080808080808080⟩,
  ⟨"UBVOR.RXP_HI", 0x60120, 12, 0x80, 1, 8, 0x0, 0x0, 0x0, 0xffffffffffffffff, 0x0, 0x8080808080808080⟩,
  ⟨"UBVOR.LSP_LO", 0x60128, 12, 0x80, 1, 8, 0x0, 0x0, 0x0, 0xffffffffffffffff, 0x0, 0x8080808080808080⟩,
  ⟨"UBVOR.LSP_HI", 0x60130, 12, 0x80, 1, 8, 0x0, 0x0, 0x0, 0xffffffffffffffff, 0x0, 0x8080808080808080⟩,
  ⟨"UBVOR.BIAS_LO", 0x60138, 12, 0x80, 1, 8, 0x0, 0x0, 0x0, 0xffffffffffffffff, 0x0, 0x0⟩,
  ⟨"UBVOR.BIAS_HI", 0x60140, 12, 0x80, 1, 8, 0x0, 0x0, 0x0, 0xffffffffffffffff, 0x0, 0x0⟩,
  ⟨"UBVOR.REVP", 0x60148, 12, 0x80, 1, 8, 0x0, 0x0, 0x0, 0xff, 0x0, 0x80⟩,
  ⟨"UBVOR.CORR_SYM", 0x60150, 12, 0x80, 1, 8, 0x0, 0x0, 0x0, 0xffffffffffffffff, 0x0, 0x0⟩,
  ⟨"UBVOR.UNCORR_BLK", 0x60158, 12, 0x80, 1, 8, 0x0, 0x0, 0x0, 0xffffffffffffffff, 0x0, 0x0⟩,
  ⟨"UBVOR.TACK_FAIL", 0x60160, 12, 0x80, 1, 8, 0x0, 0x0, 0x0, 0xffffffffffffffff, 0x0, 0x0⟩,
  ⟨"UBVOR.RESEND", 0x60168, 12, 0x80, 1, 8, 0x0, 0x0, 0x0, 0xffffffffffffffff, 0x0, 0x0⟩,
  ⟨"UBVOR.DEGRADE", 0x60170, 12, 0x80, 1, 8, 0x0, 0x0, 0x0, 0xffffffffffffffff, 0x0, 0x0⟩,
  ⟨"UBVOR.DEAD", 0x60178, 12, 0x80, 1, 8, 0x0, 0x0, 0x0, 0xffffffffffffffff, 0x0, 0x0⟩]

/-- The registers of block ROUTE (R485). -/
def rowsRoute : List RegRow := [
  ⟨"ROUTE.ID", 0x70000, 1, 0x1000000, 1, 8, 0x8000000000003fff, 0x0, 0x0, 0x0, 0x8000000000003fff, 0x0⟩,
  ⟨"ROUTE.SHAPE", 0x70008, 1, 0x1000000, 1, 8, 0xffffff, 0x0, 0x0, 0x0, 0xffffff, 0x0⟩,
  ⟨"ROUTE.COORD", 0x70010, 1, 0x1000000, 1, 8, 0x0, 0x0, 0x0, 0xffffff, 0x0, 0x0⟩,
  ⟨"ROUTE.CTL", 0x70018, 1, 0x1000000, 1, 8, 0xff07, 0x0, 0x10000, 0x0, 0x5, 0xa002⟩,
  ⟨"ROUTE.GROUP_COMMIT", 0x70020, 1, 0x1000000, 1, 8, 0x0, 0x0, 0x1, 0x0, 0x0, 0x0⟩,
  ⟨"ROUTE.TSTAT", 0x70028, 1, 0x1000000, 1, 8, 0x0, 0x0, 0x0, 0x3ffff000f, 0x0, 0x0⟩,
  ⟨"ROUTE.DRAIN", 0x70030, 1, 0x1000000, 1, 8, 0xffffffff, 0x0, 0x0, 0x0, 0x0, 0x64000a⟩,
  ⟨"ROUTE.ARB", 0x70038, 1, 0x1000000, 1, 8, 0xffffff, 0x0, 0x0, 0x0, 0x0, 0x40408⟩,
  ⟨"ROUTE.BUF", 0x70040, 1, 0x1000000, 1, 8, 0x3fff, 0x0, 0x0, 0x0, 0x0, 0x2000⟩,
  ⟨"ROUTE.DROP_FIRST", 0x70048, 1, 0x1000000, 1, 8, 0x0, 0x8000000000000000, 0x0, 0x33fff, 0x0, 0x0⟩,
  ⟨"ROUTE.NOROUTE", 0x70050, 1, 0x1000000, 1, 8, 0x0, 0x0, 0x0, 0xffffffffffffffff, 0x0, 0x0⟩,
  ⟨"ROUTE.TTL_DROP", 0x70058, 1, 0x1000000, 1, 8, 0x0, 0x0, 0x0, 0xffffffffffffffff, 0x0, 0x0⟩,
  ⟨"ROUTE.QUAR_DROP", 0x70060, 1, 0x1000000, 1, 8, 0x0, 0x0, 0x0, 0xffffffffffffffff, 0x0, 0x0⟩,
  ⟨"ROUTE.MALFORMED", 0x70068, 1, 0x1000000, 1, 8, 0x0, 0x0, 0x0, 0xffffffffffffffff, 0x0, 0x0⟩,
  ⟨"ROUTE.CUT_PKTS", 0x70070, 1, 0x1000000, 1, 8, 0x0, 0x0, 0x0, 0xffffffffffffffff, 0x0, 0x0⟩,
  ⟨"ROUTE.LOCAL_DROP", 0x70078, 1, 0x1000000, 1, 8, 0x0, 0x0, 0x0, 0xffffffffffffffff, 0x0, 0x0⟩,
  ⟨"ROUTE.INJ0", 0x70080, 1, 0x1000000, 1, 8, 0x0, 0x0, 0x0, 0xffffffffffffffff, 0x0, 0x0⟩,
  ⟨"ROUTE.INJ1", 0x70088, 1, 0x1000000, 1, 8, 0x0, 0x0, 0x0, 0xffffffffffffffff, 0x0, 0x0⟩,
  ⟨"ROUTE.CONS0", 0x70090, 1, 0x1000000, 1, 8, 0x0, 0x0, 0x0, 0xffffffffffffffff, 0x0, 0x0⟩,
  ⟨"ROUTE.CONS1", 0x70098, 1, 0x1000000, 1, 8, 0x0, 0x0, 0x0, 0xffffffffffffffff, 0x0, 0x0⟩,
  ⟨"ROUTE.PORTATTR0", 0x700a0, 1, 0x1000000, 1, 8, 0xffffffffffff, 0x0, 0x0, 0x0, 0x0, 0x444433221100⟩,
  ⟨"ROUTE.PORTATTR1", 0x700a8, 1, 0x1000000, 1, 8, 0xffffffffffff, 0x0, 0x0, 0x0, 0x0, 0x444433221100⟩,
  ⟨"ROUTE.PLAN", 0x70100, 1, 0x1000000, 12, 8, 0x3f3fff, 0x0, 0x0, 0x0, 0x3f3fff, 0x0⟩,
  ⟨"ROUTE.NBR", 0x70180, 1, 0x1000000, 12, 8, 0x0, 0x0, 0x0, 0x1ff7fff, 0x0, 0x0⟩,
  ⟨"ROUTE.CREDIT_STALL", 0x70200, 1, 0x1000000, 12, 8, 0x0, 0x0, 0x0, 0xffffffffffffffff, 0x0, 0x0⟩,
  ⟨"ROUTE.TBL0", 0x74000, 1, 0x1000000, 2048, 8, 0x3f3f3f3f3f3f3f3f, 0x0, 0x0, 0x0, 0x0, 0xf0f0f0f0f0f0f0f⟩,
  ⟨"ROUTE.TBL1", 0x78000, 1, 0x1000000, 2048, 8, 0x3f3f3f3f3f3f3f3f, 0x0, 0x0, 0x0, 0x0, 0xf0f0f0f0f0f0f0f⟩]

/-- The registers of block HIF (R485). -/
def rowsHif : List RegRow := [
  ⟨"HIF.LINK", 0x80000, 1, 0x1000000, 1, 8, 0x0, 0x0, 0x0, 0xff, 0x0, 0x0⟩,
  ⟨"HIF.MEMERR", 0x80008, 1, 0x1000000, 1, 8, 0x0, 0x8000000000000000, 0x0, 0xffffffffffff, 0x0, 0x0⟩,
  ⟨"HIF.ERR_VEC", 0x80010, 1, 0x1000000, 1, 8, 0x7ff, 0x0, 0x0, 0x0, 0x0, 0x0⟩,
  ⟨"HIF.DM_ARB", 0x80018, 1, 0x1000000, 1, 8, 0xfffff, 0x0, 0x0, 0x0, 0x0, 0xc0064⟩,
  ⟨"HIF.DB_SNOOPS", 0x80020, 1, 0x1000000, 1, 8, 0x0, 0x0, 0x0, 0xffffffffffffffff, 0x0, 0x0⟩,
  ⟨"HIF.DB_SPURIOUS", 0x80028, 1, 0x1000000, 1, 8, 0x0, 0x0, 0x0, 0xffffffffffffffff, 0x0, 0x0⟩,
  ⟨"HIF.WIN_RD_HELD", 0x80030, 1, 0x1000000, 1, 8, 0x0, 0x0, 0x0, 0xffffffffffffffff, 0x0, 0x0⟩,
  ⟨"HIF.WIN_WR_DROP", 0x80038, 1, 0x1000000, 1, 8, 0x0, 0x0, 0x0, 0xffffffffffffffff, 0x0, 0x0⟩,
  ⟨"HIF.LINK_DOWN", 0x80040, 1, 0x1000000, 1, 8, 0x0, 0x0, 0x0, 0xffffffffffffffff, 0x0, 0x0⟩,
  ⟨"HIF.DB", 0x80800, 1, 0x1000000, 64, 8, 0x0, 0x0, 0x3ffffffff, 0x0, 0x0, 0x0⟩]

/-- The registers of block CTX (R485). -/
def rowsCtx : List RegRow := [
  ⟨"CTX.CFG", 0x100000, 64, 0x400, 1, 8, 0x3fffff1fffff0f, 0x0, 0x0, 0x0, 0x0, 0x10001b03e800⟩,
  ⟨"CTX.TT_BASE", 0x100008, 64, 0x400, 1, 8, 0xffffffffffffffff, 0x0, 0x0, 0x0, 0x0, 0x0⟩,
  ⟨"CTX.TT_COUNT", 0x100010, 64, 0x400, 1, 8, 0xffff, 0x0, 0x0, 0x0, 0x0, 0x0⟩,
  ⟨"CTX.DB_ADDR", 0x100018, 64, 0x400, 1, 8, 0xffffffffffffffff, 0x0, 0x0, 0x0, 0x0, 0x0⟩,
  ⟨"CTX.RING.BASE", 0x100020, 64, 0x400, 4, 16, 0xffffffffffffffff, 0x0, 0x0, 0x0, 0x0, 0x0⟩,
  ⟨"CTX.RING.CTL", 0x100028, 64, 0x400, 4, 16, 0x11f, 0x0, 0x0, 0xffffffff00000200, 0x0, 0x4⟩,
  ⟨"CTX.INT", 0x100060, 64, 0x400, 1, 8, 0x8ffff7ff, 0x0, 0x0, 0x0, 0x0, 0x8000a000⟩,
  ⟨"CTX.ERR", 0x100068, 64, 0x400, 1, 8, 0x0, 0x3, 0x0, 0x0, 0x0, 0x0⟩,
  ⟨"CTX.OWN_GAP", 0x100070, 64, 0x400, 1, 8, 0x0, 0x0, 0x0, 0xffffffffffffffff, 0x0, 0x0⟩,
  ⟨"CTX.NOTICE_LOST", 0x100078, 64, 0x400, 1, 8, 0x0, 0x0, 0x0, 0xffffffffffffffff, 0x0, 0x0⟩,
  ⟨"CTX.WAIT", 0x100080, 64, 0x400, 1, 8, 0x3f, 0x0, 0x0, 0x0, 0x0, 0x4⟩]

/-- The registers of block DM (R485). -/
def rowsDm : List RegRow := [
  ⟨"DM.CTL", 0x110000, 64, 0x100, 1, 8, 0x0, 0x0, 0x3, 0x0, 0x0, 0x0⟩,
  ⟨"DM.STAT", 0x110008, 64, 0x100, 1, 8, 0x0, 0x42, 0x0, 0x3d, 0x0, 0x0⟩,
  ⟨"DM.ERR_HADDR", 0x110010, 64, 0x100, 1, 8, 0x0, 0x0, 0x0, 0xffffffffffffffff, 0x0, 0x0⟩,
  ⟨"DM.ERR_DADDR", 0x110018, 64, 0x100, 1, 8, 0x0, 0x0, 0x0, 0xffffffffffff, 0x0, 0x0⟩,
  ⟨"DM.VEC", 0x110020, 64, 0x100, 1, 8, 0x7ff, 0x0, 0x0, 0x0, 0x0, 0x0⟩,
  ⟨"DM.TARGET", 0x110028, 64, 0x100, 1, 8, 0xffffffff, 0x0, 0x0, 0x0, 0x0, 0x0⟩,
  ⟨"DM.DONE", 0x110030, 64, 0x100, 1, 8, 0x0, 0x0, 0x0, 0xffffffff, 0x0, 0x0⟩,
  ⟨"DM.BYTES", 0x110038, 64, 0x100, 1, 8, 0x0, 0x0, 0x0, 0xffffffffffffffff, 0x0, 0x0⟩]

/-- Every block: base, size, rows (R484). -/
def regBlocks : List (Nat × Nat × List RegRow) := [
  (0x0, 0x1000, rowsId),
  (0x1000, 0x1000, rowsSetup),
  (0x2000, 0x1000, rowsRst),
  (0x3000, 0x1000, rowsSec),
  (0x4000, 0x1000, rowsMgmt),
  (0x5000, 0x1000, rowsTest),
  (0x10000, 0x1000, rowsClk),
  (0x11000, 0x1000, rowsOpp),
  (0x12000, 0x1000, rowsPwr),
  (0x13000, 0x1000, rowsBobbin),
  (0x20000, 0x1000, rowsStepcfg),
  (0x21000, 0x1000, rowsStepstat),
  (0x22000, 0x1000, rowsSstore),
  (0x23000, 0x1000, rowsTack),
  (0x24000, 0x1000, rowsLint),
  (0x25000, 0x1000, rowsColl),
  (0x26000, 0x1000, rowsSeam),
  (0x30000, 0x14000, rowsBay),
  (0x50000, 0x1000, rowsHbm),
  (0x60000, 0x1000, rowsUbvor),
  (0x70000, 0x10000, rowsRoute),
  (0x80000, 0x1000, rowsHif),
  (0x100000, 0x10000, rowsCtx),
  (0x110000, 0x4000, rowsDm)]

/-- The row of the register at address `a`, if a table names one there (R479, R485). -/
def regRow? (a : Nat) : Option RegRow :=
  match regBlocks.find? (fun b => b.1 ≤ a && a < b.1 + b.2.1) with
  | some b => b.2.2.find? (fun r => rowHas r a)
  | none => none

/-- Address of ID.DEV (R485). -/
def R.ID_DEV : Nat := 0x0
/-- ID.DEV.DEVICE_CODE [15:0] RO (R486). -/
def F.ID_DEV_DEVICE_CODE : Fld := ⟨R.ID_DEV, 0, 16⟩
/-- ID.DEV.STEPPING [23:16] RO (R486). -/
def F.ID_DEV_STEPPING : Fld := ⟨R.ID_DEV, 16, 8⟩
/-- ID.DEV.SAMPLE [24:24] RO (R486). -/
def F.ID_DEV_SAMPLE : Fld := ⟨R.ID_DEV, 24, 1⟩
/-- Address of ID.SERIAL (R485). -/
def R.ID_SERIAL : Nat := 0x8
/-- ID.SERIAL [63:0] RO (R486). -/
def F.ID_SERIAL : Fld := ⟨R.ID_SERIAL, 0, 64⟩
/-- Address of SETUP.ERR (R485). -/
def R.SETUP_ERR : Nat := 0x1000
/-- SETUP.ERR.FLAG [0:0] W1C (R486). -/
def F.SETUP_ERR_FLAG : Fld := ⟨R.SETUP_ERR, 0, 1⟩
/-- SETUP.ERR.CAUSE [3:1] RO (R486). -/
def F.SETUP_ERR_CAUSE : Fld := ⟨R.SETUP_ERR, 1, 3⟩
/-- SETUP.ERR.SRC [5:4] RO (R486). -/
def F.SETUP_ERR_SRC : Fld := ⟨R.SETUP_ERR, 4, 2⟩
/-- SETUP.ERR.ADDR [31:8] RO (R486). -/
def F.SETUP_ERR_ADDR : Fld := ⟨R.SETUP_ERR, 8, 24⟩
/-- Address of SETUP.ERR_COUNT (R485). -/
def R.SETUP_ERR_COUNT : Nat := 0x1008
/-- SETUP.ERR_COUNT [63:0] RO (R486). -/
def F.SETUP_ERR_COUNT : Fld := ⟨R.SETUP_ERR_COUNT, 0, 64⟩
/-- Address of SETUP.CSTAT (R485). -/
def R.SETUP_CSTAT : Nat := 0x1010
/-- SETUP.CSTAT.SSTORE [0:0] RO (R486). -/
def F.SETUP_CSTAT_SSTORE : Fld := ⟨R.SETUP_CSTAT, 0, 1⟩
/-- SETUP.CSTAT.HBM [1:1] RO (R486). -/
def F.SETUP_CSTAT_HBM : Fld := ⟨R.SETUP_CSTAT, 1, 1⟩
/-- Address of RST.CTL (R485). -/
def R.RST_CTL : Nat := 0x2000
/-- RST.CTL.DOMAIN [2:0] WO (R453). -/
def F.RST_CTL_DOMAIN : Fld := ⟨R.RST_CTL, 0, 3⟩
/-- Address of RST.STAT (R485). -/
def R.RST_STAT : Nat := 0x2008
/-- RST.STAT.BUSY [0:0] RO (R453). -/
def F.RST_STAT_BUSY : Fld := ⟨R.RST_STAT, 0, 1⟩
/-- RST.STAT.LAST [3:1] RO (R453). -/
def F.RST_STAT_LAST : Fld := ⟨R.RST_STAT, 1, 3⟩
/-- RST.STAT.PHASE [7:4] RO (R453). -/
def F.RST_STAT_PHASE : Fld := ⟨R.RST_STAT, 4, 4⟩
/-- RST.STAT.IMAGE [8:8] RO (R453). -/
def F.RST_STAT_IMAGE : Fld := ⟨R.RST_STAT, 8, 1⟩
/-- RST.STAT.ALT_USED [9:9] RO (R453). -/
def F.RST_STAT_ALT_USED : Fld := ⟨R.RST_STAT, 9, 1⟩
/-- RST.STAT.FENCE_ERR [10:10] W1C (R453). -/
def F.RST_STAT_FENCE_ERR : Fld := ⟨R.RST_STAT, 10, 1⟩
/-- RST.STAT.OOS [11:11] RO (R453). -/
def F.RST_STAT_OOS : Fld := ⟨R.RST_STAT, 11, 1⟩
/-- Address of RST.CFG (R485). -/
def R.RST_CFG : Nat := 0x2010
/-- RST.CFG.FENCE_US [15:0] RW (R453). -/
def F.RST_CFG_FENCE_US : Fld := ⟨R.RST_CFG, 0, 16⟩
/-- Address of RST.ESC (R485). -/
def R.RST_ESC : Nat := 0x2018
/-- RST.ESC.COUNT [3:0] RW (R453). -/
def F.RST_ESC_COUNT : Fld := ⟨R.RST_ESC, 0, 4⟩
/-- RST.ESC.WINDOW_S [31:16] RW (R453). -/
def F.RST_ESC_WINDOW_S : Fld := ⟨R.RST_ESC, 16, 16⟩
/-- RST.ESC.RECENT [35:32] RO (R453). -/
def F.RST_ESC_RECENT : Fld := ⟨R.RST_ESC, 32, 4⟩
/-- Address of RST.BOOT_FAIL (R485). -/
def R.RST_BOOT_FAIL : Nat := 0x2020
/-- RST.BOOT_FAIL.PHASE [3:0] RO (R453). -/
def F.RST_BOOT_FAIL_PHASE : Fld := ⟨R.RST_BOOT_FAIL, 0, 4⟩
/-- RST.BOOT_FAIL.TABLE [7:4] RO (R453). -/
def F.RST_BOOT_FAIL_TABLE : Fld := ⟨R.RST_BOOT_FAIL, 4, 4⟩
/-- RST.BOOT_FAIL.UNIT [15:8] RO (R453). -/
def F.RST_BOOT_FAIL_UNIT : Fld := ⟨R.RST_BOOT_FAIL, 8, 8⟩
/-- RST.BOOT_FAIL.ENTRY [31:16] RO (R453). -/
def F.RST_BOOT_FAIL_ENTRY : Fld := ⟨R.RST_BOOT_FAIL, 16, 16⟩
/-- RST.BOOT_FAIL.VALID [63:63] W1C (R453). -/
def F.RST_BOOT_FAIL_VALID : Fld := ⟨R.RST_BOOT_FAIL, 63, 1⟩
/-- Address of RST.BOOT_MS (R485). -/
def R.RST_BOOT_MS : Nat := 0x2028
/-- RST.BOOT_MS.MS [31:0] RO (R453). -/
def F.RST_BOOT_MS_MS : Fld := ⟨R.RST_BOOT_MS, 0, 32⟩
/-- Address of RST.COUNT_CMP (R485). -/
def R.RST_COUNT_CMP : Nat := 0x2030
/-- RST.COUNT_CMP [63:0] RO (R453). -/
def F.RST_COUNT_CMP : Fld := ⟨R.RST_COUNT_CMP, 0, 64⟩
/-- Address of RST.COUNT_MEM (R485). -/
def R.RST_COUNT_MEM : Nat := 0x2038
/-- RST.COUNT_MEM [63:0] RO (R453). -/
def F.RST_COUNT_MEM : Fld := ⟨R.RST_COUNT_MEM, 0, 64⟩
/-- Address of RST.COUNT_HIF (R485). -/
def R.RST_COUNT_HIF : Nat := 0x2040
/-- RST.COUNT_HIF [63:0] RO (R453). -/
def F.RST_COUNT_HIF : Fld := ⟨R.RST_COUNT_HIF, 0, 64⟩
/-- Address of RST.COUNT_FULL (R485). -/
def R.RST_COUNT_FULL : Nat := 0x2048
/-- RST.COUNT_FULL [63:0] RO (R453). -/
def F.RST_COUNT_FULL : Fld := ⟨R.RST_COUNT_FULL, 0, 64⟩
/-- Address of SEC.STAT (R485). -/
def R.SEC_STAT : Nat := 0x3000
/-- SEC.STAT.PRESENCE [0:0] RO (R475). -/
def F.SEC_STAT_PRESENCE : Fld := ⟨R.SEC_STAT, 0, 1⟩
/-- SEC.STAT.SEAL [3:1] RO (R475). -/
def F.SEC_STAT_SEAL : Fld := ⟨R.SEC_STAT, 1, 3⟩
/-- SEC.STAT.COOLANT [6:4] RO (R475). -/
def F.SEC_STAT_COOLANT : Fld := ⟨R.SEC_STAT, 4, 3⟩
/-- SEC.STAT.MAINT [9:7] RO (R475). -/
def F.SEC_STAT_MAINT : Fld := ⟨R.SEC_STAT, 7, 3⟩
/-- SEC.STAT.THERMTRIP [12:10] RO (R475). -/
def F.SEC_STAT_THERMTRIP : Fld := ⟨R.SEC_STAT, 10, 3⟩
/-- SEC.STAT.OWNER [13:13] RO (R475). -/
def F.SEC_STAT_OWNER : Fld := ⟨R.SEC_STAT, 13, 1⟩
/-- SEC.STAT.POLICY [14:14] RO (R475). -/
def F.SEC_STAT_POLICY : Fld := ⟨R.SEC_STAT, 14, 1⟩
/-- SEC.STAT.TEST_EN [15:15] RO (R475). -/
def F.SEC_STAT_TEST_EN : Fld := ⟨R.SEC_STAT, 15, 1⟩
/-- SEC.STAT.TEST_EVER [16:16] RO (R475). -/
def F.SEC_STAT_TEST_EVER : Fld := ⟨R.SEC_STAT, 16, 1⟩
/-- SEC.STAT.ID_READY [17:17] RO (R475). -/
def F.SEC_STAT_ID_READY : Fld := ⟨R.SEC_STAT, 17, 1⟩
/-- SEC.STAT.ENROLLED [18:18] RO (R475). -/
def F.SEC_STAT_ENROLLED : Fld := ⟨R.SEC_STAT, 18, 1⟩
/-- Address of SEC.OWNER_GEN (R485). -/
def R.SEC_OWNER_GEN : Nat := 0x3008
/-- SEC.OWNER_GEN [63:0] RO (R475). -/
def F.SEC_OWNER_GEN : Fld := ⟨R.SEC_OWNER_GEN, 0, 64⟩
/-- Address of SEC.SEAL_EVENTS (R485). -/
def R.SEC_SEAL_EVENTS : Nat := 0x3010
/-- SEC.SEAL_EVENTS [63:0] RO (R475). -/
def F.SEC_SEAL_EVENTS : Fld := ⟨R.SEC_SEAL_EVENTS, 0, 64⟩
/-- Address of SEC.PRESENCE_CMDS (R485). -/
def R.SEC_PRESENCE_CMDS : Nat := 0x3018
/-- SEC.PRESENCE_CMDS [63:0] RO (R475). -/
def F.SEC_PRESENCE_CMDS : Fld := ⟨R.SEC_PRESENCE_CMDS, 0, 64⟩
/-- Address of MGMT.ADDR (R485). -/
def R.MGMT_ADDR : Nat := 0x4000
/-- MGMT.ADDR.STATUS [6:0] RO (R475). -/
def F.MGMT_ADDR_STATUS : Fld := ⟨R.MGMT_ADDR, 0, 7⟩
/-- MGMT.ADDR.COMMAND [14:8] RO (R475). -/
def F.MGMT_ADDR_COMMAND : Fld := ⟨R.MGMT_ADDR, 8, 7⟩
/-- MGMT.ADDR.I3C [15:15] RO (R475). -/
def F.MGMT_ADDR_I3C : Fld := ⟨R.MGMT_ADDR, 15, 1⟩
/-- Address of MGMT.CMDS (R485). -/
def R.MGMT_CMDS : Nat := 0x4008
/-- MGMT.CMDS [63:0] RO (R475). -/
def F.MGMT_CMDS : Fld := ⟨R.MGMT_CMDS, 0, 64⟩
/-- Address of MGMT.PEC_ERR (R485). -/
def R.MGMT_PEC_ERR : Nat := 0x4010
/-- MGMT.PEC_ERR [63:0] RO (R475). -/
def F.MGMT_PEC_ERR : Fld := ⟨R.MGMT_PEC_ERR, 0, 64⟩
/-- Address of TEST.OBS_SEL (R485). -/
def R.TEST_OBS_SEL : Nat := 0x5000
/-- TEST.OBS_SEL.UNIT [15:0] RW (R475). -/
def F.TEST_OBS_SEL_UNIT : Fld := ⟨R.TEST_OBS_SEL, 0, 16⟩
/-- TEST.OBS_SEL.SET [19:16] RW (R475). -/
def F.TEST_OBS_SEL_SET : Fld := ⟨R.TEST_OBS_SEL, 16, 4⟩
/-- Address of TEST.OBS_CTL (R485). -/
def R.TEST_OBS_CTL : Nat := 0x5008
/-- TEST.OBS_CTL.DRIVE [0:0] RW (R475). -/
def F.TEST_OBS_CTL_DRIVE : Fld := ⟨R.TEST_OBS_CTL, 0, 1⟩
/-- Address of CLK.CTL (R485). -/
def R.CLK_CTL : Nat := 0x10000
/-- CLK.CTL.SRC [0:0] RW (R430). -/
def F.CLK_CTL_SRC : Fld := ⟨R.CLK_CTL, 0, 1⟩
/-- Address of CLK.STAT (R485). -/
def R.CLK_STAT : Nat := 0x10008
/-- CLK.STAT.ROOT_LOCK [0:0] RO (R430). -/
def F.CLK_STAT_ROOT_LOCK : Fld := ⟨R.CLK_STAT, 0, 1⟩
/-- CLK.STAT.RAMPING [1:1] RO (R430). -/
def F.CLK_STAT_RAMPING : Fld := ⟨R.CLK_STAT, 1, 1⟩
/-- CLK.STAT.DEFERRED [2:2] RO (R430). -/
def F.CLK_STAT_DEFERRED : Fld := ⟨R.CLK_STAT, 2, 1⟩
/-- CLK.STAT.ENTRY [7:4] RO (R430). -/
def F.CLK_STAT_ENTRY : Fld := ⟨R.CLK_STAT, 4, 4⟩
/-- CLK.STAT.ROOT_MHZ [31:16] RO (R430). -/
def F.CLK_STAT_ROOT_MHZ : Fld := ⟨R.CLK_STAT, 16, 16⟩
/-- Address of CLK.DVFS (R485). -/
def R.CLK_DVFS : Nat := 0x10010
/-- CLK.DVFS.STEP_NS [15:0] RW (R430). -/
def F.CLK_DVFS_STEP_NS : Fld := ⟨R.CLK_DVFS, 0, 16⟩
/-- CLK.DVFS.DWELL_US [31:16] RW (R430). -/
def F.CLK_DVFS_DWELL_US : Fld := ⟨R.CLK_DVFS, 16, 16⟩
/-- CLK.DVFS.QUIET_US [39:32] RW (R430). -/
def F.CLK_DVFS_QUIET_US : Fld := ⟨R.CLK_DVFS, 32, 8⟩
/-- CLK.DVFS.VR_US [47:40] RW (R430). -/
def F.CLK_DVFS_VR_US : Fld := ⟨R.CLK_DVFS, 40, 8⟩
/-- Address of CLK.RAMPS (R485). -/
def R.CLK_RAMPS : Nat := 0x10018
/-- CLK.RAMPS [63:0] RO (R430). -/
def F.CLK_RAMPS : Fld := ⟨R.CLK_RAMPS, 0, 64⟩
/-- Address of CLK.PAUSE_NS (R485). -/
def R.CLK_PAUSE_NS : Nat := 0x10020
/-- CLK.PAUSE_NS [63:0] RO (R430). -/
def F.CLK_PAUSE_NS : Fld := ⟨R.CLK_PAUSE_NS, 0, 64⟩
/-- Address of OPP.ENT (R485). -/
def R.OPP_ENT (k : Nat) : Nat := 0x11000 + 0x8 * k
/-- OPP.ENT.ROOT [7:0] RW (R431). -/
def F.OPP_ENT_ROOT (k : Nat) : Fld := ⟨R.OPP_ENT k, 0, 8⟩
/-- OPP.ENT.VCORE [19:8] RW (R431). -/
def F.OPP_ENT_VCORE (k : Nat) : Fld := ⟨R.OPP_ENT k, 8, 12⟩
/-- OPP.ENT.SPRINT [20:20] RW (R431). -/
def F.OPP_ENT_SPRINT (k : Nat) : Fld := ⟨R.OPP_ENT k, 20, 1⟩
/-- OPP.ENT.STEAM [21:21] RW (R431). -/
def F.OPP_ENT_STEAM (k : Nat) : Fld := ⟨R.OPP_ENT k, 21, 1⟩
/-- OPP.ENT.FALLBACK [25:22] RW (R431). -/
def F.OPP_ENT_FALLBACK (k : Nat) : Fld := ⟨R.OPP_ENT k, 22, 4⟩
/-- Address of OPP.GROUP_COMMIT (R485). -/
def R.OPP_GROUP_COMMIT : Nat := 0x11080
/-- OPP.GROUP_COMMIT.COMMIT [0:0] WO (R431). -/
def F.OPP_GROUP_COMMIT_COMMIT : Fld := ⟨R.OPP_GROUP_COMMIT, 0, 1⟩
/-- Address of PWR.CAP (R485). -/
def R.PWR_CAP : Nat := 0x12000
/-- PWR.CAP.TRAY_W [15:0] RO (R432). -/
def F.PWR_CAP_TRAY_W : Fld := ⟨R.PWR_CAP, 0, 16⟩
/-- PWR.CAP.HOST_W [31:16] RW (R432). -/
def F.PWR_CAP_HOST_W : Fld := ⟨R.PWR_CAP, 16, 16⟩
/-- PWR.CAP.SPRINT_W [47:32] RO (R432). -/
def F.PWR_CAP_SPRINT_W : Fld := ⟨R.PWR_CAP, 32, 16⟩
/-- Address of PWR.CAP_CFG (R485). -/
def R.PWR_CAP_CFG : Nat := 0x12008
/-- PWR.CAP_CFG.CMP_FLOOR_W [15:0] RW (R432). -/
def F.PWR_CAP_CFG_CMP_FLOOR_W : Fld := ⟨R.PWR_CAP_CFG, 0, 16⟩
/-- Address of PWR.CTL (R485). -/
def R.PWR_CTL : Nat := 0x12010
/-- PWR.CTL.STATE_REQ [1:0] WO (R432). -/
def F.PWR_CTL_STATE_REQ : Fld := ⟨R.PWR_CTL, 0, 2⟩
/-- PWR.CTL.IDLE_US [17:2] RW (R432). -/
def F.PWR_CTL_IDLE_US : Fld := ⟨R.PWR_CTL, 2, 16⟩
/-- Address of PWR.STAT (R485). -/
def R.PWR_STAT : Nat := 0x12018
/-- PWR.STAT.STATE [1:0] RO (R432). -/
def F.PWR_STAT_STATE : Fld := ⟨R.PWR_STAT, 0, 2⟩
/-- PWR.STAT.SPRINT [2:2] RO (R432). -/
def F.PWR_STAT_SPRINT : Fld := ⟨R.PWR_STAT, 2, 1⟩
/-- PWR.STAT.CAP_LIMITED [3:3] RO (R432). -/
def F.PWR_STAT_CAP_LIMITED : Fld := ⟨R.PWR_STAT, 3, 1⟩
/-- PWR.STAT.INFEASIBLE [4:4] RO (R432). -/
def F.PWR_STAT_INFEASIBLE : Fld := ⟨R.PWR_STAT, 4, 1⟩
/-- PWR.STAT.DUTY [11:5] RO (R432). -/
def F.PWR_STAT_DUTY : Fld := ⟨R.PWR_STAT, 5, 7⟩
/-- PWR.STAT.MEM_LIMIT [18:12] RO (R432). -/
def F.PWR_STAT_MEM_LIMIT : Fld := ⟨R.PWR_STAT, 12, 7⟩
/-- Address of PWR.EST (R485). -/
def R.PWR_EST : Nat := 0x12020
/-- PWR.EST.FIXED_W [15:0] RO (R432). -/
def F.PWR_EST_FIXED_W : Fld := ⟨R.PWR_EST, 0, 16⟩
/-- PWR.EST.LINK_W [31:16] RO (R432). -/
def F.PWR_EST_LINK_W : Fld := ⟨R.PWR_EST, 16, 16⟩
/-- PWR.EST.MEM_W [47:32] RO (R432). -/
def F.PWR_EST_MEM_W : Fld := ⟨R.PWR_EST, 32, 16⟩
/-- PWR.EST.CMP_W [63:48] RO (R432). -/
def F.PWR_EST_CMP_W : Fld := ⟨R.PWR_EST, 48, 16⟩
/-- Address of PWR.STEAM (R485). -/
def R.PWR_STEAM : Nat := 0x12028
/-- PWR.STEAM.MAX_NS [15:0] RW (R432). -/
def F.PWR_STEAM_MAX_NS : Fld := ⟨R.PWR_STEAM, 0, 16⟩
/-- Address of PWR.DROOP (R485). -/
def R.PWR_DROOP : Nat := 0x12030
/-- PWR.DROOP.MARGIN_MV [7:0] RW (R432). -/
def F.PWR_DROOP_MARGIN_MV : Fld := ⟨R.PWR_DROOP, 0, 8⟩
/-- Address of PWR.AON (R485). -/
def R.PWR_AON : Nat := 0x12038
/-- PWR.AON.COOLANT_STOP [0:0] W1C (R432). -/
def F.PWR_AON_COOLANT_STOP : Fld := ⟨R.PWR_AON, 0, 1⟩
/-- PWR.AON.TRIP_STOP [1:1] W1C (R432). -/
def F.PWR_AON_TRIP_STOP : Fld := ⟨R.PWR_AON, 1, 1⟩
/-- Address of PWR.SPRINT_WINDOW_MS (R485). -/
def R.PWR_SPRINT_WINDOW_MS : Nat := 0x12040
/-- PWR.SPRINT_WINDOW_MS [63:0] RO (R432). -/
def F.PWR_SPRINT_WINDOW_MS : Fld := ⟨R.PWR_SPRINT_WINDOW_MS, 0, 64⟩
/-- Address of PWR.SPRINT_GRANTED (R485). -/
def R.PWR_SPRINT_GRANTED : Nat := 0x12048
/-- PWR.SPRINT_GRANTED [63:0] RO (R432). -/
def F.PWR_SPRINT_GRANTED : Fld := ⟨R.PWR_SPRINT_GRANTED, 0, 64⟩
/-- Address of PWR.SPRINT_REFUSED (R485). -/
def R.PWR_SPRINT_REFUSED : Nat := 0x12050
/-- PWR.SPRINT_REFUSED [63:0] RO (R432). -/
def F.PWR_SPRINT_REFUSED : Fld := ⟨R.PWR_SPRINT_REFUSED, 0, 64⟩
/-- Address of PWR.DROOP_EVENTS (R485). -/
def R.PWR_DROOP_EVENTS : Nat := 0x12058
/-- PWR.DROOP_EVENTS [63:0] RO (R432). -/
def F.PWR_DROOP_EVENTS : Fld := ⟨R.PWR_DROOP_EVENTS, 0, 64⟩
/-- Address of PWR.STRETCH_CYCLES (R485). -/
def R.PWR_STRETCH_CYCLES : Nat := 0x12060
/-- PWR.STRETCH_CYCLES [63:0] RO (R432). -/
def F.PWR_STRETCH_CYCLES : Fld := ⟨R.PWR_STRETCH_CYCLES, 0, 64⟩
/-- Address of PWR.CAP_LIMITED_US (R485). -/
def R.PWR_CAP_LIMITED_US : Nat := 0x12068
/-- PWR.CAP_LIMITED_US [63:0] RO (R432). -/
def F.PWR_CAP_LIMITED_US : Fld := ⟨R.PWR_CAP_LIMITED_US, 0, 64⟩
/-- Address of PWR.ENERGY_MJ (R485). -/
def R.PWR_ENERGY_MJ : Nat := 0x12070
/-- PWR.ENERGY_MJ [63:0] RO (R432). -/
def F.PWR_ENERGY_MJ : Fld := ⟨R.PWR_ENERGY_MJ, 0, 64⟩
/-- Address of PWR.TJ (R485). -/
def R.PWR_TJ : Nat := 0x12078
/-- PWR.TJ.TARGET [7:0] RW (R432). -/
def F.PWR_TJ_TARGET : Fld := ⟨R.PWR_TJ, 0, 8⟩
/-- PWR.TJ.LIMIT [15:8] RW (R432). -/
def F.PWR_TJ_LIMIT : Fld := ⟨R.PWR_TJ, 8, 8⟩
/-- Address of PWR.TJ_STAT (R485). -/
def R.PWR_TJ_STAT : Nat := 0x12080
/-- PWR.TJ_STAT.MAX [7:0] RO (R432). -/
def F.PWR_TJ_STAT_MAX : Fld := ⟨R.PWR_TJ_STAT, 0, 8⟩
/-- PWR.TJ_STAT.SENSOR [13:8] RO (R432). -/
def F.PWR_TJ_STAT_SENSOR : Fld := ⟨R.PWR_TJ_STAT, 8, 6⟩
/-- PWR.TJ_STAT.THROTTLE [14:14] RO (R432). -/
def F.PWR_TJ_STAT_THROTTLE : Fld := ⟨R.PWR_TJ_STAT, 14, 1⟩
/-- PWR.TJ_STAT.AT_LIMIT [15:15] RO (R432). -/
def F.PWR_TJ_STAT_AT_LIMIT : Fld := ⟨R.PWR_TJ_STAT, 15, 1⟩
/-- PWR.TJ_STAT.SENSOR_FAIL [16:16] RO (R432). -/
def F.PWR_TJ_STAT_SENSOR_FAIL : Fld := ⟨R.PWR_TJ_STAT, 16, 1⟩
/-- Address of PWR.THROTTLE_US (R485). -/
def R.PWR_THROTTLE_US : Nat := 0x12088
/-- PWR.THROTTLE_US [63:0] RO (R432). -/
def F.PWR_THROTTLE_US : Fld := ⟨R.PWR_THROTTLE_US, 0, 64⟩
/-- Address of BOBBIN.NOW (R485). -/
def R.BOBBIN_NOW : Nat := 0x13000
/-- BOBBIN.NOW [63:0] RO (R342). -/
def F.BOBBIN_NOW : Fld := ⟨R.BOBBIN_NOW, 0, 64⟩
/-- Address of BOBBIN.SET (R485). -/
def R.BOBBIN_SET : Nat := 0x13008
/-- BOBBIN.SET [63:0] WO (R342). -/
def F.BOBBIN_SET : Fld := ⟨R.BOBBIN_SET, 0, 64⟩
/-- Address of BOBBIN.CFG (R485). -/
def R.BOBBIN_CFG : Nat := 0x13010
/-- BOBBIN.CFG.PARENT [3:0] RW (R342). -/
def F.BOBBIN_CFG_PARENT : Fld := ⟨R.BOBBIN_CFG, 0, 4⟩
/-- BOBBIN.CFG.SYNC_US [19:4] RW (R342). -/
def F.BOBBIN_CFG_SYNC_US : Fld := ⟨R.BOBBIN_CFG, 4, 16⟩
/-- Address of BOBBIN.RATE (R485). -/
def R.BOBBIN_RATE : Nat := 0x13018
/-- BOBBIN.RATE [47:0] RO (R342). -/
def F.BOBBIN_RATE : Fld := ⟨R.BOBBIN_RATE, 0, 48⟩
/-- Address of BOBBIN.STAT (R485). -/
def R.BOBBIN_STAT : Nat := 0x13020
/-- BOBBIN.STAT.LOCKED [0:0] RO (R342). -/
def F.BOBBIN_STAT_LOCKED : Fld := ⟨R.BOBBIN_STAT, 0, 1⟩
/-- BOBBIN.STAT.OFFSET [63:32] RO (R342). -/
def F.BOBBIN_STAT_OFFSET : Fld := ⟨R.BOBBIN_STAT, 32, 32⟩
/-- Address of BOBBIN.DELAY (R485). -/
def R.BOBBIN_DELAY : Nat := 0x13028
/-- BOBBIN.DELAY [31:0] RO (R342). -/
def F.BOBBIN_DELAY : Fld := ⟨R.BOBBIN_DELAY, 0, 32⟩
/-- Address of BOBBIN.STEPS (R485). -/
def R.BOBBIN_STEPS : Nat := 0x13030
/-- BOBBIN.STEPS [63:0] RO (R342). -/
def F.BOBBIN_STEPS : Fld := ⟨R.BOBBIN_STEPS, 0, 64⟩
/-- Address of BOBBIN.LOCK_LOSS (R485). -/
def R.BOBBIN_LOCK_LOSS : Nat := 0x13038
/-- BOBBIN.LOCK_LOSS [63:0] RO (R342). -/
def F.BOBBIN_LOCK_LOSS : Fld := ⟨R.BOBBIN_LOCK_LOSS, 0, 64⟩
/-- Address of STEPCFG.CTL (R485). -/
def R.STEPCFG_CTL : Nat := 0x20000
/-- STEPCFG.CTL.STEP_CTX [5:0] RW (R488). -/
def F.STEPCFG_CTL_STEP_CTX : Fld := ⟨R.STEPCFG_CTL, 0, 6⟩
/-- STEPCFG.CTL.OVERLAP [6:6] RW (R488). -/
def F.STEPCFG_CTL_OVERLAP : Fld := ⟨R.STEPCFG_CTL, 6, 1⟩
/-- STEPCFG.CTL.VOTE_TIMEOUT_MS [31:16] RW (R488). -/
def F.STEPCFG_CTL_VOTE_TIMEOUT_MS : Fld := ⟨R.STEPCFG_CTL, 16, 16⟩
/-- Address of STEPCFG.KEEP_BASE (R485). -/
def R.STEPCFG_KEEP_BASE : Nat := 0x20008
/-- STEPCFG.KEEP_BASE.ADDR [47:0] RW (R488). -/
def F.STEPCFG_KEEP_BASE_ADDR : Fld := ⟨R.STEPCFG_KEEP_BASE, 0, 48⟩
/-- Address of STEPCFG.KEEP_SIZE (R485). -/
def R.STEPCFG_KEEP_SIZE : Nat := 0x20010
/-- STEPCFG.KEEP_SIZE.MIB [31:0] RW (R488). -/
def F.STEPCFG_KEEP_SIZE_MIB : Fld := ⟨R.STEPCFG_KEEP_SIZE, 0, 32⟩
/-- Address of STEPSTAT.STATE (R485). -/
def R.STEPSTAT_STATE : Nat := 0x21000
/-- STEPSTAT.STATE.STATE0 [2:0] RO (R490). -/
def F.STEPSTAT_STATE_STATE0 : Fld := ⟨R.STEPSTAT_STATE, 0, 3⟩
/-- STEPSTAT.STATE.STATE1 [5:3] RO (R490). -/
def F.STEPSTAT_STATE_STATE1 : Fld := ⟨R.STEPSTAT_STATE, 3, 3⟩
/-- Address of STEPSTAT.LAST_HEM (R485). -/
def R.STEPSTAT_LAST_HEM : Nat := 0x21008
/-- STEPSTAT.LAST_HEM.STEP [47:0] RO (R490). -/
def F.STEPSTAT_LAST_HEM_STEP : Fld := ⟨R.STEPSTAT_LAST_HEM, 0, 48⟩
/-- STEPSTAT.LAST_HEM.VALID [48:48] RO (R490). -/
def F.STEPSTAT_LAST_HEM_VALID : Fld := ⟨R.STEPSTAT_LAST_HEM, 48, 1⟩
/-- Address of STEPSTAT.VOTE (R485). -/
def R.STEPSTAT_VOTE : Nat := 0x21010
/-- STEPSTAT.VOTE.OUTCOME [1:0] RO (R490). -/
def F.STEPSTAT_VOTE_OUTCOME : Fld := ⟨R.STEPSTAT_VOTE, 0, 2⟩
/-- STEPSTAT.VOTE.RESOLVED [2:2] RO (R490). -/
def F.STEPSTAT_VOTE_RESOLVED : Fld := ⟨R.STEPSTAT_VOTE, 2, 1⟩
/-- STEPSTAT.VOTE.FIRST_ID [22:8] RO (R490). -/
def F.STEPSTAT_VOTE_FIRST_ID : Fld := ⟨R.STEPSTAT_VOTE, 8, 15⟩
/-- STEPSTAT.VOTE.CAUSE [31:24] RO (R490). -/
def F.STEPSTAT_VOTE_CAUSE : Fld := ⟨R.STEPSTAT_VOTE, 24, 8⟩
/-- Address of STEPSTAT.VOTE_STEP (R485). -/
def R.STEPSTAT_VOTE_STEP : Nat := 0x21018
/-- STEPSTAT.VOTE_STEP.STEP [47:0] RO (R490). -/
def F.STEPSTAT_VOTE_STEP_STEP : Fld := ⟨R.STEPSTAT_VOTE_STEP, 0, 48⟩
/-- Address of STEPSTAT.VOTE_DROPS (R485). -/
def R.STEPSTAT_VOTE_DROPS : Nat := 0x21020
/-- STEPSTAT.VOTE_DROPS [63:0] RO (R490). -/
def F.STEPSTAT_VOTE_DROPS : Fld := ⟨R.STEPSTAT_VOTE_DROPS, 0, 64⟩
/-- Address of STEPSTAT.GRAD_WAITS (R485). -/
def R.STEPSTAT_GRAD_WAITS : Nat := 0x21028
/-- STEPSTAT.GRAD_WAITS [63:0] RO (R490). -/
def F.STEPSTAT_GRAD_WAITS : Fld := ⟨R.STEPSTAT_GRAD_WAITS, 0, 64⟩
/-- Address of STEPSTAT.HOLD_NS (R485). -/
def R.STEPSTAT_HOLD_NS : Nat := 0x21030
/-- STEPSTAT.HOLD_NS.LAST [31:0] RO (R490). -/
def F.STEPSTAT_HOLD_NS_LAST : Fld := ⟨R.STEPSTAT_HOLD_NS, 0, 32⟩
/-- STEPSTAT.HOLD_NS.MAX [63:32] RO (R490). -/
def F.STEPSTAT_HOLD_NS_MAX : Fld := ⟨R.STEPSTAT_HOLD_NS, 32, 32⟩
/-- Address of SSTORE.PCFG (R485). -/
def R.SSTORE_PCFG (p : Nat) : Nat := 0x22000 + 0x8 * p
/-- SSTORE.PCFG.MODE [1:0] RW (R205). -/
def F.SSTORE_PCFG_MODE (p : Nat) : Fld := ⟨R.SSTORE_PCFG p, 0, 2⟩
/-- SSTORE.PCFG.OWNER [7:2] RW (R205). -/
def F.SSTORE_PCFG_OWNER (p : Nat) : Fld := ⟨R.SSTORE_PCFG p, 2, 6⟩
/-- Address of SSTORE.PSTAT (R485). -/
def R.SSTORE_PSTAT : Nat := 0x22080
/-- SSTORE.PSTAT.PENDING [15:0] RO (R205). -/
def F.SSTORE_PSTAT_PENDING : Fld := ⟨R.SSTORE_PSTAT, 0, 16⟩
/-- Address of SSTORE.GROUP_COMMIT (R485). -/
def R.SSTORE_GROUP_COMMIT : Nat := 0x22088
/-- SSTORE.GROUP_COMMIT.COMMIT [0:0] WO (R205). -/
def F.SSTORE_GROUP_COMMIT_COMMIT : Fld := ⟨R.SSTORE_GROUP_COMMIT, 0, 1⟩
/-- Address of SSTORE.CACHE_HIT (R485). -/
def R.SSTORE_CACHE_HIT : Nat := 0x22090
/-- SSTORE.CACHE_HIT [63:0] RO (R205). -/
def F.SSTORE_CACHE_HIT : Fld := ⟨R.SSTORE_CACHE_HIT, 0, 64⟩
/-- Address of SSTORE.CACHE_MISS (R485). -/
def R.SSTORE_CACHE_MISS : Nat := 0x22098
/-- SSTORE.CACHE_MISS [63:0] RO (R205). -/
def F.SSTORE_CACHE_MISS : Fld := ⟨R.SSTORE_CACHE_MISS, 0, 64⟩
/-- Address of SSTORE.WRITEBACK (R485). -/
def R.SSTORE_WRITEBACK : Nat := 0x220a0
/-- SSTORE.WRITEBACK [63:0] RO (R205). -/
def F.SSTORE_WRITEBACK : Fld := ⟨R.SSTORE_WRITEBACK, 0, 64⟩
/-- Address of SSTORE.STAGE_WAIT (R485). -/
def R.SSTORE_STAGE_WAIT : Nat := 0x220a8
/-- SSTORE.STAGE_WAIT [63:0] RO (R205). -/
def F.SSTORE_STAGE_WAIT : Fld := ⟨R.SSTORE_STAGE_WAIT, 0, 64⟩
/-- Address of SSTORE.SLOT_WAIT (R485). -/
def R.SSTORE_SLOT_WAIT : Nat := 0x220b0
/-- SSTORE.SLOT_WAIT [63:0] RO (R205). -/
def F.SSTORE_SLOT_WAIT : Fld := ⟨R.SSTORE_SLOT_WAIT, 0, 64⟩
/-- Address of SSTORE.XBAR_WAIT (R485). -/
def R.SSTORE_XBAR_WAIT : Nat := 0x220b8
/-- SSTORE.XBAR_WAIT [63:0] RO (R205). -/
def F.SSTORE_XBAR_WAIT : Fld := ⟨R.SSTORE_XBAR_WAIT, 0, 64⟩
/-- Address of SSTORE.PF_BYTES (R485). -/
def R.SSTORE_PF_BYTES : Nat := 0x220c0
/-- SSTORE.PF_BYTES [63:0] RO (R205). -/
def F.SSTORE_PF_BYTES : Fld := ⟨R.SSTORE_PF_BYTES, 0, 64⟩
/-- Address of SSTORE.PF_USED (R485). -/
def R.SSTORE_PF_USED : Nat := 0x220c8
/-- SSTORE.PF_USED [63:0] RO (R205). -/
def F.SSTORE_PF_USED : Fld := ⟨R.SSTORE_PF_USED, 0, 64⟩
/-- Address of TACK.CORR_SRAM (R485). -/
def R.TACK_CORR_SRAM : Nat := 0x23000
/-- TACK.CORR_SRAM [63:0] RO (R255). -/
def F.TACK_CORR_SRAM : Fld := ⟨R.TACK_CORR_SRAM, 0, 64⟩
/-- Address of TACK.UNCORR_SRAM (R485). -/
def R.TACK_UNCORR_SRAM : Nat := 0x23008
/-- TACK.UNCORR_SRAM [63:0] RO (R255). -/
def F.TACK_UNCORR_SRAM : Fld := ⟨R.TACK_UNCORR_SRAM, 0, 64⟩
/-- Address of TACK.UNCORR_UNIT (R485). -/
def R.TACK_UNCORR_UNIT : Nat := 0x23010
/-- TACK.UNCORR_UNIT.PATH [15:0] RO (R255). -/
def F.TACK_UNCORR_UNIT_PATH : Fld := ⟨R.TACK_UNCORR_UNIT, 0, 16⟩
/-- TACK.UNCORR_UNIT.VALID [63:63] W1C (R255). -/
def F.TACK_UNCORR_UNIT_VALID : Fld := ⟨R.TACK_UNCORR_UNIT, 63, 1⟩
/-- Address of TACK.ENDPOINT_FAIL (R485). -/
def R.TACK_ENDPOINT_FAIL : Nat := 0x23018
/-- TACK.ENDPOINT_FAIL [63:0] RO (R255). -/
def F.TACK_ENDPOINT_FAIL : Fld := ⟨R.TACK_ENDPOINT_FAIL, 0, 64⟩
/-- Address of TACK.ACCT_ERR (R485). -/
def R.TACK_ACCT_ERR : Nat := 0x23020
/-- TACK.ACCT_ERR [63:0] RO (R255). -/
def F.TACK_ACCT_ERR : Fld := ⟨R.TACK_ACCT_ERR, 0, 64⟩
/-- Address of TACK.CE_THRESH (R485). -/
def R.TACK_CE_THRESH : Nat := 0x23028
/-- TACK.CE_THRESH.COUNT [15:0] RW (R255). -/
def F.TACK_CE_THRESH_COUNT : Fld := ⟨R.TACK_CE_THRESH, 0, 16⟩
/-- Address of LINT.CTL (R485). -/
def R.LINT_CTL : Nat := 0x24000
/-- LINT.CTL.ENABLE [0:0] RW (R255). -/
def F.LINT_CTL_ENABLE : Fld := ⟨R.LINT_CTL, 0, 1⟩
/-- LINT.CTL.LOAD [1:1] WO (R255). -/
def F.LINT_CTL_LOAD : Fld := ⟨R.LINT_CTL, 1, 1⟩
/-- Address of LINT.CFG (R485). -/
def R.LINT_CFG : Nat := 0x24008
/-- LINT.CFG.SHARE [13:0] RW (R255). -/
def F.LINT_CFG_SHARE : Fld := ⟨R.LINT_CFG, 0, 14⟩
/-- LINT.CFG.PERIOD_MS [39:16] RW (R255). -/
def F.LINT_CFG_PERIOD_MS : Fld := ⟨R.LINT_CFG, 16, 24⟩
/-- Address of LINT.PACK_ADDR (R485). -/
def R.LINT_PACK_ADDR : Nat := 0x24010
/-- LINT.PACK_ADDR [63:0] RW (R255). -/
def F.LINT_PACK_ADDR : Fld := ⟨R.LINT_PACK_ADDR, 0, 64⟩
/-- Address of LINT.STAT (R485). -/
def R.LINT_STAT : Nat := 0x24018
/-- LINT.STAT.VERSION [31:0] RO (R255). -/
def F.LINT_STAT_VERSION : Fld := ⟨R.LINT_STAT, 0, 32⟩
/-- LINT.STAT.BUSY [32:32] RO (R255). -/
def F.LINT_STAT_BUSY : Fld := ⟨R.LINT_STAT, 32, 1⟩
/-- LINT.STAT.LOAD_RESULT [35:33] RO (R255). -/
def F.LINT_STAT_LOAD_RESULT : Fld := ⟨R.LINT_STAT, 33, 3⟩
/-- Address of LINT.MIN_VERSION (R485). -/
def R.LINT_MIN_VERSION : Nat := 0x24020
/-- LINT.MIN_VERSION [31:0] RO (R255). -/
def F.LINT_MIN_VERSION : Fld := ⟨R.LINT_MIN_VERSION, 0, 32⟩
/-- Address of LINT.SUSPECT (R485). -/
def R.LINT_SUSPECT : Nat := 0x24028
/-- LINT.SUSPECT.STEP [47:0] RO (R255). -/
def F.LINT_SUSPECT_STEP : Fld := ⟨R.LINT_SUSPECT, 0, 48⟩
/-- LINT.SUSPECT.VALID [63:63] W1C (R255). -/
def F.LINT_SUSPECT_VALID : Fld := ⟨R.LINT_SUSPECT, 63, 1⟩
/-- Address of LINT.FAIL (R485). -/
def R.LINT_FAIL : Nat := 0x24030
/-- LINT.FAIL.RE [19:0] W1C (R255). -/
def F.LINT_FAIL_RE : Fld := ⟨R.LINT_FAIL, 0, 20⟩
/-- LINT.FAIL.EU [39:20] W1C (R255). -/
def F.LINT_FAIL_EU : Fld := ⟨R.LINT_FAIL, 20, 20⟩
/-- LINT.FAIL.SEQ [59:40] W1C (R255). -/
def F.LINT_FAIL_SEQ : Fld := ⟨R.LINT_FAIL, 40, 20⟩
/-- LINT.FAIL.CE [63:60] W1C (R255). -/
def F.LINT_FAIL_CE : Fld := ⟨R.LINT_FAIL, 60, 4⟩
/-- Address of LINT.RUNS (R485). -/
def R.LINT_RUNS : Nat := 0x24038
/-- LINT.RUNS [63:0] RO (R255). -/
def F.LINT_RUNS : Fld := ⟨R.LINT_RUNS, 0, 64⟩
/-- Address of LINT.FAILS (R485). -/
def R.LINT_FAILS : Nat := 0x24040
/-- LINT.FAILS [63:0] RO (R255). -/
def F.LINT_FAILS : Fld := ⟨R.LINT_FAILS, 0, 64⟩
/-- Address of LINT.LENT_CYCLES (R485). -/
def R.LINT_LENT_CYCLES : Nat := 0x24048
/-- LINT.LENT_CYCLES [63:0] RO (R255). -/
def F.LINT_LENT_CYCLES : Fld := ⟨R.LINT_LENT_CYCLES, 0, 64⟩
/-- Address of LINT.FORCED (R485). -/
def R.LINT_FORCED : Nat := 0x24050
/-- LINT.FORCED [63:0] RO (R255). -/
def F.LINT_FORCED : Fld := ⟨R.LINT_FORCED, 0, 64⟩
/-- Address of LINT.LATE (R485). -/
def R.LINT_LATE : Nat := 0x24058
/-- LINT.LATE [63:0] RO (R255). -/
def F.LINT_LATE : Fld := ⟨R.LINT_LATE, 0, 64⟩
/-- Address of COLL.STAGE (R485). -/
def R.COLL_STAGE : Nat := 0x25000
/-- COLL.STAGE.BASE [47:0] RW (R341). -/
def F.COLL_STAGE_BASE : Fld := ⟨R.COLL_STAGE, 0, 48⟩
/-- Address of COLL.STAGE_SIZE (R485). -/
def R.COLL_STAGE_SIZE : Nat := 0x25008
/-- COLL.STAGE_SIZE.MIB [31:0] RW (R341). -/
def F.COLL_STAGE_SIZE_MIB : Fld := ⟨R.COLL_STAGE_SIZE, 0, 32⟩
/-- Address of COLL.WINDOW (R485). -/
def R.COLL_WINDOW : Nat := 0x25010
/-- COLL.WINDOW.KIB [15:0] RW (R341). -/
def F.COLL_WINDOW_KIB : Fld := ⟨R.COLL_WINDOW, 0, 16⟩
/-- Address of COLL.REPORT (R485). -/
def R.COLL_REPORT : Nat := 0x25018
/-- COLL.REPORT.BASE [63:0] RW (R341). -/
def F.COLL_REPORT_BASE : Fld := ⟨R.COLL_REPORT, 0, 64⟩
/-- Address of COLL.REPORT_CTL (R485). -/
def R.COLL_REPORT_CTL : Nat := 0x25020
/-- COLL.REPORT_CTL.ENTRIES_LOG2 [4:0] RW (R341). -/
def F.COLL_REPORT_CTL_ENTRIES_LOG2 : Fld := ⟨R.COLL_REPORT_CTL, 0, 5⟩
/-- Address of COLL.READY_DROP (R485). -/
def R.COLL_READY_DROP : Nat := 0x25028
/-- COLL.READY_DROP [63:0] RO (R341). -/
def F.COLL_READY_DROP : Fld := ⟨R.COLL_READY_DROP, 0, 64⟩
/-- Address of COLL.FENCE_DROP (R485). -/
def R.COLL_FENCE_DROP : Nat := 0x25030
/-- COLL.FENCE_DROP [63:0] RO (R341). -/
def F.COLL_FENCE_DROP : Fld := ⟨R.COLL_FENCE_DROP, 0, 64⟩
/-- Address of COLL.SEND_WAIT_NS (R485). -/
def R.COLL_SEND_WAIT_NS : Nat := 0x25038
/-- COLL.SEND_WAIT_NS [63:0] RO (R341). -/
def F.COLL_SEND_WAIT_NS : Fld := ⟨R.COLL_SEND_WAIT_NS, 0, 64⟩
/-- Address of COLL.RECV_WAIT_NS (R485). -/
def R.COLL_RECV_WAIT_NS : Nat := 0x25040
/-- COLL.RECV_WAIT_NS [63:0] RO (R341). -/
def F.COLL_RECV_WAIT_NS : Fld := ⟨R.COLL_RECV_WAIT_NS, 0, 64⟩
/-- Address of COLL.CE_BYTES (R485). -/
def R.COLL_CE_BYTES (a : Nat) : Nat := 0x25048 + 0x8 * a
/-- COLL.CE_BYTES [63:0] RO (R341). -/
def F.COLL_CE_BYTES (a : Nat) : Fld := ⟨R.COLL_CE_BYTES a, 0, 64⟩
/-- Address of COLL.CE_WAIT_NS (R485). -/
def R.COLL_CE_WAIT_NS (a : Nat) : Nat := 0x25068 + 0x8 * a
/-- COLL.CE_WAIT_NS [63:0] RO (R341). -/
def F.COLL_CE_WAIT_NS (a : Nat) : Fld := ⟨R.COLL_CE_WAIT_NS a, 0, 64⟩
/-- Address of COLL.DUP_DROP (R485). -/
def R.COLL_DUP_DROP : Nat := 0x25088
/-- COLL.DUP_DROP [63:0] RO (R341). -/
def F.COLL_DUP_DROP : Fld := ⟨R.COLL_DUP_DROP, 0, 64⟩
/-- Address of SEAM.STATE.BASE (R485). -/
def R.SEAM_STATE_BASE : Nat := 0x26000
/-- SEAM.STATE.BASE [47:0] RW (R368). -/
def F.SEAM_STATE_BASE : Fld := ⟨R.SEAM_STATE_BASE, 0, 48⟩
/-- Address of SEAM.EFB.BASE (R485). -/
def R.SEAM_EFB_BASE : Nat := 0x26008
/-- SEAM.EFB.BASE [47:0] RW (R368). -/
def F.SEAM_EFB_BASE : Fld := ⟨R.SEAM_EFB_BASE, 0, 48⟩
/-- Address of SEAM.MIRROR.BASE (R485). -/
def R.SEAM_MIRROR_BASE : Nat := 0x26010
/-- SEAM.MIRROR.BASE [47:0] RW (R368). -/
def F.SEAM_MIRROR_BASE : Fld := ⟨R.SEAM_MIRROR_BASE, 0, 48⟩
/-- Address of SEAM.PRESS.BASE (R485). -/
def R.SEAM_PRESS_BASE : Nat := 0x26018
/-- SEAM.PRESS.BASE [47:0] RW (R368). -/
def F.SEAM_PRESS_BASE : Fld := ⟨R.SEAM_PRESS_BASE, 0, 48⟩
/-- Address of SEAM.HOLD.BASE (R485). -/
def R.SEAM_HOLD_BASE : Nat := 0x26020
/-- SEAM.HOLD.BASE [47:0] RW (R368). -/
def F.SEAM_HOLD_BASE : Fld := ⟨R.SEAM_HOLD_BASE, 0, 48⟩
/-- Address of SEAM.STATE_SIZE (R485). -/
def R.SEAM_STATE_SIZE : Nat := 0x26028
/-- SEAM.STATE_SIZE.BYTES [47:0] RW (R368). -/
def F.SEAM_STATE_SIZE_BYTES : Fld := ⟨R.SEAM_STATE_SIZE, 0, 48⟩
/-- Address of SEAM.EFB_SIZE (R485). -/
def R.SEAM_EFB_SIZE : Nat := 0x26030
/-- SEAM.EFB_SIZE.BYTES [47:0] RW (R368). -/
def F.SEAM_EFB_SIZE_BYTES : Fld := ⟨R.SEAM_EFB_SIZE, 0, 48⟩
/-- Address of SEAM.HOST_SLOT_A (R485). -/
def R.SEAM_HOST_SLOT_A : Nat := 0x26038
/-- SEAM.HOST_SLOT_A [63:0] RW (R368). -/
def F.SEAM_HOST_SLOT_A : Fld := ⟨R.SEAM_HOST_SLOT_A, 0, 64⟩
/-- Address of SEAM.HOST_SLOT_B (R485). -/
def R.SEAM_HOST_SLOT_B : Nat := 0x26040
/-- SEAM.HOST_SLOT_B [63:0] RW (R368). -/
def F.SEAM_HOST_SLOT_B : Fld := ⟨R.SEAM_HOST_SLOT_B, 0, 64⟩
/-- Address of SEAM.PEER (R485). -/
def R.SEAM_PEER : Nat := 0x26048
/-- SEAM.PEER.PARTNER [13:0] RW (R368). -/
def F.SEAM_PEER_PARTNER : Fld := ⟨R.SEAM_PEER, 0, 14⟩
/-- SEAM.PEER.PARTNER_VALID [14:14] RW (R368). -/
def F.SEAM_PEER_PARTNER_VALID : Fld := ⟨R.SEAM_PEER, 14, 1⟩
/-- SEAM.PEER.MIRROR_OF [29:16] RW (R368). -/
def F.SEAM_PEER_MIRROR_OF : Fld := ⟨R.SEAM_PEER, 16, 14⟩
/-- SEAM.PEER.MIRROR_OF_VALID [30:30] RW (R368). -/
def F.SEAM_PEER_MIRROR_OF_VALID : Fld := ⟨R.SEAM_PEER, 30, 1⟩
/-- SEAM.PEER.BOND_EN [31:31] RW (R368). -/
def F.SEAM_PEER_BOND_EN : Fld := ⟨R.SEAM_PEER, 31, 1⟩
/-- SEAM.PEER.BOND_A [35:32] RW (R368). -/
def F.SEAM_PEER_BOND_A : Fld := ⟨R.SEAM_PEER, 32, 4⟩
/-- SEAM.PEER.BOND_B [39:36] RW (R368). -/
def F.SEAM_PEER_BOND_B : Fld := ⟨R.SEAM_PEER, 36, 4⟩
/-- Address of SEAM.GROUP_COMMIT (R485). -/
def R.SEAM_GROUP_COMMIT : Nat := 0x26050
/-- SEAM.GROUP_COMMIT.COMMIT [0:0] WO (R368). -/
def F.SEAM_GROUP_COMMIT_COMMIT : Fld := ⟨R.SEAM_GROUP_COMMIT, 0, 1⟩
/-- Address of SEAM.ACCEPT (R485). -/
def R.SEAM_ACCEPT : Nat := 0x26058
/-- SEAM.ACCEPT.OWN [0:0] RW (R368). -/
def F.SEAM_ACCEPT_OWN : Fld := ⟨R.SEAM_ACCEPT, 0, 1⟩
/-- Address of SEAM.TMO (R485). -/
def R.SEAM_TMO : Nat := 0x26060
/-- SEAM.TMO.STREAM_MS [15:0] RW (R368). -/
def F.SEAM_TMO_STREAM_MS : Fld := ⟨R.SEAM_TMO, 0, 16⟩
/-- Address of SEAM.XFER (R485). -/
def R.SEAM_XFER : Nat := 0x26068
/-- SEAM.XFER.KIND [1:0] RW (R368). -/
def F.SEAM_XFER_KIND : Fld := ⟨R.SEAM_XFER, 0, 2⟩
/-- SEAM.XFER.SLOT [2:2] RW (R368). -/
def F.SEAM_XFER_SLOT : Fld := ⟨R.SEAM_XFER, 2, 1⟩
/-- SEAM.XFER.RELAY_ID [29:16] RW (R368). -/
def F.SEAM_XFER_RELAY_ID : Fld := ⟨R.SEAM_XFER, 16, 14⟩
/-- SEAM.XFER.RELAY_VALID [30:30] RW (R368). -/
def F.SEAM_XFER_RELAY_VALID : Fld := ⟨R.SEAM_XFER, 30, 1⟩
/-- SEAM.XFER.START [31:31] WO (R368). -/
def F.SEAM_XFER_START : Fld := ⟨R.SEAM_XFER, 31, 1⟩
/-- SEAM.XFER.BUSY [32:32] RO (R368). -/
def F.SEAM_XFER_BUSY : Fld := ⟨R.SEAM_XFER, 32, 1⟩
/-- SEAM.XFER.RESULT [35:33] RO (R368). -/
def F.SEAM_XFER_RESULT : Fld := ⟨R.SEAM_XFER, 33, 3⟩
/-- Address of SEAM.MSTAT (R485). -/
def R.SEAM_MSTAT : Nat := 0x26070
/-- SEAM.MSTAT.STEP [47:0] RO (R368). -/
def F.SEAM_MSTAT_STEP : Fld := ⟨R.SEAM_MSTAT, 0, 48⟩
/-- SEAM.MSTAT.STATE [50:48] RO (R368). -/
def F.SEAM_MSTAT_STATE : Fld := ⟨R.SEAM_MSTAT, 48, 3⟩
/-- Address of SEAM.OSTAT (R485). -/
def R.SEAM_OSTAT : Nat := 0x26078
/-- SEAM.OSTAT.MC_STEP [47:0] RO (R368). -/
def F.SEAM_OSTAT_MC_STEP : Fld := ⟨R.SEAM_OSTAT, 0, 48⟩
/-- SEAM.OSTAT.OWN [49:48] RO (R368). -/
def F.SEAM_OSTAT_OWN : Fld := ⟨R.SEAM_OSTAT, 48, 2⟩
/-- Address of SEAM.CKPT (R485). -/
def R.SEAM_CKPT : Nat := 0x26080
/-- SEAM.CKPT.EVERY_STEPS [23:0] RW (R368). -/
def F.SEAM_CKPT_EVERY_STEPS : Fld := ⟨R.SEAM_CKPT, 0, 24⟩
/-- SEAM.CKPT.PERIOD_S [47:24] RW (R368). -/
def F.SEAM_CKPT_PERIOD_S : Fld := ⟨R.SEAM_CKPT, 24, 24⟩
/-- SEAM.CKPT.DEST [49:48] RW (R368). -/
def F.SEAM_CKPT_DEST : Fld := ⟨R.SEAM_CKPT, 48, 2⟩
/-- Address of SEAM.CKPT_CTL (R485). -/
def R.SEAM_CKPT_CTL : Nat := 0x26088
/-- SEAM.CKPT_CTL.NOW [0:0] WO (R368). -/
def F.SEAM_CKPT_CTL_NOW : Fld := ⟨R.SEAM_CKPT_CTL, 0, 1⟩
/-- Address of SEAM.DRAIN (R485). -/
def R.SEAM_DRAIN : Nat := 0x26090
/-- SEAM.DRAIN.RATE_GBPS [15:0] RW (R368). -/
def F.SEAM_DRAIN_RATE_GBPS : Fld := ⟨R.SEAM_DRAIN, 0, 16⟩
/-- Address of SEAM.CKSTAT (R485). -/
def R.SEAM_CKSTAT : Nat := 0x26098
/-- SEAM.CKSTAT.PRESS_STEP [47:0] RO (R368). -/
def F.SEAM_CKSTAT_PRESS_STEP : Fld := ⟨R.SEAM_CKSTAT, 0, 48⟩
/-- SEAM.CKSTAT.PRESS_VALID [48:48] RO (R368). -/
def F.SEAM_CKSTAT_PRESS_VALID : Fld := ⟨R.SEAM_CKSTAT, 48, 1⟩
/-- SEAM.CKSTAT.DRAIN_BUSY [49:49] RO (R368). -/
def F.SEAM_CKSTAT_DRAIN_BUSY : Fld := ⟨R.SEAM_CKSTAT, 49, 1⟩
/-- SEAM.CKSTAT.RES_PARTNER [52:50] RO (R368). -/
def F.SEAM_CKSTAT_RES_PARTNER : Fld := ⟨R.SEAM_CKSTAT, 50, 3⟩
/-- SEAM.CKSTAT.RES_HOST [55:53] RO (R368). -/
def F.SEAM_CKSTAT_RES_HOST : Fld := ⟨R.SEAM_CKSTAT, 53, 3⟩
/-- Address of SEAM.CK_SEQ (R485). -/
def R.SEAM_CK_SEQ : Nat := 0x260a0
/-- SEAM.CK_SEQ [63:0] RO (R368). -/
def F.SEAM_CK_SEQ : Fld := ⟨R.SEAM_CK_SEQ, 0, 64⟩
/-- Address of SEAM.RESTORE (R485). -/
def R.SEAM_RESTORE : Nat := 0x260a8
/-- SEAM.RESTORE.CMD [1:0] WO (R368). -/
def F.SEAM_RESTORE_CMD : Fld := ⟨R.SEAM_RESTORE, 0, 2⟩
/-- SEAM.RESTORE.SOURCE [3:2] RW (R368). -/
def F.SEAM_RESTORE_SOURCE : Fld := ⟨R.SEAM_RESTORE, 2, 2⟩
/-- SEAM.RESTORE.STEP [51:4] RW (R368). -/
def F.SEAM_RESTORE_STEP : Fld := ⟨R.SEAM_RESTORE, 4, 48⟩
/-- Address of SEAM.RSTAT (R485). -/
def R.SEAM_RSTAT : Nat := 0x260b0
/-- SEAM.RSTAT.RESULT [2:0] RO (R368). -/
def F.SEAM_RSTAT_RESULT : Fld := ⟨R.SEAM_RSTAT, 0, 3⟩
/-- Address of SEAM.RSLOT (R485). -/
def R.SEAM_RSLOT (k : Nat) : Nat := 0x260b8 + 0x8 * k
/-- SEAM.RSLOT.STEP [47:0] RO (R368). -/
def F.SEAM_RSLOT_STEP (k : Nat) : Fld := ⟨R.SEAM_RSLOT k, 0, 48⟩
/-- SEAM.RSLOT.VALID [48:48] RO (R368). -/
def F.SEAM_RSLOT_VALID (k : Nat) : Fld := ⟨R.SEAM_RSLOT k, 48, 1⟩
/-- Address of SEAM.RCURSOR0 (R485). -/
def R.SEAM_RCURSOR0 : Nat := 0x260d8
/-- SEAM.RCURSOR0 [63:0] RO (R368). -/
def F.SEAM_RCURSOR0 : Fld := ⟨R.SEAM_RCURSOR0, 0, 64⟩
/-- Address of SEAM.RCURSOR1 (R485). -/
def R.SEAM_RCURSOR1 : Nat := 0x260e0
/-- SEAM.RCURSOR1 [63:0] RO (R368). -/
def F.SEAM_RCURSOR1 : Fld := ⟨R.SEAM_RCURSOR1, 0, 64⟩
/-- Address of SEAM.RKEY0 (R485). -/
def R.SEAM_RKEY0 : Nat := 0x260e8
/-- SEAM.RKEY0 [63:0] RO (R368). -/
def F.SEAM_RKEY0 : Fld := ⟨R.SEAM_RKEY0, 0, 64⟩
/-- Address of SEAM.RKEY1 (R485). -/
def R.SEAM_RKEY1 : Nat := 0x260f0
/-- SEAM.RKEY1 [63:0] RO (R368). -/
def F.SEAM_RKEY1 : Fld := ⟨R.SEAM_RKEY1, 0, 64⟩
/-- Address of SEAM.SEND_BYTES (R485). -/
def R.SEAM_SEND_BYTES : Nat := 0x260f8
/-- SEAM.SEND_BYTES [63:0] RO (R368). -/
def F.SEAM_SEND_BYTES : Fld := ⟨R.SEAM_SEND_BYTES, 0, 64⟩
/-- Address of SEAM.MIRROR_BYTES (R485). -/
def R.SEAM_MIRROR_BYTES : Nat := 0x26100
/-- SEAM.MIRROR_BYTES [63:0] RO (R368). -/
def F.SEAM_MIRROR_BYTES : Fld := ⟨R.SEAM_MIRROR_BYTES, 0, 64⟩
/-- Address of SEAM.XFER_BYTES (R485). -/
def R.SEAM_XFER_BYTES : Nat := 0x26108
/-- SEAM.XFER_BYTES [63:0] RO (R368). -/
def F.SEAM_XFER_BYTES : Fld := ⟨R.SEAM_XFER_BYTES, 0, 64⟩
/-- Address of SEAM.DRAIN_BYTES (R485). -/
def R.SEAM_DRAIN_BYTES : Nat := 0x26110
/-- SEAM.DRAIN_BYTES [63:0] RO (R368). -/
def F.SEAM_DRAIN_BYTES : Fld := ⟨R.SEAM_DRAIN_BYTES, 0, 64⟩
/-- Address of SEAM.XFER_DROP (R485). -/
def R.SEAM_XFER_DROP : Nat := 0x26118
/-- SEAM.XFER_DROP [63:0] RO (R368). -/
def F.SEAM_XFER_DROP : Fld := ⟨R.SEAM_XFER_DROP, 0, 64⟩
/-- Address of SEAM.PRESS_WAIT_NS (R485). -/
def R.SEAM_PRESS_WAIT_NS : Nat := 0x26120
/-- SEAM.PRESS_WAIT_NS [63:0] RO (R368). -/
def F.SEAM_PRESS_WAIT_NS : Fld := ⟨R.SEAM_PRESS_WAIT_NS, 0, 64⟩
/-- Address of SEAM.CKPT_SKIPPED (R485). -/
def R.SEAM_CKPT_SKIPPED : Nat := 0x26128
/-- SEAM.CKPT_SKIPPED [63:0] RO (R368). -/
def F.SEAM_CKPT_SKIPPED : Fld := ⟨R.SEAM_CKPT_SKIPPED, 0, 64⟩
/-- Address of SEAM.TORN (R485). -/
def R.SEAM_TORN : Nat := 0x26130
/-- SEAM.TORN [63:0] RO (R368). -/
def F.SEAM_TORN : Fld := ⟨R.SEAM_TORN, 0, 64⟩
/-- Address of SEAM.JOB_START (R485). -/
def R.SEAM_JOB_START : Nat := 0x26138
/-- SEAM.JOB_START.STEP [47:0] RW (R368). -/
def F.SEAM_JOB_START_STEP : Fld := ⟨R.SEAM_JOB_START, 0, 48⟩
/-- SEAM.JOB_START.START [63:63] WO (R368). -/
def F.SEAM_JOB_START_START : Fld := ⟨R.SEAM_JOB_START, 63, 1⟩
/-- Address of SEAM.MIRROR_SIZE (R485). -/
def R.SEAM_MIRROR_SIZE : Nat := 0x26140
/-- SEAM.MIRROR_SIZE.BYTES [47:0] RW (R368). -/
def F.SEAM_MIRROR_SIZE_BYTES : Fld := ⟨R.SEAM_MIRROR_SIZE, 0, 48⟩
/-- Address of BAY.ME (R485). -/
def R.BAY_ME (n : Nat) : Nat := 0x30000 + 0x1000 * n
/-- BAY.ME.ME_DISABLE [7:0] RW (R152). -/
def F.BAY_ME_ME_DISABLE (n : Nat) : Fld := ⟨R.BAY_ME n, 0, 8⟩
/-- BAY.ME.ME_SUSPECT [15:8] W1C (R152). -/
def F.BAY_ME_ME_SUSPECT (n : Nat) : Fld := ⟨R.BAY_ME n, 8, 8⟩
/-- BAY.ME.STEAM_EN [16:16] RW (R152). -/
def F.BAY_ME_STEAM_EN (n : Nat) : Fld := ⟨R.BAY_ME n, 16, 1⟩
/-- Address of BAY.FEED_STALL (R485). -/
def R.BAY_FEED_STALL (n : Nat) : Nat := 0x30008 + 0x1000 * n
/-- BAY.FEED_STALL [63:0] RO (R152). -/
def F.BAY_FEED_STALL (n : Nat) : Fld := ⟨R.BAY_FEED_STALL n, 0, 64⟩
/-- Address of BAY.DRAIN_STALL (R485). -/
def R.BAY_DRAIN_STALL (n : Nat) : Nat := 0x30010 + 0x1000 * n
/-- BAY.DRAIN_STALL [63:0] RO (R152). -/
def F.BAY_DRAIN_STALL (n : Nat) : Fld := ⟨R.BAY_DRAIN_STALL n, 0, 64⟩
/-- Address of BAY.STEAM_CYCLES (R485). -/
def R.BAY_STEAM_CYCLES (n : Nat) : Nat := 0x30018 + 0x1000 * n
/-- BAY.STEAM_CYCLES [63:0] RO (R152). -/
def F.BAY_STEAM_CYCLES (n : Nat) : Fld := ⟨R.BAY_STEAM_CYCLES n, 0, 64⟩
/-- Address of BAY.RESIDUE_ERR (R485). -/
def R.BAY_RESIDUE_ERR (n : Nat) : Nat := 0x30020 + 0x1000 * n
/-- BAY.RESIDUE_ERR [63:0] RO (R152). -/
def F.BAY_RESIDUE_ERR (n : Nat) : Fld := ⟨R.BAY_RESIDUE_ERR n, 0, 64⟩
/-- Address of HBM.REG (R485). -/
def R.HBM_REG (k : Nat) : Nat := 0x50000 + 0x8 * k
/-- HBM.REG.RATE [11:0] RW (R229). -/
def F.HBM_REG_RATE (k : Nat) : Fld := ⟨R.HBM_REG k, 0, 12⟩
/-- HBM.REG.DEPTH [19:12] RW (R229). -/
def F.HBM_REG_DEPTH (k : Nat) : Fld := ⟨R.HBM_REG k, 12, 8⟩
/-- HBM.REG.MODE [20:20] RW (R229). -/
def F.HBM_REG_MODE (k : Nat) : Fld := ⟨R.HBM_REG k, 20, 1⟩
/-- HBM.REG.COMPUTE [21:21] RW (R229). -/
def F.HBM_REG_COMPUTE (k : Nat) : Fld := ⟨R.HBM_REG k, 21, 1⟩
/-- Address of HBM.GROUP_COMMIT (R485). -/
def R.HBM_GROUP_COMMIT : Nat := 0x50080
/-- HBM.GROUP_COMMIT.COMMIT [0:0] WO (R229). -/
def F.HBM_GROUP_COMMIT_COMMIT : Fld := ⟨R.HBM_GROUP_COMMIT, 0, 1⟩
/-- Address of HBM.TEMP (R485). -/
def R.HBM_TEMP : Nat := 0x50088
/-- HBM.TEMP.STACK0 [7:0] RO (R229). -/
def F.HBM_TEMP_STACK0 : Fld := ⟨R.HBM_TEMP, 0, 8⟩
/-- HBM.TEMP.STACK1 [15:8] RO (R229). -/
def F.HBM_TEMP_STACK1 : Fld := ⟨R.HBM_TEMP, 8, 8⟩
/-- HBM.TEMP.STACK2 [23:16] RO (R229). -/
def F.HBM_TEMP_STACK2 : Fld := ⟨R.HBM_TEMP, 16, 8⟩
/-- HBM.TEMP.STACK3 [31:24] RO (R229). -/
def F.HBM_TEMP_STACK3 : Fld := ⟨R.HBM_TEMP, 24, 8⟩
/-- HBM.TEMP.STACK4 [39:32] RO (R229). -/
def F.HBM_TEMP_STACK4 : Fld := ⟨R.HBM_TEMP, 32, 8⟩
/-- HBM.TEMP.STACK5 [47:40] RO (R229). -/
def F.HBM_TEMP_STACK5 : Fld := ⟨R.HBM_TEMP, 40, 8⟩
/-- HBM.TEMP.STACK6 [55:48] RO (R229). -/
def F.HBM_TEMP_STACK6 : Fld := ⟨R.HBM_TEMP, 48, 8⟩
/-- HBM.TEMP.STACK7 [63:56] RO (R229). -/
def F.HBM_TEMP_STACK7 : Fld := ⟨R.HBM_TEMP, 56, 8⟩
/-- Address of HBM.TSTAT (R485). -/
def R.HBM_TSTAT : Nat := 0x50090
/-- HBM.TSTAT.REFRESH2X [7:0] RO (R229). -/
def F.HBM_TSTAT_REFRESH2X : Fld := ⟨R.HBM_TSTAT, 0, 8⟩
/-- HBM.TSTAT.CUT [15:8] RO (R229). -/
def F.HBM_TSTAT_CUT : Fld := ⟨R.HBM_TSTAT, 8, 8⟩
/-- HBM.TSTAT.TRIP [23:16] RO (R229). -/
def F.HBM_TSTAT_TRIP : Fld := ⟨R.HBM_TSTAT, 16, 8⟩
/-- HBM.TSTAT.SENSOR_FAIL [31:24] RO (R229). -/
def F.HBM_TSTAT_SENSOR_FAIL : Fld := ⟨R.HBM_TSTAT, 24, 8⟩
/-- Address of HBM.SCRUB (R485). -/
def R.HBM_SCRUB : Nat := 0x50098
/-- HBM.SCRUB.PERIOD [7:0] RW (R229). -/
def F.HBM_SCRUB_PERIOD : Fld := ⟨R.HBM_SCRUB, 0, 8⟩
/-- Address of HBM.CORR (R485). -/
def R.HBM_CORR : Nat := 0x500a0
/-- HBM.CORR [63:0] RO (R229). -/
def F.HBM_CORR : Fld := ⟨R.HBM_CORR, 0, 64⟩
/-- Address of HBM.UNCORR (R485). -/
def R.HBM_UNCORR : Nat := 0x500a8
/-- HBM.UNCORR [63:0] RO (R229). -/
def F.HBM_UNCORR : Fld := ⟨R.HBM_UNCORR, 0, 64⟩
/-- Address of HBM.UNCORR_ADDR (R485). -/
def R.HBM_UNCORR_ADDR : Nat := 0x500b0
/-- HBM.UNCORR_ADDR.ADDR [47:0] RO (R229). -/
def F.HBM_UNCORR_ADDR_ADDR : Fld := ⟨R.HBM_UNCORR_ADDR, 0, 48⟩
/-- HBM.UNCORR_ADDR.VALID [63:63] W1C (R229). -/
def F.HBM_UNCORR_ADDR_VALID : Fld := ⟨R.HBM_UNCORR_ADDR, 63, 1⟩
/-- Address of HBM.QFULL (R485). -/
def R.HBM_QFULL : Nat := 0x500b8
/-- HBM.QFULL [63:0] RO (R229). -/
def F.HBM_QFULL : Fld := ⟨R.HBM_QFULL, 0, 64⟩
/-- Address of HBM.REGBYTES (R485). -/
def R.HBM_REGBYTES (k : Nat) : Nat := 0x50100 + 0x8 * k
/-- HBM.REGBYTES [63:0] RO (R229). -/
def F.HBM_REGBYTES (k : Nat) : Fld := ⟨R.HBM_REGBYTES k, 0, 64⟩
/-- Address of HBM.TG_CTL (R485). -/
def R.HBM_TG_CTL : Nat := 0x50180
/-- HBM.TG_CTL.START [0:0] WO (R229). -/
def F.HBM_TG_CTL_START : Fld := ⟨R.HBM_TG_CTL, 0, 1⟩
/-- HBM.TG_CTL.ARM [1:1] RW (R229). -/
def F.HBM_TG_CTL_ARM : Fld := ⟨R.HBM_TG_CTL, 1, 1⟩
/-- HBM.TG_CTL.BUSY [2:2] RO (R229). -/
def F.HBM_TG_CTL_BUSY : Fld := ⟨R.HBM_TG_CTL, 2, 1⟩
/-- Address of HBM.TG_CFG (R485). -/
def R.HBM_TG_CFG : Nat := 0x50188
/-- HBM.TG_CFG.PATTERN [2:0] RW (R229). -/
def F.HBM_TG_CFG_PATTERN : Fld := ⟨R.HBM_TG_CFG, 0, 3⟩
/-- HBM.TG_CFG.ORDER [4:3] RW (R229). -/
def F.HBM_TG_CFG_ORDER : Fld := ⟨R.HBM_TG_CFG, 3, 2⟩
/-- HBM.TG_CFG.DIR [6:5] RW (R229). -/
def F.HBM_TG_CFG_DIR : Fld := ⟨R.HBM_TG_CFG, 5, 2⟩
/-- HBM.TG_CFG.SPAN_LOG2 [11:7] RW (R229). -/
def F.HBM_TG_CFG_SPAN_LOG2 : Fld := ⟨R.HBM_TG_CFG, 7, 5⟩
/-- HBM.TG_CFG.SEED [63:32] RW (R229). -/
def F.HBM_TG_CFG_SEED : Fld := ⟨R.HBM_TG_CFG, 32, 32⟩
/-- Address of HBM.TG_MASK (R485). -/
def R.HBM_TG_MASK (h : Nat) : Nat := 0x50190 + 0x8 * h
/-- HBM.TG_MASK.CHANNELS [31:0] RW (R229). -/
def F.HBM_TG_MASK_CHANNELS (h : Nat) : Fld := ⟨R.HBM_TG_MASK h, 0, 32⟩
/-- Address of HBM.TG_FAIL (R485). -/
def R.HBM_TG_FAIL (h : Nat) : Nat := 0x501d0 + 0x8 * h
/-- HBM.TG_FAIL.CHANNELS [31:0] RO (R229). -/
def F.HBM_TG_FAIL_CHANNELS (h : Nat) : Fld := ⟨R.HBM_TG_FAIL h, 0, 32⟩
/-- Address of HBM.TG_ERRCNT (R485). -/
def R.HBM_TG_ERRCNT : Nat := 0x50210
/-- HBM.TG_ERRCNT [63:0] RO (R229). -/
def F.HBM_TG_ERRCNT : Fld := ⟨R.HBM_TG_ERRCNT, 0, 64⟩
/-- Address of HBM.TG_FIRST (R485). -/
def R.HBM_TG_FIRST : Nat := 0x50218
/-- HBM.TG_FIRST.LOCAL [31:0] RO (R229). -/
def F.HBM_TG_FIRST_LOCAL : Fld := ⟨R.HBM_TG_FIRST, 0, 32⟩
/-- HBM.TG_FIRST.CHAN [39:32] RO (R229). -/
def F.HBM_TG_FIRST_CHAN : Fld := ⟨R.HBM_TG_FIRST, 32, 8⟩
/-- HBM.TG_FIRST.VALID [63:63] RO (R229). -/
def F.HBM_TG_FIRST_VALID : Fld := ⟨R.HBM_TG_FIRST, 63, 1⟩
/-- Address of UBVOR.THRESH (R485). -/
def R.UBVOR_THRESH : Nat := 0x60000
/-- UBVOR.THRESH.LOW [7:0] RW (R278). -/
def F.UBVOR_THRESH_LOW : Fld := ⟨R.UBVOR_THRESH, 0, 8⟩
/-- UBVOR.THRESH.LOS [15:8] RW (R278). -/
def F.UBVOR_THRESH_LOS : Fld := ⟨R.UBVOR_THRESH, 8, 8⟩
/-- UBVOR.THRESH.REV [23:16] RW (R278). -/
def F.UBVOR_THRESH_REV : Fld := ⟨R.UBVOR_THRESH, 16, 8⟩
/-- UBVOR.THRESH.LASER_LOW [31:24] RW (R278). -/
def F.UBVOR_THRESH_LASER_LOW : Fld := ⟨R.UBVOR_THRESH, 24, 8⟩
/-- Address of UBVOR.QUAL (R485). -/
def R.UBVOR_QUAL : Nat := 0x60008
/-- UBVOR.QUAL.LANE_SYM_MAX [31:0] RW (R278). -/
def F.UBVOR_QUAL_LANE_SYM_MAX : Fld := ⟨R.UBVOR_QUAL, 0, 32⟩
/-- UBVOR.QUAL.LANE_UNCORR_MAX [47:32] RW (R278). -/
def F.UBVOR_QUAL_LANE_UNCORR_MAX : Fld := ⟨R.UBVOR_QUAL, 32, 16⟩
/-- Address of UBVOR.RETRY (R485). -/
def R.UBVOR_RETRY : Nat := 0x60010
/-- UBVOR.RETRY.RETRY_MAX [7:0] RW (R278). -/
def F.UBVOR_RETRY_RETRY_MAX : Fld := ⟨R.UBVOR_RETRY, 0, 8⟩
/-- UBVOR.RETRY.ACK_TIMEOUT_US [23:8] RW (R278). -/
def F.UBVOR_RETRY_ACK_TIMEOUT_US : Fld := ⟨R.UBVOR_RETRY, 8, 16⟩
/-- UBVOR.RETRY.DEAD_US [47:24] RW (R278). -/
def F.UBVOR_RETRY_DEAD_US : Fld := ⟨R.UBVOR_RETRY, 24, 24⟩
/-- Address of UBVOR.AGE (R485). -/
def R.UBVOR_AGE : Nat := 0x60018
/-- UBVOR.AGE.SAMPLE_MIN [15:0] RW (R278). -/
def F.UBVOR_AGE_SAMPLE_MIN : Fld := ⟨R.UBVOR_AGE, 0, 16⟩
/-- UBVOR.AGE.LIMIT_MA [23:16] RW (R278). -/
def F.UBVOR_AGE_LIMIT_MA : Fld := ⟨R.UBVOR_AGE, 16, 8⟩
/-- UBVOR.AGE.WARN_H [47:24] RW (R278). -/
def F.UBVOR_AGE_WARN_H : Fld := ⟨R.UBVOR_AGE, 24, 24⟩
/-- Address of UBVOR.PCFG (R485). -/
def R.UBVOR_PCFG (n : Nat) : Nat := 0x60100 + 0x80 * n
/-- UBVOR.PCFG.ENABLE [0:0] RW (R278). -/
def F.UBVOR_PCFG_ENABLE (n : Nat) : Fld := ⟨R.UBVOR_PCFG n, 0, 1⟩
/-- UBVOR.PCFG.GEN [2:1] RW (R278). -/
def F.UBVOR_PCFG_GEN (n : Nat) : Fld := ⟨R.UBVOR_PCFG n, 1, 2⟩
/-- UBVOR.PCFG.MIN_WIDTH [4:3] RW (R278). -/
def F.UBVOR_PCFG_MIN_WIDTH (n : Nat) : Fld := ⟨R.UBVOR_PCFG n, 3, 2⟩
/-- UBVOR.PCFG.RETRAIN [5:5] WO (R278). -/
def F.UBVOR_PCFG_RETRAIN (n : Nat) : Fld := ⟨R.UBVOR_PCFG n, 5, 1⟩
/-- UBVOR.PCFG.NOW [6:6] WO (R278). -/
def F.UBVOR_PCFG_NOW (n : Nat) : Fld := ⟨R.UBVOR_PCFG n, 6, 1⟩
/-- UBVOR.PCFG.LANE_OFF [31:16] RW (R278). -/
def F.UBVOR_PCFG_LANE_OFF (n : Nat) : Fld := ⟨R.UBVOR_PCFG n, 16, 16⟩
/-- Address of UBVOR.PSTAT (R485). -/
def R.UBVOR_PSTAT (n : Nat) : Nat := 0x60108 + 0x80 * n
/-- UBVOR.PSTAT.STATE [2:0] RO (R278). -/
def F.UBVOR_PSTAT_STATE (n : Nat) : Fld := ⟨R.UBVOR_PSTAT n, 0, 3⟩
/-- UBVOR.PSTAT.GEN [4:3] RO (R278). -/
def F.UBVOR_PSTAT_GEN (n : Nat) : Fld := ⟨R.UBVOR_PSTAT n, 3, 2⟩
/-- UBVOR.PSTAT.WIDTH [6:5] RO (R278). -/
def F.UBVOR_PSTAT_WIDTH (n : Nat) : Fld := ⟨R.UBVOR_PSTAT n, 5, 2⟩
/-- UBVOR.PSTAT.FAULT [11:7] RO (R278). -/
def F.UBVOR_PSTAT_FAULT (n : Nat) : Fld := ⟨R.UBVOR_PSTAT n, 7, 5⟩
/-- UBVOR.PSTAT.RETRAIN_PEND [12:12] RO (R278). -/
def F.UBVOR_PSTAT_RETRAIN_PEND (n : Nat) : Fld := ⟨R.UBVOR_PSTAT n, 12, 1⟩
/-- UBVOR.PSTAT.LANES [31:16] RO (R278). -/
def F.UBVOR_PSTAT_LANES (n : Nat) : Fld := ⟨R.UBVOR_PSTAT n, 16, 16⟩
/-- Address of UBVOR.LANEMAP (R485). -/
def R.UBVOR_LANEMAP (n : Nat) : Nat := 0x60110 + 0x80 * n
/-- UBVOR.LANEMAP [63:0] RO (R278). -/
def F.UBVOR_LANEMAP (n : Nat) : Fld := ⟨R.UBVOR_LANEMAP n, 0, 64⟩
/-- Address of UBVOR.RXP_LO (R485). -/
def R.UBVOR_RXP_LO (n : Nat) : Nat := 0x60118 + 0x80 * n
/-- UBVOR.RXP_LO [63:0] RO (R278). -/
def F.UBVOR_RXP_LO (n : Nat) : Fld := ⟨R.UBVOR_RXP_LO n, 0, 64⟩
/-- Address of UBVOR.RXP_HI (R485). -/
def R.UBVOR_RXP_HI (n : Nat) : Nat := 0x60120 + 0x80 * n
/-- UBVOR.RXP_HI [63:0] RO (R278). -/
def F.UBVOR_RXP_HI (n : Nat) : Fld := ⟨R.UBVOR_RXP_HI n, 0, 64⟩
/-- Address of UBVOR.LSP_LO (R485). -/
def R.UBVOR_LSP_LO (n : Nat) : Nat := 0x60128 + 0x80 * n
/-- UBVOR.LSP_LO [63:0] RO (R278). -/
def F.UBVOR_LSP_LO (n : Nat) : Fld := ⟨R.UBVOR_LSP_LO n, 0, 64⟩
/-- Address of UBVOR.LSP_HI (R485). -/
def R.UBVOR_LSP_HI (n : Nat) : Nat := 0x60130 + 0x80 * n
/-- UBVOR.LSP_HI [63:0] RO (R278). -/
def F.UBVOR_LSP_HI (n : Nat) : Fld := ⟨R.UBVOR_LSP_HI n, 0, 64⟩
/-- Address of UBVOR.BIAS_LO (R485). -/
def R.UBVOR_BIAS_LO (n : Nat) : Nat := 0x60138 + 0x80 * n
/-- UBVOR.BIAS_LO [63:0] RO (R278). -/
def F.UBVOR_BIAS_LO (n : Nat) : Fld := ⟨R.UBVOR_BIAS_LO n, 0, 64⟩
/-- Address of UBVOR.BIAS_HI (R485). -/
def R.UBVOR_BIAS_HI (n : Nat) : Nat := 0x60140 + 0x80 * n
/-- UBVOR.BIAS_HI [63:0] RO (R278). -/
def F.UBVOR_BIAS_HI (n : Nat) : Fld := ⟨R.UBVOR_BIAS_HI n, 0, 64⟩
/-- Address of UBVOR.REVP (R485). -/
def R.UBVOR_REVP (n : Nat) : Nat := 0x60148 + 0x80 * n
/-- UBVOR.REVP.POWER [7:0] RO (R278). -/
def F.UBVOR_REVP_POWER (n : Nat) : Fld := ⟨R.UBVOR_REVP n, 0, 8⟩
/-- Address of UBVOR.CORR_SYM (R485). -/
def R.UBVOR_CORR_SYM (n : Nat) : Nat := 0x60150 + 0x80 * n
/-- UBVOR.CORR_SYM [63:0] RO (R278). -/
def F.UBVOR_CORR_SYM (n : Nat) : Fld := ⟨R.UBVOR_CORR_SYM n, 0, 64⟩
/-- Address of UBVOR.UNCORR_BLK (R485). -/
def R.UBVOR_UNCORR_BLK (n : Nat) : Nat := 0x60158 + 0x80 * n
/-- UBVOR.UNCORR_BLK [63:0] RO (R278). -/
def F.UBVOR_UNCORR_BLK (n : Nat) : Fld := ⟨R.UBVOR_UNCORR_BLK n, 0, 64⟩
/-- Address of UBVOR.TACK_FAIL (R485). -/
def R.UBVOR_TACK_FAIL (n : Nat) : Nat := 0x60160 + 0x80 * n
/-- UBVOR.TACK_FAIL [63:0] RO (R278). -/
def F.UBVOR_TACK_FAIL (n : Nat) : Fld := ⟨R.UBVOR_TACK_FAIL n, 0, 64⟩
/-- Address of UBVOR.RESEND (R485). -/
def R.UBVOR_RESEND (n : Nat) : Nat := 0x60168 + 0x80 * n
/-- UBVOR.RESEND [63:0] RO (R278). -/
def F.UBVOR_RESEND (n : Nat) : Fld := ⟨R.UBVOR_RESEND n, 0, 64⟩
/-- Address of UBVOR.DEGRADE (R485). -/
def R.UBVOR_DEGRADE (n : Nat) : Nat := 0x60170 + 0x80 * n
/-- UBVOR.DEGRADE [63:0] RO (R278). -/
def F.UBVOR_DEGRADE (n : Nat) : Fld := ⟨R.UBVOR_DEGRADE n, 0, 64⟩
/-- Address of UBVOR.DEAD (R485). -/
def R.UBVOR_DEAD (n : Nat) : Nat := 0x60178 + 0x80 * n
/-- UBVOR.DEAD [63:0] RO (R278). -/
def F.UBVOR_DEAD (n : Nat) : Fld := ⟨R.UBVOR_DEAD n, 0, 64⟩
/-- Address of ROUTE.ID (R485). -/
def R.ROUTE_ID : Nat := 0x70000
/-- ROUTE.ID.SELF [13:0] RW (R307). -/
def F.ROUTE_ID_SELF : Fld := ⟨R.ROUTE_ID, 0, 14⟩
/-- ROUTE.ID.VALID [63:63] RW (R307). -/
def F.ROUTE_ID_VALID : Fld := ⟨R.ROUTE_ID, 63, 1⟩
/-- Address of ROUTE.SHAPE (R485). -/
def R.ROUTE_SHAPE : Nat := 0x70008
/-- ROUTE.SHAPE.X [5:0] RW (R307). -/
def F.ROUTE_SHAPE_X : Fld := ⟨R.ROUTE_SHAPE, 0, 6⟩
/-- ROUTE.SHAPE.Y [11:6] RW (R307). -/
def F.ROUTE_SHAPE_Y : Fld := ⟨R.ROUTE_SHAPE, 6, 6⟩
/-- ROUTE.SHAPE.Z [17:12] RW (R307). -/
def F.ROUTE_SHAPE_Z : Fld := ⟨R.ROUTE_SHAPE, 12, 6⟩
/-- ROUTE.SHAPE.W [23:18] RW (R307). -/
def F.ROUTE_SHAPE_W : Fld := ⟨R.ROUTE_SHAPE, 18, 6⟩
/-- Address of ROUTE.COORD (R485). -/
def R.ROUTE_COORD : Nat := 0x70010
/-- ROUTE.COORD.X [5:0] RO (R307). -/
def F.ROUTE_COORD_X : Fld := ⟨R.ROUTE_COORD, 0, 6⟩
/-- ROUTE.COORD.Y [11:6] RO (R307). -/
def F.ROUTE_COORD_Y : Fld := ⟨R.ROUTE_COORD, 6, 6⟩
/-- ROUTE.COORD.Z [17:12] RO (R307). -/
def F.ROUTE_COORD_Z : Fld := ⟨R.ROUTE_COORD, 12, 6⟩
/-- ROUTE.COORD.W [23:18] RO (R307). -/
def F.ROUTE_COORD_W : Fld := ⟨R.ROUTE_COORD, 18, 6⟩
/-- Address of ROUTE.CTL (R485). -/
def R.ROUTE_CTL : Nat := 0x70018
/-- ROUTE.CTL.EPOCH [0:0] RW (R307). -/
def F.ROUTE_CTL_EPOCH : Fld := ⟨R.ROUTE_CTL, 0, 1⟩
/-- ROUTE.CTL.HOLD_NEW [1:1] RW (R307). -/
def F.ROUTE_CTL_HOLD_NEW : Fld := ⟨R.ROUTE_CTL, 1, 1⟩
/-- ROUTE.CTL.MODE [2:2] RW (R307). -/
def F.ROUTE_CTL_MODE : Fld := ⟨R.ROUTE_CTL, 2, 1⟩
/-- ROUTE.CTL.TTL [15:8] RW (R307). -/
def F.ROUTE_CTL_TTL : Fld := ⟨R.ROUTE_CTL, 8, 8⟩
/-- ROUTE.CTL.FORCE_RELEASE [16:16] WO (R307). -/
def F.ROUTE_CTL_FORCE_RELEASE : Fld := ⟨R.ROUTE_CTL, 16, 1⟩
/-- Address of ROUTE.GROUP_COMMIT (R485). -/
def R.ROUTE_GROUP_COMMIT : Nat := 0x70020
/-- ROUTE.GROUP_COMMIT.COMMIT [0:0] WO (R307). -/
def F.ROUTE_GROUP_COMMIT_COMMIT : Fld := ⟨R.ROUTE_GROUP_COMMIT, 0, 1⟩
/-- Address of ROUTE.TSTAT (R485). -/
def R.ROUTE_TSTAT : Nat := 0x70028
/-- ROUTE.TSTAT.STATE0 [1:0] RO (R307). -/
def F.ROUTE_TSTAT_STATE0 : Fld := ⟨R.ROUTE_TSTAT, 0, 2⟩
/-- ROUTE.TSTAT.STATE1 [3:2] RO (R307). -/
def F.ROUTE_TSTAT_STATE1 : Fld := ⟨R.ROUTE_TSTAT, 2, 2⟩
/-- ROUTE.TSTAT.ROUND [31:16] RO (R307). -/
def F.ROUTE_TSTAT_ROUND : Fld := ⟨R.ROUTE_TSTAT, 16, 16⟩
/-- ROUTE.TSTAT.READY [32:32] RO (R307). -/
def F.ROUTE_TSTAT_READY : Fld := ⟨R.ROUTE_TSTAT, 32, 1⟩
/-- ROUTE.TSTAT.DRAIN_LATE [33:33] RO (R307). -/
def F.ROUTE_TSTAT_DRAIN_LATE : Fld := ⟨R.ROUTE_TSTAT, 33, 1⟩
/-- Address of ROUTE.DRAIN (R485). -/
def R.ROUTE_DRAIN : Nat := 0x70030
/-- ROUTE.DRAIN.GAP_US [15:0] RW (R307). -/
def F.ROUTE_DRAIN_GAP_US : Fld := ⟨R.ROUTE_DRAIN, 0, 16⟩
/-- ROUTE.DRAIN.TIMEOUT_MS [31:16] RW (R307). -/
def F.ROUTE_DRAIN_TIMEOUT_MS : Fld := ⟨R.ROUTE_DRAIN, 16, 16⟩
/-- Address of ROUTE.ARB (R485). -/
def R.ROUTE_ARB : Nat := 0x70038
/-- ROUTE.ARB.W_COL [7:0] RW (R307). -/
def F.ROUTE_ARB_W_COL : Fld := ⟨R.ROUTE_ARB, 0, 8⟩
/-- ROUTE.ARB.W_P2P [15:8] RW (R307). -/
def F.ROUTE_ARB_W_P2P : Fld := ⟨R.ROUTE_ARB, 8, 8⟩
/-- ROUTE.ARB.W_BULK [23:16] RW (R307). -/
def F.ROUTE_ARB_W_BULK : Fld := ⟨R.ROUTE_ARB, 16, 8⟩
/-- Address of ROUTE.BUF (R485). -/
def R.ROUTE_BUF : Nat := 0x70040
/-- ROUTE.BUF.SHARE_MAX [13:0] RW (R307). -/
def F.ROUTE_BUF_SHARE_MAX : Fld := ⟨R.ROUTE_BUF, 0, 14⟩
/-- Address of ROUTE.DROP_FIRST (R485). -/
def R.ROUTE_DROP_FIRST : Nat := 0x70048
/-- ROUTE.DROP_FIRST.DST [13:0] RO (R307). -/
def F.ROUTE_DROP_FIRST_DST : Fld := ⟨R.ROUTE_DROP_FIRST, 0, 14⟩
/-- ROUTE.DROP_FIRST.CAUSE [17:16] RO (R307). -/
def F.ROUTE_DROP_FIRST_CAUSE : Fld := ⟨R.ROUTE_DROP_FIRST, 16, 2⟩
/-- ROUTE.DROP_FIRST.VALID [63:63] W1C (R307). -/
def F.ROUTE_DROP_FIRST_VALID : Fld := ⟨R.ROUTE_DROP_FIRST, 63, 1⟩
/-- Address of ROUTE.NOROUTE (R485). -/
def R.ROUTE_NOROUTE : Nat := 0x70050
/-- ROUTE.NOROUTE [63:0] RO (R307). -/
def F.ROUTE_NOROUTE : Fld := ⟨R.ROUTE_NOROUTE, 0, 64⟩
/-- Address of ROUTE.TTL_DROP (R485). -/
def R.ROUTE_TTL_DROP : Nat := 0x70058
/-- ROUTE.TTL_DROP [63:0] RO (R307). -/
def F.ROUTE_TTL_DROP : Fld := ⟨R.ROUTE_TTL_DROP, 0, 64⟩
/-- Address of ROUTE.QUAR_DROP (R485). -/
def R.ROUTE_QUAR_DROP : Nat := 0x70060
/-- ROUTE.QUAR_DROP [63:0] RO (R307). -/
def F.ROUTE_QUAR_DROP : Fld := ⟨R.ROUTE_QUAR_DROP, 0, 64⟩
/-- Address of ROUTE.MALFORMED (R485). -/
def R.ROUTE_MALFORMED : Nat := 0x70068
/-- ROUTE.MALFORMED [63:0] RO (R307). -/
def F.ROUTE_MALFORMED : Fld := ⟨R.ROUTE_MALFORMED, 0, 64⟩
/-- Address of ROUTE.CUT_PKTS (R485). -/
def R.ROUTE_CUT_PKTS : Nat := 0x70070
/-- ROUTE.CUT_PKTS [63:0] RO (R307). -/
def F.ROUTE_CUT_PKTS : Fld := ⟨R.ROUTE_CUT_PKTS, 0, 64⟩
/-- Address of ROUTE.LOCAL_DROP (R485). -/
def R.ROUTE_LOCAL_DROP : Nat := 0x70078
/-- ROUTE.LOCAL_DROP [63:0] RO (R307). -/
def F.ROUTE_LOCAL_DROP : Fld := ⟨R.ROUTE_LOCAL_DROP, 0, 64⟩
/-- Address of ROUTE.INJ0 (R485). -/
def R.ROUTE_INJ0 : Nat := 0x70080
/-- ROUTE.INJ0 [63:0] RO (R307). -/
def F.ROUTE_INJ0 : Fld := ⟨R.ROUTE_INJ0, 0, 64⟩
/-- Address of ROUTE.INJ1 (R485). -/
def R.ROUTE_INJ1 : Nat := 0x70088
/-- ROUTE.INJ1 [63:0] RO (R307). -/
def F.ROUTE_INJ1 : Fld := ⟨R.ROUTE_INJ1, 0, 64⟩
/-- Address of ROUTE.CONS0 (R485). -/
def R.ROUTE_CONS0 : Nat := 0x70090
/-- ROUTE.CONS0 [63:0] RO (R307). -/
def F.ROUTE_CONS0 : Fld := ⟨R.ROUTE_CONS0, 0, 64⟩
/-- Address of ROUTE.CONS1 (R485). -/
def R.ROUTE_CONS1 : Nat := 0x70098
/-- ROUTE.CONS1 [63:0] RO (R307). -/
def F.ROUTE_CONS1 : Fld := ⟨R.ROUTE_CONS1, 0, 64⟩
/-- Address of ROUTE.PORTATTR0 (R485). -/
def R.ROUTE_PORTATTR0 : Nat := 0x700a0
/-- Address of ROUTE.PORTATTR1 (R485). -/
def R.ROUTE_PORTATTR1 : Nat := 0x700a8
/-- Address of ROUTE.PLAN (R485). -/
def R.ROUTE_PLAN (n : Nat) : Nat := 0x70100 + 0x8 * n
/-- ROUTE.PLAN.EXPECT_ID [13:0] RW (R307). -/
def F.ROUTE_PLAN_EXPECT_ID (n : Nat) : Fld := ⟨R.ROUTE_PLAN n, 0, 14⟩
/-- ROUTE.PLAN.EXPECT_PORT [19:16] RW (R307). -/
def F.ROUTE_PLAN_EXPECT_PORT (n : Nat) : Fld := ⟨R.ROUTE_PLAN n, 16, 4⟩
/-- ROUTE.PLAN.USE [21:20] RW (R307). -/
def F.ROUTE_PLAN_USE (n : Nat) : Fld := ⟨R.ROUTE_PLAN n, 20, 2⟩
/-- Address of ROUTE.NBR (R485). -/
def R.ROUTE_NBR (n : Nat) : Nat := 0x70180 + 0x8 * n
/-- ROUTE.NBR.PEER_ID [13:0] RO (R307). -/
def F.ROUTE_NBR_PEER_ID (n : Nat) : Fld := ⟨R.ROUTE_NBR n, 0, 14⟩
/-- ROUTE.NBR.PEER_ASSIGNED [14:14] RO (R307). -/
def F.ROUTE_NBR_PEER_ASSIGNED (n : Nat) : Fld := ⟨R.ROUTE_NBR n, 14, 1⟩
/-- ROUTE.NBR.PEER_PORT [19:16] RO (R307). -/
def F.ROUTE_NBR_PEER_PORT (n : Nat) : Fld := ⟨R.ROUTE_NBR n, 16, 4⟩
/-- ROUTE.NBR.STATE [23:20] RO (R307). -/
def F.ROUTE_NBR_STATE (n : Nat) : Fld := ⟨R.ROUTE_NBR n, 20, 4⟩
/-- ROUTE.NBR.PEER_EPOCH [24:24] RO (R307). -/
def F.ROUTE_NBR_PEER_EPOCH (n : Nat) : Fld := ⟨R.ROUTE_NBR n, 24, 1⟩
/-- Address of ROUTE.CREDIT_STALL (R485). -/
def R.ROUTE_CREDIT_STALL (n : Nat) : Nat := 0x70200 + 0x8 * n
/-- ROUTE.CREDIT_STALL [63:0] RO (R307). -/
def F.ROUTE_CREDIT_STALL (n : Nat) : Fld := ⟨R.ROUTE_CREDIT_STALL n, 0, 64⟩
/-- Address of ROUTE.TBL0 (R485). -/
def R.ROUTE_TBL0 (i : Nat) : Nat := 0x74000 + 0x8 * i
/-- Address of ROUTE.TBL1 (R485). -/
def R.ROUTE_TBL1 (i : Nat) : Nat := 0x78000 + 0x8 * i
/-- Address of HIF.LINK (R485). -/
def R.HIF_LINK : Nat := 0x80000
/-- HIF.LINK.MODE [2:0] RO (R402). -/
def F.HIF_LINK_MODE : Fld := ⟨R.HIF_LINK, 0, 3⟩
/-- HIF.LINK.WIDTH [7:3] RO (R402). -/
def F.HIF_LINK_WIDTH : Fld := ⟨R.HIF_LINK, 3, 5⟩
/-- Address of HIF.MEMERR (R485). -/
def R.HIF_MEMERR : Nat := 0x80008
/-- HIF.MEMERR.ADDR [47:0] RO (R402). -/
def F.HIF_MEMERR_ADDR : Fld := ⟨R.HIF_MEMERR, 0, 48⟩
/-- HIF.MEMERR.VALID [63:63] W1C (R402). -/
def F.HIF_MEMERR_VALID : Fld := ⟨R.HIF_MEMERR, 63, 1⟩
/-- Address of HIF.ERR_VEC (R485). -/
def R.HIF_ERR_VEC : Nat := 0x80010
/-- HIF.ERR_VEC.VEC [10:0] RW (R402). -/
def F.HIF_ERR_VEC_VEC : Fld := ⟨R.HIF_ERR_VEC, 0, 11⟩
/-- Address of HIF.DM_ARB (R485). -/
def R.HIF_DM_ARB : Nat := 0x80018
/-- HIF.DM_ARB.AGE_US [15:0] RW (R402). -/
def F.HIF_DM_ARB_AGE_US : Fld := ⟨R.HIF_DM_ARB, 0, 16⟩
/-- HIF.DM_ARB.BURST_LOG2 [19:16] RW (R402). -/
def F.HIF_DM_ARB_BURST_LOG2 : Fld := ⟨R.HIF_DM_ARB, 16, 4⟩
/-- Address of HIF.DB_SNOOPS (R485). -/
def R.HIF_DB_SNOOPS : Nat := 0x80020
/-- HIF.DB_SNOOPS [63:0] RO (R402). -/
def F.HIF_DB_SNOOPS : Fld := ⟨R.HIF_DB_SNOOPS, 0, 64⟩
/-- Address of HIF.DB_SPURIOUS (R485). -/
def R.HIF_DB_SPURIOUS : Nat := 0x80028
/-- HIF.DB_SPURIOUS [63:0] RO (R402). -/
def F.HIF_DB_SPURIOUS : Fld := ⟨R.HIF_DB_SPURIOUS, 0, 64⟩
/-- Address of HIF.WIN_RD_HELD (R485). -/
def R.HIF_WIN_RD_HELD : Nat := 0x80030
/-- HIF.WIN_RD_HELD [63:0] RO (R402). -/
def F.HIF_WIN_RD_HELD : Fld := ⟨R.HIF_WIN_RD_HELD, 0, 64⟩
/-- Address of HIF.WIN_WR_DROP (R485). -/
def R.HIF_WIN_WR_DROP : Nat := 0x80038
/-- HIF.WIN_WR_DROP [63:0] RO (R402). -/
def F.HIF_WIN_WR_DROP : Fld := ⟨R.HIF_WIN_WR_DROP, 0, 64⟩
/-- Address of HIF.LINK_DOWN (R485). -/
def R.HIF_LINK_DOWN : Nat := 0x80040
/-- HIF.LINK_DOWN [63:0] RO (R402). -/
def F.HIF_LINK_DOWN : Fld := ⟨R.HIF_LINK_DOWN, 0, 64⟩
/-- Address of HIF.DB (R485). -/
def R.HIF_DB (n : Nat) : Nat := 0x80800 + 0x8 * n
/-- HIF.DB.PROD [31:0] WO (R402). -/
def F.HIF_DB_PROD (n : Nat) : Fld := ⟨R.HIF_DB n, 0, 32⟩
/-- HIF.DB.RING [33:32] WO (R402). -/
def F.HIF_DB_RING (n : Nat) : Fld := ⟨R.HIF_DB n, 32, 2⟩
/-- Address of CTX.CFG (R485). -/
def R.CTX_CFG (n : Nat) : Nat := 0x100000 + 0x400 * n
/-- CTX.CFG.FENEX_REV [1:0] RW (R400). -/
def F.CTX_CFG_FENEX_REV (n : Nat) : Fld := ⟨R.CTX_CFG n, 0, 2⟩
/-- CTX.CFG.PRIO [3:2] RW (R400). -/
def F.CTX_CFG_PRIO (n : Nat) : Fld := ⟨R.CTX_CFG n, 2, 2⟩
/-- CTX.CFG.QUANTUM [23:8] RW (R400). -/
def F.CTX_CFG_QUANTUM (n : Nat) : Fld := ⟨R.CTX_CFG n, 8, 16⟩
/-- CTX.CFG.TMO_DEFAULT [28:24] RW (R400). -/
def F.CTX_CFG_TMO_DEFAULT (n : Nat) : Fld := ⟨R.CTX_CFG n, 24, 5⟩
/-- CTX.CFG.INFLIGHT_MAX [47:32] RW (R400). -/
def F.CTX_CFG_INFLIGHT_MAX (n : Nat) : Fld := ⟨R.CTX_CFG n, 32, 16⟩
/-- CTX.CFG.DM_CHAN [53:48] RW (R400). -/
def F.CTX_CFG_DM_CHAN (n : Nat) : Fld := ⟨R.CTX_CFG n, 48, 6⟩
/-- Address of CTX.TT_BASE (R485). -/
def R.CTX_TT_BASE (n : Nat) : Nat := 0x100008 + 0x400 * n
/-- CTX.TT_BASE [63:0] RW (R400). -/
def F.CTX_TT_BASE (n : Nat) : Fld := ⟨R.CTX_TT_BASE n, 0, 64⟩
/-- Address of CTX.TT_COUNT (R485). -/
def R.CTX_TT_COUNT (n : Nat) : Nat := 0x100010 + 0x400 * n
/-- CTX.TT_COUNT.COUNT [15:0] RW (R400). -/
def F.CTX_TT_COUNT_COUNT (n : Nat) : Fld := ⟨R.CTX_TT_COUNT n, 0, 16⟩
/-- Address of CTX.DB_ADDR (R485). -/
def R.CTX_DB_ADDR (n : Nat) : Nat := 0x100018 + 0x400 * n
/-- CTX.DB_ADDR [63:0] RW (R400). -/
def F.CTX_DB_ADDR (n : Nat) : Fld := ⟨R.CTX_DB_ADDR n, 0, 64⟩
/-- Address of CTX.RING.BASE (R485). -/
def R.CTX_RING_BASE (n : Nat) (r : Nat) : Nat := 0x100020 + 0x400 * n + 0x10 * r
/-- CTX.RING.BASE [63:0] RW (R400). -/
def F.CTX_RING_BASE (n : Nat) (r : Nat) : Fld := ⟨R.CTX_RING_BASE n r, 0, 64⟩
/-- Address of CTX.RING.CTL (R485). -/
def R.CTX_RING_CTL (n : Nat) (r : Nat) : Nat := 0x100028 + 0x400 * n + 0x10 * r
/-- CTX.RING.CTL.LOG2 [4:0] RW (R400). -/
def F.CTX_RING_CTL_LOG2 (n : Nat) (r : Nat) : Fld := ⟨R.CTX_RING_CTL n r, 0, 5⟩
/-- CTX.RING.CTL.ENABLE [8:8] RW (R400). -/
def F.CTX_RING_CTL_ENABLE (n : Nat) (r : Nat) : Fld := ⟨R.CTX_RING_CTL n r, 8, 1⟩
/-- CTX.RING.CTL.BUSY [9:9] RO (R400). -/
def F.CTX_RING_CTL_BUSY (n : Nat) (r : Nat) : Fld := ⟨R.CTX_RING_CTL n r, 9, 1⟩
/-- CTX.RING.CTL.CONS [63:32] RO (R400). -/
def F.CTX_RING_CTL_CONS (n : Nat) (r : Nat) : Fld := ⟨R.CTX_RING_CTL n r, 32, 32⟩
/-- Address of CTX.INT (R485). -/
def R.CTX_INT (n : Nat) : Nat := 0x100060 + 0x400 * n
/-- CTX.INT.VEC [10:0] RW (R400). -/
def F.CTX_INT_VEC (n : Nat) : Fld := ⟨R.CTX_INT n, 0, 11⟩
/-- CTX.INT.HOLDOFF_US [27:12] RW (R400). -/
def F.CTX_INT_HOLDOFF_US (n : Nat) : Fld := ⟨R.CTX_INT n, 12, 16⟩
/-- CTX.INT.MASK [31:31] RW (R400). -/
def F.CTX_INT_MASK (n : Nat) : Fld := ⟨R.CTX_INT n, 31, 1⟩
/-- Address of CTX.ERR (R485). -/
def R.CTX_ERR (n : Nat) : Nat := 0x100068 + 0x400 * n
/-- CTX.ERR.DB_BACK [0:0] W1C (R400). -/
def F.CTX_ERR_DB_BACK (n : Nat) : Fld := ⟨R.CTX_ERR n, 0, 1⟩
/-- CTX.ERR.OVERRUN [1:1] W1C (R400). -/
def F.CTX_ERR_OVERRUN (n : Nat) : Fld := ⟨R.CTX_ERR n, 1, 1⟩
/-- Address of CTX.OWN_GAP (R485). -/
def R.CTX_OWN_GAP (n : Nat) : Nat := 0x100070 + 0x400 * n
/-- CTX.OWN_GAP [63:0] RO (R400). -/
def F.CTX_OWN_GAP (n : Nat) : Fld := ⟨R.CTX_OWN_GAP n, 0, 64⟩
/-- Address of CTX.NOTICE_LOST (R485). -/
def R.CTX_NOTICE_LOST (n : Nat) : Nat := 0x100078 + 0x400 * n
/-- CTX.NOTICE_LOST [63:0] RO (R400). -/
def F.CTX_NOTICE_LOST (n : Nat) : Fld := ⟨R.CTX_NOTICE_LOST n, 0, 64⟩
/-- Address of CTX.WAIT (R485). -/
def R.CTX_WAIT (n : Nat) : Nat := 0x100080 + 0x400 * n
/-- CTX.WAIT.MODE [1:0] RW (R340). -/
def F.CTX_WAIT_MODE (n : Nat) : Fld := ⟨R.CTX_WAIT n, 0, 2⟩
/-- CTX.WAIT.MB_AHEAD [5:2] RW (R340). -/
def F.CTX_WAIT_MB_AHEAD (n : Nat) : Fld := ⟨R.CTX_WAIT n, 2, 4⟩
/-- Address of DM.CTL (R485). -/
def R.DM_CTL (n : Nat) : Nat := 0x110000 + 0x100 * n
/-- DM.CTL.RESUME [0:0] WO (R401). -/
def F.DM_CTL_RESUME (n : Nat) : Fld := ⟨R.DM_CTL n, 0, 1⟩
/-- DM.CTL.ABORT [1:1] WO (R401). -/
def F.DM_CTL_ABORT (n : Nat) : Fld := ⟨R.DM_CTL n, 1, 1⟩
/-- Address of DM.STAT (R485). -/
def R.DM_STAT (n : Nat) : Nat := 0x110008 + 0x100 * n
/-- DM.STAT.HALTED [0:0] RO (R401). -/
def F.DM_STAT_HALTED (n : Nat) : Fld := ⟨R.DM_STAT n, 0, 1⟩
/-- DM.STAT.HALT_ERR [1:1] W1C (R401). -/
def F.DM_STAT_HALT_ERR (n : Nat) : Fld := ⟨R.DM_STAT n, 1, 1⟩
/-- DM.STAT.ERR_DIR [2:2] RO (R401). -/
def F.DM_STAT_ERR_DIR (n : Nat) : Fld := ⟨R.DM_STAT n, 2, 1⟩
/-- DM.STAT.ERR_KIND [5:3] RO (R401). -/
def F.DM_STAT_ERR_KIND (n : Nat) : Fld := ⟨R.DM_STAT n, 3, 3⟩
/-- DM.STAT.FAILED_SEEN [6:6] W1C (R401). -/
def F.DM_STAT_FAILED_SEEN (n : Nat) : Fld := ⟨R.DM_STAT n, 6, 1⟩
/-- Address of DM.ERR_HADDR (R485). -/
def R.DM_ERR_HADDR (n : Nat) : Nat := 0x110010 + 0x100 * n
/-- DM.ERR_HADDR [63:0] RO (R401). -/
def F.DM_ERR_HADDR (n : Nat) : Fld := ⟨R.DM_ERR_HADDR n, 0, 64⟩
/-- Address of DM.ERR_DADDR (R485). -/
def R.DM_ERR_DADDR (n : Nat) : Nat := 0x110018 + 0x100 * n
/-- DM.ERR_DADDR.ADDR [47:0] RO (R401). -/
def F.DM_ERR_DADDR_ADDR (n : Nat) : Fld := ⟨R.DM_ERR_DADDR n, 0, 48⟩
/-- Address of DM.VEC (R485). -/
def R.DM_VEC (n : Nat) : Nat := 0x110020 + 0x100 * n
/-- DM.VEC.VEC [10:0] RW (R401). -/
def F.DM_VEC_VEC (n : Nat) : Fld := ⟨R.DM_VEC n, 0, 11⟩
/-- Address of DM.TARGET (R485). -/
def R.DM_TARGET (n : Nat) : Nat := 0x110028 + 0x100 * n
/-- DM.TARGET.COUNT [31:0] RW (R401). -/
def F.DM_TARGET_COUNT (n : Nat) : Fld := ⟨R.DM_TARGET n, 0, 32⟩
/-- Address of DM.DONE (R485). -/
def R.DM_DONE (n : Nat) : Nat := 0x110030 + 0x100 * n
/-- DM.DONE.COUNT [31:0] RO (R401). -/
def F.DM_DONE_COUNT (n : Nat) : Fld := ⟨R.DM_DONE n, 0, 32⟩
/-- Address of DM.BYTES (R485). -/
def R.DM_BYTES (n : Nat) : Nat := 0x110038 + 0x100 * n
/-- DM.BYTES [63:0] RO (R401). -/
def F.DM_BYTES (n : Nat) : Fld := ⟨R.DM_BYTES n, 0, 64⟩

/-- The operating-point table at reset (R406): ROOT, VCORE, SPRINT, FALLBACK, STEAM of entry `k`. -/
def oppReset (k : Nat) : Nat :=
  let enc (root vcore sprint fallback steam : Nat) : Nat :=
    root + vcore * 2 ^ 8 + sprint * 2 ^ 20 + steam * 2 ^ 21 + fallback * 2 ^ 22
  if k = 0 then enc 96 620 0 0 0
  else if k < 8 then enc 152 780 0 k 1
  else if k = 8 then enc 96 620 0 8 0
  else if k < 12 then enc 176 860 1 (k - 8) 1
  else enc 152 780 0 k 1

/-- The RATE fields of the sixteen HBM regulators at reset (R218). -/
def hbmRateReset : List Nat :=
  [2400, 1400, 128, 2048, 64, 1536, 1024, 768, 192, 192, 96, 160, 32, 16, 2048, 16]

/-- HBM.REGk at reset (R218): RATE by the table, DEPTH 16, MODE 0, COMPUTE 1 for k = 5, 6, 11 and 12. -/
def hbmRegReset (k : Nat) : Nat :=
  hbmRateReset.getD k 0 + 16 * 2 ^ 12
    + (if k = 5 ∨ k = 6 ∨ k = 11 ∨ k = 12 then 2 ^ 21 else 0)

/-- What the register at `a` holds at reset of its block (R483). Addresses that no table names hold 0, except the MSI-X
table, whose vector-control word starts masked (PRESUMED, log 3: the PCI Express layout). -/
def regReset (a : Nat) : Word :=
  if 0x11000 ≤ a ∧ a < 0x11080 then BitVec.ofNat 64 (oppReset ((a - 0x11000) / 8))
  else if 0x50000 ≤ a ∧ a < 0x50080 then BitVec.ofNat 64 (hbmRegReset ((a - 0x50000) / 8))
  else if 0xF00000 ≤ a ∧ a < 0xF08000 then (if a % 16 = 8 then 0x100000000#64 else 0#64)
  else
    match regRow? a with
    | none => 0#64
    | some r =>
      if 0x100000 ≤ a ∧ a < 0x110000 ∧ a % 0x400 = 0 then
        BitVec.ofNat 64 (r.reset + (a - 0x100000) / 0x400 * 2 ^ 48)
      else BitVec.ofNat 64 r.reset

end Sys2Proof.Machine
end

