-- ==== Sys2Proof/Machine/State.lean ====
section
/-!
DEFINITION. The state of the Axvon block, as plain data: the register file, the memories, the rings and descriptors in
flight, the live steps and their votes, the streams, ports, clocks, resets and the management side, and the queue of
waiting commands. Every numbered group is a sparse map in canonical form (`SMap`).
-/
namespace Sys2Proof.Machine

/-- Why the machine stops with a fault. No rule of the spec stops the block, and no meaning of this model raises one. -/
inductive Fault where
  /-- Raised by nothing; a closed type needs a constructor. Safe: no step answers it. -/
  | unreachable
  deriving DecidableEq, Repr

/-- Why a command has no meaning. -/
inductive Refusal where
  /-- Raised by an arm of `exec` for a command that is not modelled yet, and by nothing else. Safe: the machine stops. -/
  | notModelled (mnemonic : String)
  deriving DecidableEq, Repr

/-- A cell of a packet on a virtual channel (R260, R281): which cell of the packet, counted from the head cell. -/
structure Cell where
  vc : Nat
  pkt : Packet
  idx : Nat
  deriving DecidableEq, Repr

/-- What leaves the device, in the order it leaves. The log is the model's own record of the outside. -/
inductive OutMsg where
  /-- A packet this device injects into its router (R280). -/
  | pkt (p : Packet)
  /-- A DATA block sent on a lane of a port: its number, which is not sent, and its symbols (R259 to R261). -/
  | block (port lane num : Nat) (symbols : List Nat)
  /-- A MARK block: its symbols (R259, R271). -/
  | mark (port : Nat) (symbols : List Nat)
  /-- A TRAIN block on a lane of a port: its symbols (R263). -/
  | train (port lane : Nat) (symbols : List Nat)
  /-- An MSI-X message of a vector (R398). -/
  | msix (vec : Nat)
  /-- Data of a completed read of the device memory window (R371). -/
  | windowData (addr : Nat) (bytes : List Byte)
  /-- The failed-read response of R375: Completer Abort in the PCIe modes, all ones in the CXL modes. -/
  | windowFail (addr : Nat) (cxl : Bool)
  /-- An Unsupported Request completion (R371). -/
  | windowUr (addr : Nat)
  /-- A doorbell line taken again by RdShared (R386). -/
  | rdShared (addr : Nat)
  /-- A burst issued on the host link: channel, offset, length, its level (R392), towards the host or from it. -/
  | burst (chan off len level : Nat) (toHost : Bool)
  /-- Bytes answered on the management bus. -/
  | mgmt (bytes : List Byte)
  /-- An in-band interrupt with its status byte (R456). -/
  | ibi (status : Nat)
  /-- A frame on the voltage-regulator bus (R502). -/
  | vrc (frame : Nat)
  /-- An SPDM response (R472). -/
  | spdm (bytes : List Byte)
  /-- What the JTAG pins do (R473): the instruction and the value shifted out or driven. -/
  | jtag (instr value : Nat)
  /-- THERMTRIP_N, driven low or released (R422). -/
  | thermtrip (low : Bool)
  deriving DecidableEq, Repr

/-- One slot-ring of a context at run time: the last accepted producer count, the consumer count, and whether fetching
stopped at a slot whose OWN was clear (R379). -/
structure RingRt where
  prod : Nat
  cons : Nat
  gap : Bool
  /-- Micro-batches ended so far by fetched descriptors that carry MB_END (R327). -/
  mb : Nat
  deriving DecidableEq, Repr

/-- A notice waiting for a slot: its eight words (R93, R94). -/
structure Notice where
  words : List Word
  deriving DecidableEq, Repr

/-- A context at run time: the notice sequence number, held notices, and the interrupt hold-off (R93, R399). -/
structure CtxRt where
  seq : Nat
  held : List Notice
  holdoff : Bool
  pendInt : Bool
  deriving DecidableEq, Repr

/-- Where a descriptor stands. -/
inductive Run where
  | fetched | running | finished
  deriving DecidableEq, Repr

/-- A tile job (R133): pass, row band, column block, partition and segment; whether it is issued and drained; the engine
that has it; the accumulators after its last drained segment, in row-major order. -/
structure TileJob where
  pass : Nat
  band : Nat
  col : Nat
  part : Nat
  seg : Nat
  issued : Bool
  drained : Bool
  bay : Nat
  me : Nat
  quad : Nat
  /-- Its place among the tile jobs issued: one more than that of the last job given while others still drained (R138). -/
  order : Nat
  deriving DecidableEq, Repr

/-- The accumulators of one partition of one tile between segments, and after the last one its partial (R144, R147).
`none` marks an element that depends on an uncorrectable word. -/
structure TileAcc where
  band : Nat
  col : Nat
  part : Nat
  vals : List (Option FV)
  deriving DecidableEq, Repr

/-- How a GEMM is split (R146): slices of N and column blocks in each, slices of M and row bands in each, segments and
contraction indices of each segment in one partition. -/
structure Split where
  ns : Nat
  nb : Nat
  ms : Nat
  mb : Nat
  segs : Nat
  len : Nat
  deriving DecidableEq, Repr

/-- The run of a MATRIX descriptor: its split as it was fixed when it started, its tile jobs, and what they have left. -/
structure MatrixRun where
  split : Split
  jobs : List TileJob
  accs : List TileAcc
  passes : Nat
  allocated : Nat
  reserved : List (Nat × Nat)
  maskRead : List (Nat × List Bool)
  rowMax : List (Nat × Nat × List (Option FV))
  folded : List Nat
  deriving DecidableEq, Repr

/-- The run of a MOVE descriptor: the next offset to issue, the bursts outstanding as (offset, length), and those that have aged. -/
structure MoverRun where
  next : Nat
  outst : List (Nat × Nat)
  aged : List Nat
  stopped : Bool
  /-- The offset of the first word that could not be corrected: the copy writes nothing from there on (R237). -/
  badAt : Option Nat
  /-- The outstanding bursts that the host link has begun to serve (R392). -/
  sent : List Nat
  /-- Bursts to be issued again before the next: the one that failed, and those whose data a halt discarded (R394, R395). -/
  redo : List (Nat × Nat)
  deriving DecidableEq, Repr

/-- One direction of one axis of a collective (R310, R316): what is still to be sent and the bytes sent, whether the
neighbour's READY has come and the units its GRANT reports; what has come in and is not yet consumed, the bytes received,
the bytes consumed and the units reported. Bytes to send and bytes not yet used stand in
parts, each with its place in the transfer. -/
structure Stream where
  axis : Nat
  dirn : Nat
  out : List (Nat × List Byte)
  sent : Nat
  ready : Bool
  units : Nat
  inb : List (Nat × List Byte)
  got : Nat
  eaten : Nat
  told : Nat
  deriving DecidableEq, Repr

/-- A piece of a collective (R313): the stage in progress and the hops done in each direction, the vector that entered the stage,
the finished halves of this device's shard, the contributions held, by coordinate and direction, and the bytes to be gathered. -/
structure CollPart where
  stage : Nat
  hops : Nat × Nat
  vec : List FV
  halves : List FV × List FV
  parts : List (Nat × Nat × List Byte)
  own : List Byte
  deriving DecidableEq, Repr

/-- The run of a COLL descriptor: its streams; its pieces, where each begins among its elements or blocks, and its place and length
in the staging region (R313); for BROADCAST whether its data is here; the bytes read or received, and parts received by position.
For SEND and RECV: the capacity announced, and the bytes and last byte position received. -/
structure CollRun where
  streams : List Stream
  stage : Nat
  pieces : List CollPart
  stageAt : Nat
  stageLen : Nat
  parts : List (Nat × Nat × List Byte)
  own : List Byte
  cap : Option Nat
  recvd : Nat
  elem : Nat
  total : Nat
  deriving DecidableEq, Repr

/-- A packet in the output queue of a virtual channel: how many of its cells have been sent (R288, R294) and how many are here,
and the input port and channel that hold them, none where this device injected it. -/
structure VcEntry where
  pkt : Packet
  sent : Nat
  got : Nat
  inp : Option (Nat × Nat)
  deriving DecidableEq, Repr

/-- What becomes of the cells of an arriving packet: they go on in the output queue of a port and channel, their places in the
receive buffer are freed as they come (the packet is consumed or dropped), or they keep them until as many of this device's own
discards as the sender's recorded fences (R317), or until this device consumes the packet of a Seam stream (R351). -/
inductive CellsTo where
  | queue (port vc : Nat)
  | gone
  | kept (after : Nat)
  | seam
  deriving DecidableEq, Repr

/-- A packet that is arriving on an input channel, whose tail cell has not come: its cells so far, and what becomes of them
(R294, R300). -/
structure Arriving where
  pkt : Packet
  came : Nat
  dest : CellsTo
  deriving DecidableEq, Repr

/-- A virtual channel of a port (R287 to R289): the output queue, the cells outstanding at the receiver, the cumulative
count last credited; and on the receive side the cells freed, the count last reported, and the packet that is arriving. -/
structure VcRt where
  queue : List VcEntry
  outst : Nat
  credited : Nat
  freed : Nat
  reported : Nat
  arr : Option Arriving
  deriving DecidableEq, Repr

/-- A port at run time (R261 to R273). Sending: the next block number, the retry buffer, cells that wait without need of credit,
resends in succession and the block they start from, and BOBBIN packets for cell position 0 (R332). Receiving: the next number to
accept, the number of the next block to come, whether blocks are dropped until a MARK, the number of the block that failed, the NAK
that its next outgoing block carries, and the times in ns at which blocks of each lane could not be decoded (R268). Training: the
set-up word in force, the nonce, the lanes heard, what the peer announced, the lanes good here, and the generation. Narrowing: the
lanes bad in ACTIVE, whether it runs, and whether the port was in MATCH when it began and has not been classified since (R269). Then
whether the port has been declared dead since it was last ACTIVE (R273), whether the peer's DISCOVER has come, the class the
round-robin of R290 serves and the cells left of its weight, the samples of R276 by lane as (AON time in ns, bias in hundredths of a
mA, laser input), and the AON time of each lane's last notice. -/
structure PortRt where
  txNext : Nat
  retry : List (Nat × List Cell)
  waitQ : List Cell
  resendAt : Nat
  resends : Nat
  bobQ : List Packet
  rxNext : Nat
  rxPos : Nat
  dropping : Bool
  failAt : Nat
  nakDue : Option Nat
  uncorr : List (Nat × List Nat)
  cfg : Nat
  nonce : Nat
  seen : Nat
  peerGens : Nat
  peerGood : Nat
  good : Nat
  gen : Nat
  bad : Nat
  narrowing : Bool
  rejoin : Bool
  deadSaid : Bool
  discovered : Bool
  arbClass : Nat
  arbLeft : Nat
  samples : List (Nat × List (Nat × Nat × Nat))
  warned : List (Nat × Nat)
  deriving DecidableEq, Repr

/-- The drain rounds of a DRAINING table (R298): whether a round runs, the axis in progress, the running total, the values
received on the axis, and values that arrived early, by round, axis and value. -/
structure DrainRounds where
  running : Bool
  round : Nat
  axis : Nat
  total : Nat
  got : Nat
  early : List (Nat × Nat × Nat)
  since : Nat
  deriving DecidableEq, Repr

/-- A descriptor in flight (R88, R379): the ring and the free-running count of its slot, its words as fetched, the step it
belongs to, its progress, and the causes of the failures it has met (R515). -/
structure Desc where
  ctx : Nat
  ring : Nat
  cnt : Nat
  words : List Word
  step : Option Nat
  run : Run
  fails : List Nat
  result : Nat
  start : Nat
  idx : Nat
  /-- A BARRIER fetched at least 2 microseconds before its release time (R336). -/
  armed : Bool
  /-- The micro-batch it belongs to, counted along its ring (R327). -/
  mb : Nat
  /-- The counts of the BWD_W descriptors that it passed when it started (R69, R72). -/
  passed : List Nat
  /-- It started ahead of a descriptor of an older micro-batch (R328). -/
  ahead : Bool
  /-- Its wait for the Seam send of an earlier step has been counted (R45). -/
  waited : Bool
  /-- It started on unclean inputs (R26). -/
  unclean : Bool
  /-- The status and cause with which it retires without having run, once its turn comes (R391). -/
  refused : Option (Nat × Nat)
  mx : MatrixRun
  dm : MoverRun
  coll : CollRun
  deriving DecidableEq, Repr

/-- An operating point as it was selected (R406, R408): the entry and its contents then. -/
structure OppSel where
  entry : Nat
  word : Word
  deriving DecidableEq, Repr

/-- A matrix engine (R153, R419): whether it runs Steam ops, and which of its quads are clock-gated, bit `q` for quad `q`. -/
structure EngRt where
  steam : Bool
  gated : Nat
  deriving DecidableEq, Repr

/-- The states of a live step (R19). -/
inductive StepSt where
  | opened | closing | voting | unresolved | hemming | discarding | stopped
  deriving DecidableEq, Repr

/-- A vote cell held or running, in numbers (R33). -/
structure Vote where
  sev : Nat
  firstId : Nat
  cause : Nat
  deriving DecidableEq, Repr

/-- A live step (R17, R21): what STEP_OPEN recorded, its own severity so far, and its vote. -/
structure StepRec where
  num : Nat
  epoch : Nat
  replay : Bool
  budget : Nat
  cursor0 : Word
  cursor1 : Word
  key : Nat
  st : StepSt
  sev : Nat
  cause : Nat
  forced : Bool
  vote : Vote
  /-- The axis in reduction; 4 when every axis is complete. -/
  axis : Nat
  /-- Cells received, per axis and direction: key `2 * axis + dir`. -/
  got : List (Nat × Nat)
  /-- Cells held before the device's own contribution (R34). -/
  early : List (Nat × Vote)
  sealed : Bool
  groupRecs : List (List Word)
  /-- Write slots of the compressed COLL descriptors, in ring order (R324, R349): the count of the descriptor, image offset and
  length. -/
  efbOffs : List (Nat × Nat × Nat)
  mark : List (Nat × Nat)
  keepBytes : Nat
  keepOver : Bool
  /-- The producer counts of the collective and data-mover rings when STEP_CLOSE was accepted. -/
  closeProd : List (Nat × Nat)
  openedAt : Nat
  contribAt : Nat
  busyAt : Option Nat
  busyNs : Nat
  sendNs : Nat
  recvNs : Nat
  /-- The largest Bobbin lag per axis (R337, R338). -/
  lags : List Nat
  /-- The neighbour with the largest lag, and that lag. -/
  late : Option (Nat × Nat)
  locked : Bool
  /-- `idleNs` when the step was opened (R337). -/
  idle0 : Nat
  /-- Byte ranges that a computation of the step whose checks did not end clean has written, or one that read such a range
  (R26, R284). -/
  taint : List (Nat × Nat)
  /-- The counts of the OPT_BIND descriptors of the step that have retired, the refused ones too (R344). -/
  binds : List Nat
  deriving DecidableEq, Repr

/-- The own update at a hem point (R41, R51): the step with its records, the first block not recorded as written, whether it
has begun and whether the Seam send has left, when HEM was recorded, and since when it waits for a press copy or a FILL (R359,
R520). -/
structure UpdateRec where
  step : Nat
  epoch : Nat
  records : List (List Word)
  efb : List (Nat × Nat)
  progress : Nat
  begun : Bool
  sent : Bool
  press : Bool
  cursor0 : Word
  cursor1 : Word
  key : Nat
  hemAt : Nat
  waitFrom : Option Nat
  deriving DecidableEq, Repr

/-- A kept input (R25): host block (slot count and byte offset of the descriptor) or pipeline packet, where it lies in the
keep buffer, and its marks. -/
structure Kept where
  step : Nat
  pipe : Bool
  tag : Nat
  dirn : Nat
  src : Nat
  off : Nat
  addr : Nat
  len : Nat
  verified : Bool
  absent : Bool
  elem : Nat
  total : Nat
  /-- It was recorded in an earlier run of its step, so a VERIFY that comes now is not for it (R25). -/
  old : Bool
  deriving DecidableEq, Repr

/-- A VERIFY held until the kept packets it names are present (R284). -/
structure HeldVerify where
  step : Nat
  tag : Nat
  dirn : Nat
  src : Nat
  bytes : Nat
  deriving DecidableEq, Repr

/-- A READY or GRANT held until its descriptor starts (R316, R325). -/
structure Ready where
  kind : Nat
  p2p : Bool
  dirn : Nat
  axis : Nat
  tag : Nat
  src : Nat
  stag : Nat
  sentAt : Nat
  value : Nat
  deriving DecidableEq, Repr

/-- A SEND along Z whose VERIFY has not been sent (R284). -/
structure SentSend where
  ctx : Nat
  cnt : Nat
  step : Nat
  dirn : Nat
  tag : Nat
  bytes : Nat
  deriving DecidableEq, Repr

/-- A packet of the step context that waits behind a neighbour's fence until this device has discarded (R317), as it came:
axis and direction of travel, whether its cells failed the check after the port, and for a P2P packet the element bytes and
the total of its SEND; and the discards still to come before it is taken. -/
structure Waiting where
  axis : Nat
  plus : Bool
  bad : Bool
  elem : Nat
  total : Nat
  pkt : Packet
  after : Nat
  deriving DecidableEq, Repr

/-- Cells of packets that wait behind a fence (R317): their port and channel, their number, the discards still to come, and of a head
cell the epoch bit under which the packet will be counted as consumed. -/
structure HeldCells where
  port : Nat
  vc : Nat
  cells : Nat
  after : Nat
  bit : Option (BitVec 1)
  deriving DecidableEq, Repr

/-- Cells that a packet of a Seam stream, not consumed yet, holds in the receive buffer (R351): their port and channel, their number,
and the packet's epoch bit. -/
structure SeamCells where
  port : Nat
  vc : Nat
  cells : Nat
  epoch : BitVec 1
  deriving DecidableEq, Repr

/-- A step tag of a fence received from a neighbour (R317): packets of the class before the fence are dropped. -/
structure FenceWait where
  src : Nat
  tclass : Nat
  deriving DecidableEq, Repr

/-- The Seam stream a holder receives (R350, R351). -/
structure SeamRx where
  step : Nat
  epoch : Nat
  groups : Nat
  recs : List (List Word)
  bytes : Nat
  efb : Nat
  got : Nat
  ended : Bool
  dropping : Bool
  deriving DecidableEq, Repr

/-- An outgoing image transfer (R352): kind 1 FILL, 2 LOAD, 3 SLOT; whether it waits for an own update (R520). -/
structure Xfer where
  kind : Nat
  slot : Nat
  relay : Option Nat
  waiting : Bool
  step : Nat
  recs : List (List Word)
  deriving DecidableEq, Repr

/-- An incoming image transfer (R352). `kind` 1 fills the mirror, 2 and 3 load own state; `total` and `efb` are the image size and
the error-feedback bytes of BEGIN, `got` the image bytes written, `sum` the total of END, and `chunks` what a SLOT transfer has brought,
by position (R365). -/
structure LoadRx where
  kind : Nat
  src : Nat
  step : Nat
  epoch : Nat
  groups : Nat
  recs : List (List Word)
  total : Nat
  efb : Nat
  got : Nat
  ended : Bool
  sum : Nat
  chunks : List (Nat × List Byte)
  deriving DecidableEq, Repr

/-- A press copy (R359): the step it holds and what is recorded with it, whether it runs, and whether its error-feedback part is
copied. -/
structure Press where
  step : Nat
  epoch : Nat
  cursor0 : Word
  cursor1 : Word
  key : Nat
  groups : List (List Word)
  hemAt : Nat
  running : Bool
  efb : Bool
  deriving DecidableEq, Repr

/-- A drain (R361): the destinations not abandoned, with for the partner 1 once it has acknowledged every byte and for the host the slot
chosen; whether reading has begun; and the digest of what was read. -/
structure Drain where
  partner : Option Nat
  hostSlot : Option Nat
  begun : Bool
  digest : List Byte
  deriving DecidableEq, Repr

/-- The checkpoint slot a holder receives in CKPT packets: the slot, the bytes got and the step of the stream. -/
structure CkptRx where
  slot : Nat
  got : Nat
  step : Nat
  deriving DecidableEq, Repr

/-- A restore (R364 to R366): the slot accepted, its commit record, whether the partner's records have been asked for. -/
structure Restore where
  asked : Bool
  accepted : Option Nat
  running : Bool
  records : List (Nat × List Word)
  deriving DecidableEq, Repr

/-- The domains that a power switch or a reset acts on (R425, R433); AON is always powered. -/
inductive Domain where
  | cmp | mem | rtr | hif
  deriving DecidableEq, Repr

/-- A Lint item's last clean start on a unit, by unit path code and item (R247), and whether the CMP domain has not been reset since
(R248, R445). -/
structure LintRec where
  unit : Nat
  item : Nat
  kind : Nat
  step : Option Nat
  cur : Bool
  deriving DecidableEq, Repr

/-- A unit lent to Lint and the item it runs (R241): the step live when the run began, whether the item is of the pack in force
(R253), the matrix engine that is taken with it, keyed as `eng` (R242), since when in ns of AON time, and for an item of the pack
before, the first step opened since that pack's own beginning (R248). -/
structure Lent where
  unit : Nat
  kind : Nat
  item : Nat
  step : Option Nat
  newPack : Bool
  eng : Option Nat
  since : Nat
  first : Option Nat
  deriving DecidableEq, Repr

/-- The last start of an item on a unit, in ns of AON time, and whether a miss of its deadline has been counted since (R244). -/
structure LintStart where
  unit : Nat
  kind : Nat
  item : Nat
  start : Nat
  late : Bool
  deriving DecidableEq, Repr

/-- A side-memory directory record of a row engine (R181). -/
structure SideRec where
  bay : Nat
  ctx : Nat
  stag : Nat
  op : Nat
  inp : Nat
  stats : Nat
  slot : Nat
  rows : Nat
  len : Nat
  par : Nat
  causal : Nat
  offset : Nat
  step : Option Nat
  deriving DecidableEq, Repr

/-- The Bobbin servo (R330 to R333): the trim of the rate word in units of 2⁻⁴⁰ ns per tick, the sequence number of the last
request and whether its answer is awaited, the last eight exchanges as twice their offset and twice their delay in units of
1/256 ns, and the successive exchanges within 10 ns. -/
structure BobRt where
  trim : Int
  seq : Nat
  waiting : Bool
  last : List (Int × Int)
  good : Nat
  deriving DecidableEq, Repr

/-- A reset, a start-up or the fence of a power-down in progress (R439, R443, R444): its kind (0 none, 1 CMP, 2 MEM, 3 HIF, 4 FULL,
5 cold start, 6 wake, 7 the fence of PARKED, 8 of Folded, 9 of a thermal trip); a fence is being drained; the phase of the
cold-start sequence that runs (0 none); the milliseconds of the phases done; and whether RST.STAT.PHASE has reached 7 since the last
cold start, FULL reset or wake (R479). -/
structure RstRt where
  kind : Nat
  fencing : Bool
  phase : Nat
  ms : Nat
  ready : Bool
  deriving DecidableEq, Repr

/-- A bring-up table that runs (R437): 1 POWER, 2 HBM, 3 PORT, 4 HOST; its stack or port; the next entry. A PORT or HOST table
that has failed stays, with entry 65,536 (R441). -/
structure TableRun where
  table : Nat
  unit : Nat
  entry : Nat
  deriving DecidableEq, Repr

/-- The management target (R454 to R457): the dynamic addresses of its two targets, whether in-band interrupts are enabled,
and the response held: RESULT and data. -/
structure MgmtRt where
  staDyn : Option Nat
  cmdDyn : Option Nat
  ibi : Bool
  result : Nat
  data : List Byte
  deriving DecidableEq, Repr

/-- A land under test (R462): the class of the last test and how many successive tests gave it. -/
structure LandRt where
  cls : Nat
  count : Nat
  deriving DecidableEq, Repr

/-- The owner record in force (R466): its generation, policy and owner modulus; all zero bytes or none mean no owner. -/
structure OwnerRt where
  gen : Nat
  policy : Nat
  key : List Byte
  deriving DecidableEq, Repr

/-- The SPDM responder (R472): whether algorithms are negotiated, the version byte in use, the messages of version,
capabilities and algorithms, those of the certificate exchange, and those of measurements not yet signed, in order. -/
structure SpdmRt where
  ready : Bool
  ver : Nat
  vca : List Byte
  certs : List Byte
  meas : List Byte
  deriving DecidableEq, Repr

/-- The TAP (R473): the instruction that is loaded, by the model's own number, and the boundary register. -/
structure JtagRt where
  instr : Nat
  bsr : List Bool
  deriving DecidableEq, Repr

/-- A line of the cache (R192): its HBM address in units of 512 bytes, whether it is dirty, and while it is dirty what HBM
holds beneath it, bytes and syndromes. The line's own contents are those of device memory as every agent sees it. -/
structure CacheLine where
  line : Nat
  dirty : Bool
  under : List Host.Cell
  underSyn : List (Nat × Nat)
  deriving DecidableEq, Repr

/-- A traffic-generator run (R227, R228) as it stood when it was started: DIR, PATTERN, ORDER, SEED, the bytes of each channel
it covers, and its channels by stack and number. -/
structure TgRun where
  dir : Nat
  pattern : Nat
  order : Nat
  seed : Nat
  span : Nat
  chans : List (Nat × Nat)
  deriving DecidableEq, Repr

/-- A copy that prefetch has staged (R202, R203): the count of its descriptor, its bytes, and the byte ranges it holds. -/
structure Staged where
  cnt : Nat
  bytes : Nat
  runs : List (Nat × Nat)
  deriving DecidableEq, Repr

/-- What notices say of a hemmed step (R94): its number, job epoch and data cursor. -/
structure HemRec where
  num : Nat
  epoch : Nat
  cursor0 : Word
  cursor1 : Word
  deriving DecidableEq, Repr

set_option maxRecDepth 4096

/-- The machine's state. -/
structure State where
  /-- The commands that wait, first in, first out. -/
  pending : List Instr
  /-- The set-up registers by BAR0 byte address (R476, R485); unlisted registers hold their reset value. Shadowed fields hold their
  shadow here (R492). -/
  regs : List (Nat × Word)
  /-- The values in force of registers with shadowed fields (R492). -/
  force : List (Nat × Word)
  /-- Device memory by device address (R188): HBM and the ADDRESSED shared-store partitions, the bits as stored. Unlisted bytes read 0. -/
  mem : List Host.Cell
  /-- The Tack syndrome of stored words that are not clean, by word address (R230, R231). Unlisted words are clean. -/
  syn : List (Nat × Nat)
  /-- Host memory by host address, as the host link reaches it; what the host writes there is placed from outside (DESIGN
  CHOICE, log 111). Unlisted bytes read 0. -/
  host : List Host.Cell
  /-- Bobbin time: 64 integer bits of nanoseconds and 40 fractional bits (R330). -/
  bob : Nat
  /-- The model's own counter of free values drawn; no state of the device. -/
  free : Nat
  /-- What has left the device, oldest first; the model's own record. -/
  out : List OutMsg
  /-- Rings at run time, key context * 4 + ring. -/
  rings : List (Nat × RingRt)
  /-- Contexts at run time. -/
  ctxs : List (Nat × CtxRt)
  /-- Counters, key context * 512 + bank * 256 + counter (R67). -/
  ctrs : List (Nat × Nat)
  /-- Descriptors in flight, in fetch order. -/
  inflight : List Desc
  /-- Write-backs, notices and timing records that wait for the host link (R396). -/
  wbWait : List (Nat × List Byte)
  /-- The context that holds the compute units (R100). -/
  holder : Option Nat
  /-- Bobbin time at which it took them. -/
  heldSince : Nat
  /-- The count of the last retired MB_END descriptor of the holder, while no later compute descriptor has started (R100). -/
  mbWait : Option Nat
  /-- The live steps (R17), oldest first. -/
  steps : List StepRec
  /-- The stopped steps still shown in STEPSTAT after they are no longer live (R19, R490). -/
  stoppedShown : List Nat
  /-- The steps last discarded or stopped, and not since hemmed (R22, R49). -/
  lastDisc : List Nat
  /-- The own updates due or in progress, oldest first (R41, R42). -/
  upds : List UpdateRec
  /-- Reads of the state window are held (R41 step 2). -/
  winHold : Bool
  /-- Held reads of the state window: address and length. -/
  heldReads : List (Nat × Nat)
  /-- The own update stopped on an uncorrectable word; no later verdict is contributed (R238). -/
  ownBad : Bool
  /-- The kept inputs (R25). -/
  kept : List Kept
  /-- Held VERIFY packets (R284). -/
  verifies : List HeldVerify
  /-- Held READY announcements (R316, R325). -/
  readys : List Ready
  /-- The group table of the last hemmed step (R344, R345). -/
  groups : List (List Word)
  /-- Whether SEAM.OSTAT.MC_STEP holds a step for which MIRROR_CURRENT is recorded (R41, R356). -/
  mcValid : Bool
  /-- The steps whose Seam send is not yet acknowledged (R41). -/
  seamTx : List Nat
  /-- The Seam stream being received (R350). -/
  seamRx : Option SeamRx
  /-- SEAM packets that wait for this device's outcome (R351), with their source. -/
  seamWait : List (Nat × StreamPkt)
  /-- The outgoing image transfer (R352). -/
  xfer : Option Xfer
  /-- The incoming image transfer (R352). -/
  loadRx : Option LoadRx
  /-- The press copy held or being taken (R359). -/
  press : Option Press
  /-- SEAM.CKPT_CTL.NOW was written since the last press copy (R358). -/
  ckptNow : Bool
  /-- Bobbin time of the last HEM (R358). -/
  ckptLast : Nat
  /-- The drain in progress (R361). -/
  drain : Option Drain
  /-- The checkpoint stream being written into the HOLD region (R360). -/
  ckptRx : Option CkptRx
  /-- The restore in progress (R364). -/
  restore : Restore
  /-- Corrections per unit path code in the current second (R235). -/
  ceCount : List (Nat × Nat)
  /-- The side-memory directories (R181), oldest first. -/
  side : List SideRec
  /-- Side-memory entries, key bay * 32768 + entry (R180). -/
  sideMem : List (Nat × Word)
  /-- Partition configurations committed and not yet in force, by partition (R191). -/
  partPend : List (Nat × Word)
  /-- Prefetched copies (R202). -/
  pushed : List Staged
  /-- Units lent to Lint (R241). -/
  lent : List Lent
  /-- The records of R247 for the pack in force. -/
  lintRecs : List LintRec
  /-- The records under the previous pack that still govern a unit (R253). -/
  lintOld : List LintRec
  /-- The first step opened since CMP left reset or the pack was installed (R248). -/
  lintFirst : Option Nat
  /-- The installed Lint pack. -/
  lintPack : List Byte
  /-- A pack being loaded and checked (R252). -/
  lintNew : Option (List Byte)
  /-- Units whose next sweep stands at the head of the rotation (R246). -/
  lintHead : List Nat
  /-- A traffic-generator run is in progress (R227). -/
  tgBusy : Bool
  /-- Consecutive failed readings per stack sensor (R223). -/
  sensorMiss : List (Nat × Nat)
  /-- A thermal trip whose fence waits for the Seam send (R225). -/
  tripPend : Bool
  /-- The RTR domain is powered and out of reset (R433). -/
  rtrUp : Bool
  /-- The HIF domain is powered and out of reset (R433). -/
  hifUp : Bool
  /-- The MEM domain is powered, out of reset and not fenced (R433, R443). -/
  memUp : Bool
  /-- The CMP domain is powered, out of reset and not fenced (R433, R443). -/
  cmpUp : Bool
  /-- Fences still awaited after a discard: neighbour and class (R317). -/
  fenceNeed : List (Nat × Nat)
  /-- Fences that arrived before this device's own discard (R317). -/
  fenceGot : List (Nat × Nat)
  /-- SEQ of the next step timing record (R337). -/
  reportSeq : Nat
  /-- The outcomes recorded, newest first: step, job epoch, and 1 HEM or 2 FAIL (R35, R38). -/
  outcomes : List (Nat × Nat × Nat)
  /-- The group table of the mirror held here (R344, R352). -/
  mirrorGroups : List (List Word)
  /-- The ports at run time, by port number. -/
  ports : List (Nat × PortRt)
  /-- The virtual channels of every port, key port * 8 + channel. -/
  vcs : List (Nat × VcRt)
  /-- Packets held at injection while a table drains (R297). -/
  injHeld : List Packet
  /-- The drain rounds (R298). -/
  drains : DrainRounds
  /-- The number of the next DATA block of the bond (R347). -/
  bondSeq : Nat
  /-- COLL descriptors fetched so far, key context, or 64 + step tag on the step context (R315). -/
  collIdx : List (Nat × Nat)
  /-- SEND descriptors along Z whose VERIFY has not been sent (R284). -/
  sends : List SentSend
  /-- Packets that wait behind a neighbour's fence until this device has discarded (R317). -/
  fenceQ : List Waiting
  /-- The matrix engines between tile jobs, key bay * 8 + engine; unlisted engines are clock-gated. -/
  eng : List (Nat × EngRt)
  /-- Bobbin time from which start waves count (R155, R420). -/
  waveT : Nat
  /-- Start waves of an announced release whose engines still hold their first beat (R155). -/
  waveHeld : List Nat
  /-- Start waves in which clock-gated engines have still to restart (R420). -/
  waveDue : List Nat
  /-- The device is in Folded (R425). -/
  folded : Bool
  /-- The core set-point last sent, in mV (R410). -/
  vcore : Nat
  /-- What the entry in force held when it was selected (R406). -/
  oppWord : Word
  /-- The entry the ramp in progress moves to (R410). -/
  oppTarget : Option OppSel
  /-- The entry of a change that waits: for droop to end (R412), or for the ramp that ends a sprint (R418). -/
  oppNext : Option OppSel
  /-- The fallback entry of the sprint that is granted and not yet over (R416 to R418). -/
  sprint : Option OppSel
  /-- The regulator settles before the first step (R410). -/
  rampWait : Bool
  /-- A ramp that does not pause in droop (R412). -/
  rampHard : Bool
  /-- A droop detector reads low (R411). -/
  droopLow : Bool
  /-- CORECLK is stretched (R411). -/
  stretched : Bool
  /-- No detector has read low within the last QUIET_US (R412). -/
  quiet : Bool
  /-- AON time in ns at which sprint time began (R416). -/
  sprintOn : Option Nat
  /-- The sprint wear record: end of a sprint in ms of AON time, and its ms (R416). -/
  sprintLog : List (Nat × Nat)
  /-- The selection whose sprint was refused or has ended, and which has not changed since (R417). -/
  sprintRefused : Option Nat
  /-- AON time in ns of the last SPRINT_REFUSED notice (R417). -/
  sprintNotice : Option Nat
  /-- The cut of the CMP allowance in per cent (R422). -/
  cmpCut : Nat
  /-- Readings in succession that a junction sensor has failed (R422). -/
  tjMiss : List (Nat × Nat)
  /-- Energy not yet counted in ENERGY_MJ, in microjoules (R432). -/
  energyUj : Nat
  /-- The stacks are in self-refresh (R224, R424, R425). -/
  selfRefresh : Bool
  /-- The reset or start-up in progress (R439, R444). -/
  rst : RstRt
  /-- AON time since AON power good: 40 fractional bits of a nanosecond, as Bobbin time has (R450). -/
  aon : Nat
  /-- AON time in ms of the last counted resets, newest first, at most 15 (R450). -/
  rstTimes : List Nat
  /-- The SPI NOR flash by offset (R435). Unlisted bytes read 0xFF, as an erased sector does (R460). -/
  flash : List Host.Cell
  /-- The strap pair BOOT_SEL as last sampled (R436). -/
  bootSel : Nat
  /-- The strap MBUS_I3C (R454). -/
  i3c : Bool
  /-- The straps MADDR[2:0] (R454). -/
  maddr : Nat
  /-- The bring-up tables that run (R437, R438). -/
  tables : List TableRun
  /-- RAILS_OK is asserted (R503). -/
  rails : Bool
  /-- THERMTRIP_N is driven low (R422, R424). -/
  tripLow : Bool
  /-- The management target (R454 to R457). -/
  mgmt : MgmtRt
  /-- The lands under test: 0 COOLANT_OK, 1 MAINT_PRESENT_N, 2 the seal loop, 3 THERMTRIP_N (R462, R463). -/
  lands : List (Nat × LandRt)
  /-- Presence commands completed since AON power good: ROTATE_OWNER, TEST_ENABLE, CLEAR_OOS, ERASE_HELPER (R472). -/
  presCounts : List Nat
  /-- The owner record in force (R466). -/
  owner : OwnerRt
  /-- The seed reconstructed from the PUF in the last cold start, if it could be (R470, R471). -/
  pufSeed : Option Nat
  /-- The SPDM responder (R472). -/
  spdm : SpdmRt
  /-- The TAP (R473). -/
  jtag : JtagRt
  /-- Items of the installed pack that a unit has run: unit, kind, item (R253). -/
  lintRan : List (Nat × Nat × Nat)
  /-- The Bobbin servo (R330 to R333). -/
  servo : BobRt
  /-- The CMP allowance last formed, in W (R413). -/
  cmpAllow : Nat
  /-- The CMP allowance when THROTTLE was entered, in W (R422). -/
  cmpEntry : Nat
  /-- The lines of the cache, the least recently used first (R192). -/
  cache : List CacheLine
  /-- Requests that have reached the shared store since SSTORE.XBAR_WAIT was last 0: each may have waited (R201). -/
  xbarReqs : Nat
  /-- Requests that have reached the HBM controllers since HBM.QFULL was last 0: each may have met a full queue (R211). -/
  qfullReqs : Nat
  /-- The word of HBM that the patrol scrubber reads next (R217). -/
  scrubAt : Nat
  /-- The traffic-generator run in progress (R227). -/
  tgRun : Option TgRun
  /-- Syndromes of side-memory entries that are not clean, keyed as the entries are (R180, R232). -/
  sideSyn : List (Nat × Nat)
  /-- Copies in bay SRAM and operand buffers that are not clean: the store's path code, the address of the word copied, in
  words, and the syndrome (R198, R232). -/
  copySyn : List (Nat × Nat × Nat)
  /-- Bobbin time from which reads of the state window have been held (R41, R46). -/
  holdSince : Nat
  /-- The steps hemmed, newest first, as notices name them (R94). -/
  hemRecs : List HemRec
  /-- The bay that took a tile job last (R150). -/
  lastBay : Nat
  /-- Since when the step context has held the compute units with no eligible compute descriptor (R337). -/
  idleAt : Option Nat
  /-- The ns of such holding that have ended (R337). -/
  idleNs : Nat
  /-- Cycles of Steam ops that each quad has run, key `4 * (bay * 8 + engine) + quad`: how far its pattern generators have stepped
  (R153). -/
  steamRun : List (Nat × Nat)
  /-- The item of its kind that a unit runs next (R242); unlisted units stand at the first. -/
  lintAt : List (Nat × Nat)
  /-- The unit of each kind that began a sweep last, in its turn (R242). -/
  lintTurn : List (Nat × Nat)
  /-- The ns for which units of each kind have been lent (R243). -/
  lintUsed : List (Nat × Nat)
  /-- AON time in ns from which shares and deadlines count: when CMP left reset or the pack was installed (R243, R244). -/
  lintSince : Nat
  /-- The last start of each item on each unit (R244). -/
  lintStart : List LintStart
  /-- Cells that packets waiting in `fenceQ` hold in the receive buffer (R317). -/
  fenceHeld : List HeldCells
  /-- Cells that packets of Seam streams, not consumed yet, hold in the receive buffer, in order of arrival (R351). -/
  seamHeld : List SeamCells
  /-- The error-feedback bytes of the mirror held, from the BEGIN of the FILL that made it (R348, R352). -/
  mirrorEfb : Nat
  /-- The ring that had the last fetch turn, context * 3 + ring (R384). -/
  fetchAt : Nat
  /-- AON time in ns since when droop has paused a ramp or deferred a change (R412). -/
  deferSince : Nat
  /-- AON time in ns up to which CAP_LIMITED_US has been counted (R414). -/
  capSince : Nat
  /-- The domains at whose edges the isolation clamps are engaged (R426). -/
  clamps : List Domain
  /-- The contexts whose doorbell line the device holds in Shared state (R386). -/
  dbHeld : List Nat
  /-- The channel whose burst the host link served last (R392). -/
  linkAt : Nat
  /-- The number of the next DATA block of the bond to be taken (R347). -/
  bondRx : Nat
  /-- The incoming FILL of the mirror (R352). -/
  fillRx : Option LoadRx
  /-- How many requests to the shared store had come before those that SSTORE.XBAR_WAIT counts (R201, R205). -/
  xbarFrom : Nat
  /-- How many requests to HBM had come before those that HBM.QFULL counts (R211, R229). -/
  qfullFrom : Nat
  /-- What bring-up tables have written to PHY-internal addresses (R438), by the number of `phyKey`. -/
  phy : List (Nat × Nat)
  /-- The level of the straps BOOT_SEL as they stand (R436). -/
  bootPins : Nat
  /-- The set-up defaults of the image in use, as they were read in phase 3 (R369, R413, R435). -/
  defaults : List Byte
  /-- The last cold start, FULL reset or wake has reached phase 7 (R455). -/
  upOnce : Bool
  /-- Since when, in ns of AON time, COOLANT_OK has held without a break (R428). -/
  coolantSince : Option Nat
  deriving DecidableEq, Repr

/-- The machine right after reset: power has been applied and no start-up phase has run. Registers are at the Reset column
(R483); what the spec gives no value for is named in the assumption log (DESIGN CHOICE, log 100). -/
def State.reset : State :=
  { pending := []
    regs := []
    force := []
    mem := []
    syn := []
    host := []
    bob := 0
    free := 0
    out := []
    rings := []
    ctxs := []
    ctrs := []
    inflight := []
    wbWait := []
    holder := none
    heldSince := 0
    mbWait := none
    steps := []
    stoppedShown := []
    lastDisc := []
    upds := []
    winHold := false
    heldReads := []
    ownBad := false
    kept := []
    verifies := []
    readys := []
    groups := []
    mcValid := false
    seamTx := []
    seamRx := none
    seamWait := []
    xfer := none
    loadRx := none
    press := none
    ckptNow := false
    ckptLast := 0
    drain := none
    ckptRx := none
    restore := ⟨false, none, false, []⟩
    ceCount := []
    side := []
    sideMem := []
    partPend := []
    pushed := []
    lent := []
    lintRecs := []
    lintOld := []
    lintFirst := none
    lintPack := []
    lintNew := none
    lintHead := []
    tgBusy := false
    sensorMiss := []
    tripPend := false
    rtrUp := false
    hifUp := false
    memUp := false
    cmpUp := false
    fenceNeed := []
    fenceGot := []
    reportSeq := 0
    outcomes := []
    mirrorGroups := []
    ports := []
    vcs := []
    injHeld := []
    drains := ⟨false, 0, 0, 0, 0, [], 0⟩
    bondSeq := 0
    collIdx := []
    sends := []
    fenceQ := []
    eng := []
    waveT := 0
    waveHeld := []
    waveDue := []
    folded := false
    vcore := 0
    oppWord := regReset (R.OPP_ENT 0)
    oppTarget := none
    oppNext := none
    sprint := none
    rampWait := false
    rampHard := false
    droopLow := false
    stretched := false
    quiet := true
    sprintOn := none
    sprintLog := []
    sprintRefused := none
    sprintNotice := none
    cmpCut := 0
    tjMiss := []
    energyUj := 0
    selfRefresh := true
    rst := ⟨0, false, 0, 0, false⟩
    aon := 0
    rstTimes := []
    flash := []
    bootSel := 0
    i3c := false
    maddr := 0
    tables := []
    rails := false
    tripLow := false
    mgmt := ⟨none, none, false, 0, []⟩
    lands := []
    presCounts := [0, 0, 0, 0]
    owner := ⟨0, 0, []⟩
    pufSeed := none
    spdm := ⟨false, 0, [], [], []⟩
    jtag := ⟨0, []⟩
    lintRan := []
    servo := ⟨0, 0, false, [], 0⟩
    cmpAllow := 0
    cmpEntry := 0
    cache := []
    xbarReqs := 0
    qfullReqs := 0
    scrubAt := 0
    tgRun := none
    sideSyn := []
    copySyn := []
    holdSince := 0
    hemRecs := []
    lastBay := 19
    idleAt := none
    idleNs := 0
    steamRun := []
    lintAt := []
    lintTurn := []
    lintUsed := []
    lintSince := 0
    lintStart := []
    fenceHeld := []
    seamHeld := []
    mirrorEfb := 0
    fetchAt := 191
    deferSince := 0
    capSince := 0
    clamps := [.cmp, .mem, .rtr, .hif]
    dbHeld := []
    linkAt := 63
    bondRx := 0
    fillRx := none
    xbarFrom := 0
    qfullFrom := 0
    phy := []
    bootPins := 0
    defaults := []
    upOnce := false
    coolantSince := none }

end Sys2Proof.Machine
end

