-- ==== Sys2Proof/Machine/Tack.lean ====
section
/-!
DEFINITION. The Tack code (R230, R231), the HBM interleave (R208), unit path codes (R239) and the CRC codes.
-/
namespace Sys2Proof.Machine

/-- The columns of data bits 0 to 55: the 8-bit values with exactly three bits set, in increasing order (R230). -/
def tackLow : List Nat := (List.range 256).filter (fun v =>
  (List.range 8).foldl (fun a i => a + v >>> i % 2) 0 == 3)

/-- The columns of data bits 56 to 63 (R230). -/
def tackHigh : List Nat := [0x1F, 0x2F, 0x37, 0x3B, 0x3D, 0x3E, 0x4F, 0x57]

/-- The 64 columns h(0) to h(63), written out (R230); `tackLow ++ tackHigh` is the rule's own description. -/
def tackCols : List Nat :=
  [0x07, 0x0B, 0x0D, 0x0E, 0x13, 0x15, 0x16, 0x19, 0x1A, 0x1C, 0x23, 0x25, 0x26, 0x29, 0x2A, 0x2C,
   0x31, 0x32, 0x34, 0x38, 0x43, 0x45, 0x46, 0x49, 0x4A, 0x4C, 0x51, 0x52, 0x54, 0x58, 0x61, 0x62,
   0x64, 0x68, 0x70, 0x83, 0x85, 0x86, 0x89, 0x8A, 0x8C, 0x91, 0x92, 0x94, 0x98, 0xA1, 0xA2, 0xA4,
   0xA8, 0xB0, 0xC1, 0xC2, 0xC4, 0xC8, 0xD0, 0xE0] ++ tackHigh

/-- The XOR of the columns of the set bits of `d`, bit 0 first. -/
def tackXor : List Nat → Nat → Nat
  | [], _ => 0
  | h :: hs, d => (if d % 2 = 1 then h else 0) ^^^ tackXor hs (d / 2)

/-- The stored check byte of a 64-bit word (R230). -/
def tackCheck (d : Nat) : Nat := tackXor tackCols d ^^^ 0xFF

/-- The syndrome of a word read with a check byte (R231). -/
def tackSyndrome (d chk : Nat) : Nat := chk ^^^ tackCheck d

/-- What a syndrome says of the word (R231). -/
inductive TackClass where
  | clean
  | dataBit (i : Nat)
  | checkBit
  | uncorrectable
  deriving DecidableEq, Repr

/-- Classification of a syndrome (R231). -/
def tackClassify (syn : Nat) : TackClass :=
  if syn = 0 then .clean
  else if tackCols.idxOf syn < 64 then .dataBit (tackCols.idxOf syn)
  else if [1, 2, 4, 8, 16, 32, 64, 128].contains syn then .checkBit
  else .uncorrectable

/-- The stack and channel of an HBM address (R208): `c[2:0]` and `c[7:3]`. -/
def hbmStackChannel (a : Nat) : Nat × Nat :=
  let g := a >>> 11
  let c := bitsOf g 0 8 ^^^ bitsOf g 8 8 ^^^ bitsOf g 16 8
  (c % 8, c / 8)

/-- The bank, row and byte of an HBM address within its channel (R208). -/
def hbmBankRowByte (a : Nat) : Nat × Nat × Nat :=
  let l := a >>> 19
  (l % 64, l / 64, a % 2048)

/-- The device address of a local channel address (R208 read backwards). -/
def hbmAddrOf (stack channel loc : Nat) : Nat :=
  let l := loc / 2048
  let c := stack + 8 * channel
  let g0 := c ^^^ bitsOf l 0 8 ^^^ bitsOf l 8 8
  (l * 256 + g0) * 2048 + loc % 2048

/-- Path code of a matrix engine's quad (R158, R239). -/
def pathMatrix (bay me quad : Nat) : Nat := 0x1000 + bay * 128 + me * 16 + quad * 4
/-- Path code of a row engine (R239). -/
def pathRow (bay : Nat) : Nat := 0x2000 + bay * 128
/-- Path code of an elementwise unit (R239). -/
def pathElem (bay : Nat) : Nat := 0x3000 + bay * 128
/-- Path code of a bay sequencer (R239). -/
def pathSeq (bay : Nat) : Nat := 0x4000 + bay * 128
/-- Path code of a collective engine (R239). -/
def pathColl (ce : Nat) : Nat := 0x5000 + ce * 1024
/-- Path code of an operand buffer (R239). -/
def pathOpBuf (bay me : Nat) : Nat := 0x6000 + bay * 128 + me * 16
/-- Path code of a bay SRAM (R239). -/
def pathBaySram (bay : Nat) : Nat := 0x7000 + bay * 128
/-- Path code of a row engine's side memory (R239). -/
def pathSide (bay : Nat) : Nat := 0x9000 + bay * 128
/-- Path code of a Ubvor port (R239). -/
def pathPort (p : Nat) : Nat := 0xB000 + p * 256
/-- Path code of the host interface (R239). -/
def pathHost : Nat := 0xC000
/-- Path code of a data-mover channel (R239, R394). -/
def pathMover (n : Nat) : Nat := 0xD000 + 64 * n
/-- Path code of the device sequencer (R239, R240). -/
def pathDevice : Nat := 0xE000

/-- The path code of the store that holds a device address: HBM by stack and channel, the shared store by partition and
bank (R200, R239). -/
def pathOfAddr (a : Nat) : Nat :=
  if a < 0xF00000000000 then
    let sc := hbmStackChannel a
    0xA000 + sc.1 * 512 + sc.2 * 16
  else 0x8000 + (a - 0xF00000000000) / 0x1000000 * 256 + a / 256 % 8 * 32

/-- One bit of a CRC register of `w` bits, most significant bit first. -/
def crcBit (w poly crc bit : Nat) : Nat :=
  let top := crc / 2 ^ (w - 1) % 2
  let sh := crc * 2 % 2 ^ w
  if top = bit then sh else sh ^^^ poly

/-- The CRC of a byte string, most significant bit of each byte first. -/
def crcBytes (w poly : Nat) : Nat → List Byte → Nat
  | crc, [] => crc
  | crc, b :: bs =>
    crcBytes w poly ([7, 6, 5, 4, 3, 2, 1, 0].foldl (fun c i => crcBit w poly c (b.toNat / 2 ^ i % 2)) crc) bs

/-- CRC-64 with the ECMA-182 polynomial, initial value 0, no reflection, no final XOR (R241, R362; PRESUMED, log 21:
the parameters of ECMA-182, since the rules name the polynomial alone). -/
def crc64 (bs : List Byte) : Nat := crcBytes 64 0x42F0E1EBA9EA3693 0 bs

/-- The SMBus packet error code: CRC-8, polynomial x^8 + x^2 + x + 1, initial value 0 (R457; PRESUMED, log 21). -/
def crc8 (bs : List Byte) : Nat := crcBytes 8 0x07 0 bs

end Sys2Proof.Machine
end

