-- ==== Sys2Proof/Machine/Ops.lean ====
section
/-!
DEFINITION. The named operations over registers, memories, rings and descriptors that every meaning is built from.
-/
namespace Sys2Proof.Machine

/-! ### Registers (R476 to R478, R492) -/

/-- The stored value of the register at a BAR0 byte address; of a shadowed field, its shadow (R492). -/
def rdReg (s : State) (a : Nat) : Word := smGet regReset s.regs a

/-- The value in force of the register at an address whose fields are shadowed (R492). -/
def inForce (s : State) (a : Nat) : Word := smGet regReset s.force a

/-- A field of a register. -/
def rf (s : State) (f : Fld) : Nat := bitsOf (rdReg s f.reg).toNat f.lo f.w

/-- A shadowed field's value in force. -/
def ff (s : State) (f : Fld) : Nat := bitsOf (inForce s f.reg).toNat f.lo f.w

/-- A field of the contents of a register. -/
def fldOf (w : Word) (f : Fld) : Nat := bitsOf w.toNat f.lo f.w

/-- The register at `a` set to `v`. -/
def putReg (a : Nat) (v : Word) (s : State) : State := { s with regs := smSet regReset s.regs a v }

/-- The value in force at `a` set to `v`. -/
def putForce (a : Nat) (v : Word) (s : State) : State := { s with force := smSet regReset s.force a v }

/-- A field of a register set by the device. -/
def put (f : Fld) (x : Nat) (s : State) : State :=
  putReg f.reg (BitVec.ofNat 64 (withBits (rdReg s f.reg).toNat f.lo f.w x)) s

/-- A counter field raised by `n`; it wraps at its width. -/
def bump (f : Fld) (n : Nat) (s : State) : State := put f (rf s f + n) s

/-- Bobbin time in nanoseconds (R330). -/
def nowNs (s : State) : Nat := s.bob / 2 ^ 40 % 2 ^ 64

/-- A message leaves the device. -/
def emit (m : OutMsg) (s : State) : State := { s with out := s.out ++ [m] }

/-- A free value is drawn: the present one, and the counter moves on. -/
def drawFree (s : State) : Nat × State := (Config.freeValue s.free, { s with free := s.free + 1 })

/-! ### The set-up-space error flag (R487) -/

/-- The requester of a set-up access (R486): host, bring-up table or management command. -/
inductive Source where
  | host | bringUp | mgmt
  deriving DecidableEq, Repr

/-- The SRC code of a requester (R486). -/
def srcCode : Source → Nat
  | .host => 0 | .bringUp => 1 | .mgmt => 2

/-- An error in set-up space: counted, and latched when FLAG is 0 (R487). -/
def setupError (cause : Nat) (src : Source) (addr : Nat) (s : State) : State :=
  let s := bump F.SETUP_ERR_COUNT 1 s
  if rf s F.SETUP_ERR_FLAG = 1 then s
  else put F.SETUP_ERR_FLAG 1 (put F.SETUP_ERR_CAUSE cause
    (put F.SETUP_ERR_SRC (srcCode src) (put F.SETUP_ERR_ADDR addr s)))

/-- A refused write (R479, R487: cause REFUSED). -/
def setupRefused (src : Source) (addr : Nat) (s : State) : State := setupError 4 src addr s

/-- A write whose own rule refuses it leaves its register as it was (R479): `t` is what the write of the register and its rule made of `s`. -/
def unlessRefused (addr : Nat) (s t : State) : State :=
  if rf t F.SETUP_ERR_COUNT = rf s F.SETUP_ERR_COUNT then t else putReg addr (rdReg s addr) t

/-! ### Memories -/

/-- What an unlisted byte of memory reads as: 0, with valid Tack (DESIGN CHOICE, log 2). -/
def memDefault : Nat → Byte := fun _ => 0

/-- The canonical form of a memory: addresses rise strictly, and no entry equals what an unlisted address reads as. -/
def Memory.wf (m : List Host.Cell) : Bool := smWf memDefault m

/-- One stored byte of device memory. -/
def memGet (s : State) (a : Nat) : Byte := smGet memDefault s.mem a

/-- One byte of device memory set. -/
def memPut (a : Nat) (b : Byte) (s : State) : State := { s with mem := smSet memDefault s.mem a b }

/-- `n` bytes of device memory, lowest address first. -/
def memRead (s : State) (a : Nat) : Nat → List Byte
  | 0 => []
  | n + 1 => memGet s a :: memRead s (a + 1) n

/-- A run of bytes written to device memory, without any regard to Tack. -/
def memWrite (a : Nat) : List Byte → State → State
  | [], s => s
  | b :: bs, s => memWrite (a + 1) bs (memPut a b s)

/-- A little-endian number of `n` bytes of device memory. -/
def memNat (s : State) (a n : Nat) : Nat := leNat (memRead s a n)

/-- One byte of host memory. -/
def hostGet (s : State) (a : Nat) : Byte := smGet memDefault s.host (a % 2 ^ 64)

/-- One byte of host memory set. -/
def hostPut (a : Nat) (b : Byte) (s : State) : State :=
  { s with host := smSet memDefault s.host (a % 2 ^ 64) b }

/-- `n` bytes of host memory. -/
def hostRead (s : State) (a : Nat) : Nat → List Byte
  | 0 => []
  | n + 1 => hostGet s a :: hostRead s (a + 1) n

/-- A run of bytes written to host memory. -/
def hostPoke (a : Nat) : List Byte → State → State
  | [], s => s
  | b :: bs, s => hostPoke (a + 1) bs (hostPut a b s)

/-- One little-endian word of host memory. -/
def hostWord (s : State) (a : Nat) : Word := BitVec.ofNat 64 (leNat (hostRead s a 8))

/-- `n` words of host memory. -/
def hostWords (s : State) (a : Nat) : Nat → List Word
  | 0 => []
  | n + 1 => hostWord s a :: hostWords s (a + 8) n

/-- Bytes of a list of words, little-endian (R10). -/
def wordBytes (ws : List Word) : List Byte := ws.flatMap (fun w => leBytes w.toNat 8)

/-- Words of a list of bytes, little-endian; a last short word is filled with zeros. -/
def bytesWords : Nat → List Byte → List Word
  | 0, _ => []
  | n + 1, bs => BitVec.ofNat 64 (leNat (bs.take 8)) :: bytesWords n (bs.drop 8)

/-- The host link carries traffic: it is up and the HIF domain runs (R369, R396). -/
def linkUp (s : State) : Bool := s.hifUp && rf s F.HIF_LINK_MODE != 0

/-- Whether the link is in a CXL mode (R369). -/
def linkCxl (s : State) : Bool := 1 ≤ rf s F.HIF_LINK_MODE && rf s F.HIF_LINK_MODE ≤ 3

/-- The host link serves what the device has begun: it carries traffic, or the fence of its domain lets outstanding requests drain
(R443). -/
def linkServes (s : State) : Bool :=
  linkUp s || (s.rst.fencing && [3, 4, 8].contains s.rst.kind && rf s F.HIF_LINK_MODE != 0)

/-- A write of the device to host memory: done now, or kept until the link is up again (R382, R396). -/
def hostWrite (a : Nat) (bs : List Byte) (s : State) : State :=
  if linkServes s then hostPoke a bs s else { s with wbWait := s.wbWait ++ [(a, bs)] }

/-- A vector is raised (R398). A vector masked in the MSI-X table becomes pending instead (PRESUMED, log 3) (link state: DEDUCED, log 70). -/
def raiseVec (v : Nat) (s : State) : State :=
  if bitsOf (rdReg s (0xF00008 + 16 * v)).toNat 32 1 = 1 then
    putReg (0xF08000 + v / 64 * 8)
      (rdReg s (0xF08000 + v / 64 * 8) ||| BitVec.ofNat 64 (2 ^ (v % 64))) s
  else emit (.msix v) s

/-- Whether the device takes no set-up writes from the host (R479): before RST.STAT.PHASE first reaches 7, and while PHASE is
FAILED or RECOVERY. -/
def notReady (s : State) : Bool := !s.rst.ready || rf s F.RST_STAT_PHASE == 8 || rf s F.RST_STAT_PHASE == 9

/-- A host write to the register at `a` that does `f`: it comes over the host link, and is not applied before the device is
ready (R476, R479). -/
def byHost (a : Nat) (f : State → State) (s : State) : State :=
  if !linkUp s then s else if notReady s then setupError 7 .host a s else f s

/-! ### Tack over stored words (R214, R215, R231, R234, R237) -/

/-- The syndrome of the word at a word address. -/
def synGet (s : State) (w : Nat) : Nat := smGet (fun _ => 0) s.syn w

/-- The syndrome of a word set. -/
def synPut (w syn : Nat) (s : State) : State := { s with syn := smSet (fun _ => 0) s.syn w syn }

/-- A word address in the shared store. -/
def onDie (w : Nat) : Bool := 0xF00000000000 / 8 ≤ w

/-- Whether the cache holds the line of a word (R192). -/
def cached (s : State) (w : Nat) : Bool := s.cache.any (fun c => c.line == w / 64)

/-- A word that the shared store holds: in its own range, or as part of a cache line. -/
def inSram (s : State) (w : Nat) : Bool := onDie w || cached s w

/-- The cache partitions, in increasing number (R192). -/
def cacheParts (s : State) : List Nat := (List.range 16).filter (fun p => ff s (F.SSTORE_PCFG_MODE p) == 0)

/-- The path code of the store that holds a device address now: a bank of a cache partition for a word that the cache holds,
else that of its address (R200, R239). -/
def pathOf (s : State) (a : Nat) : Nat :=
  if cached s (a / 8) then
    let ps := cacheParts s
    let b := Config.cacheBank ps.length (a / 512) % (8 * ps.length)
    0x8000 + ps.getD (b / 8) 0 * 256 + b % 8 * 32
  else pathOfAddr a

/-- One correction is counted for its unit (R234, R235). -/
def countCorrection (w : Nat) (s : State) : State :=
  let p := pathOf s (8 * w)
  let s := if inSram s w then bump F.TACK_CORR_SRAM 1 s else bump F.HBM_CORR 1 s
  { s with ceCount := smSet (fun _ => 0) s.ceCount p (smGet (fun _ => 0) s.ceCount p + 1) }

/-- The unit of the first uncorrectable word is latched (R237). -/
def latchUnit (path : Nat) (s : State) : State :=
  if rf s F.TACK_UNCORR_UNIT_VALID = 1 then s
  else put F.TACK_UNCORR_UNIT_VALID 1 (put F.TACK_UNCORR_UNIT_PATH path s)

/-- An uncorrectable word is counted and its address and unit are latched (R215, R237). -/
def countUncorrectable (w : Nat) (s : State) : State :=
  let s := if inSram s w then bump F.TACK_UNCORR_SRAM 1 s else bump F.HBM_UNCORR 1 s
  let s := if inSram s w || rf s F.HBM_UNCORR_ADDR_VALID = 1 then s
    else put F.HBM_UNCORR_ADDR_VALID 1 (put F.HBM_UNCORR_ADDR_ADDR (8 * w) s)
  latchUnit (pathOf s (8 * w)) s

/-- One stored word is read and checked: a single-bit error is corrected and written back (R214, R234); an uncorrectable
word is counted and its address is added to the list (R215). -/
def checkWord (w : Nat) (p : State × List Nat) : State × List Nat :=
  match tackClassify (synGet p.1 w) with
  | .clean => p
  | .checkBit => (countCorrection w (synPut w 0 p.1), p.2)
  | .dataBit i =>
    let s := memPut (8 * w + i / 8) (memGet p.1 (8 * w + i / 8) ^^^ BitVec.ofNat 8 (2 ^ (i % 8))) p.1
    (countCorrection w (synPut w 0 s), p.2)
  | .uncorrectable => (countUncorrectable w p.1, p.2 ++ [w])

/-- Every stored word that a reader touches is checked; answers the uncorrectable ones. -/
def checkWords (touch : Nat → Bool) (s : State) : State × List Nat :=
  ((s.syn.map (·.1)).filter touch).foldl (fun p w => checkWord w p) (s, [])

/-- Copies of words that a reader takes from bay SRAM and operand buffers are checked, and leave the store with it (R198, R232,
R234): the uncorrectable ones, with the path code of the store (R237). -/
def checkCopies (path touch : Nat → Bool) (s : State) : State × List (Nat × Nat) :=
  let mine := s.copySyn.filter (fun e => path e.1 && touch e.2.1)
  mine.foldl (fun p e => match tackClassify e.2.2 with
    | .clean => p
    | .uncorrectable => (latchUnit e.1 (bump F.TACK_UNCORR_SRAM 1 p.1), p.2 ++ [(e.1, e.2.1)])
    | _ => ({ bump F.TACK_CORR_SRAM 1 p.1 with
        ceCount := smSet (fun _ => 0) p.1.ceCount e.1 (smGet (fun _ => 0) p.1.ceCount e.1 + 1) }, p.2))
    ({ s with copySyn := s.copySyn.filter (fun e => !(path e.1 && touch e.2.1)) }, [])

/-- The words that bytes `[a, a + n)` lie in. -/
def inRange (a n w : Nat) : Bool := a < 8 * w + 8 && 8 * w < a + n

/-- A range of bytes is read and checked. -/
def checkRange (a n : Nat) (s : State) : State × List Nat := checkWords (inRange a n) s

/-- Producers and merges write bytes `[a, a + bs.length)`: whole words get new Tack; a word covered in part is checked and
merged, and is not written when it is uncorrectable (R216, R233). Answers the words not written. -/
def storeBytes (a : Nat) (bs : List Byte) (s : State) : State × List Nat :=
  let n := bs.length
  let part := fun w => inRange a n w && !(a ≤ 8 * w && 8 * w + 8 ≤ a + n)
  let r := checkWords part s
  let s := { r.1 with syn := smKeep (fun w => !(inRange a n w && !part w)) r.1.syn }
  let idx := List.range n
  (idx.foldl (fun s i =>
      if r.2.contains ((a + i) / 8) then s else memPut (a + i) (bs.getD i 0) s) s, r.2)

/-- A store whose unwritten words are of no concern to the caller. -/
def store (a : Nat) (bs : List Byte) (s : State) : State := (storeBytes a bs s).1

/-! ### Requests to HBM and the cache (R192, R193, R200, R218 to R220) -/

/-- The kinds of traffic that R192 and R218 tell apart. Reads of D and E by an epilogue stand in neither table of R192: they
allocate nothing (DESIGN CHOICE, log 112). -/
inductive Traffic where
  | update | mirror | seamSend | press | drain | operand | rowElem | epiWrite | epiRead | coll | collStage | keep
  | hostMove | hostMem | localMove | lint | scrub | restore | other
  deriving DecidableEq, Repr

/-- The regulator of a kind of traffic (R218). -/
def trafficReg : Traffic → Nat
  | .update => 0 | .mirror => 1 | .seamSend => 2 | .press => 3 | .drain => 4 | .operand => 5
  | .rowElem => 6 | .epiWrite => 6 | .epiRead => 6 | .coll => 7 | .collStage => 7 | .keep => 8
  | .hostMove => 9 | .hostMem => 10 | .localMove => 11 | .lint => 12 | .scrub => 13 | .restore => 14 | .other => 15

/-- Whether a miss of a kind of traffic allocates a line (R192). -/
def trafficAlloc : Traffic → Bool
  | .rowElem => true | .epiWrite => true | .collStage => true
  | _ => false

/-- A change of a partition into or out of CACHE waits for quiet: no line is allocated (R191). -/
def cacheChanging (s : State) : Bool :=
  s.partPend.any (fun e => (ff s (F.SSTORE_PCFG_MODE e.1) == 0) != (bitsOf e.2.toNat 0 2 == 0))

/-- The 64-byte units of HBM that runs of bits touch, each once: the requests of one access (R206, R219). -/
def hbmUnits (fs : List (Nat × Nat)) : List Nat :=
  ((fs.flatMap (fun f =>
    if f.2 = 0 then [] else (List.range ((f.1 + f.2 - 1) / 512 - f.1 / 512 + 1)).map (f.1 / 512 + ·))).filter
      (fun u => decide (u < 0x00C000000000 / 64))).eraseDups

/-- Whether runs of bits cover the line of 512 bytes whole. -/
def coversLine (fs : List (Nat × Nat)) (l : Nat) : Bool :=
  fs.foldl (fun a f => a + (min (f.1 + f.2) (4096 * l + 4096) - max f.1 (4096 * l))) 0 == 4096

/-- A dirty line is written back under regulator ACT, and counted (R192, R218). -/
def writeBackLine (c : CacheLine) (s : State) : State :=
  if c.dirty then bump (F.HBM_REGBYTES 6) 512 (bump F.SSTORE_WRITEBACK 1 s) else s

/-- The set of a line (R192). -/
def lineSet (s : State) (l : Nat) : Nat :=
  let c := (cacheParts s).length
  Config.cacheSet c l % (2048 * c)

/-- A line is allocated: the least recently used of a full set of 16 leaves, and unless a write covers the whole line its data
comes from HBM under regulator ACT (R192, R218). -/
def allocLine (l : Nat) (fill : Bool) (s : State) : State :=
  let mine := if s.cache.length < 16 then [] else s.cache.filter (fun c => lineSet s c.line == lineSet s l)
  let s := match mine with
    | [] => s
    | c :: _ => if mine.length < 16 then s
        else writeBackLine c { s with cache := s.cache.filter (fun x => x.line != c.line) }
  let s := if fill then bump (F.HBM_REGBYTES 6) 512 s else s
  { s with cache := s.cache ++ [⟨l, false, [], []⟩] }

/-- A line that is present is used: it becomes the most recent, and a write makes it dirty over what HBM holds (R192). -/
def useLine (l : Nat) (wr : Bool) (s : State) : State :=
  match s.cache.find? (fun c => c.line == l) with
  | none => s
  | some c =>
    let c := if wr && !c.dirty then
        { c with dirty := true, under := s.mem.filter (fun x => x.1 / 512 == l),
                 underSyn := s.syn.filter (fun x => x.1 / 64 == l) }
      else c
    { s with cache := s.cache.filter (fun x => x.line != l) ++ [c] }

/-- Whether a word is touched by runs of bits. -/
def runTouches (fs : List (Nat × Nat)) (w : Nat) : Bool := fs.any (fun f => f.1 < 64 * w + 64 && 64 * w < f.1 + f.2)

/-- The read of HBM that fills a line (R192, R232, R234): every word of it is checked as a word of HBM, before the line is in the
cache. Answers whether the line may be filled: an uncorrectable word is not written onward (R236), so the line is not allocated
and the request goes to HBM; the words that the request itself touches are counted by their reader (DESIGN CHOICE, log 112). -/
def fillCheck (l : Nat) (fs : List (Nat × Nat)) (s : State) : Bool × State :=
  let bad := fun w => tackClassify (synGet s w) == .uncorrectable
  let ok := !s.syn.any (fun e => e.1 / 64 == l && bad e.1)
  (ok, (checkWords (fun w => w / 64 == l && !(bad w && runTouches fs w)) s).1)

/-- One line of an access: looked up, hit, allocated, or passed to HBM unit by unit (R192, R219). -/
def accessLine (k : Nat) (alloc wr : Bool) (fs : List (Nat × Nat)) (us : List Nat) (s : State) (l : Nat) : State :=
  if s.cache.any (fun c => c.line == l) then useLine l wr (bump F.SSTORE_CACHE_HIT 1 s)
  else
    let s := bump F.SSTORE_CACHE_MISS 1 s
    let fill := !(wr && coversLine fs l)
    let c := if alloc && !cacheChanging s then (if fill then fillCheck l fs s else (true, s)) else (false, s)
    let s := c.2
    if c.1 then useLine l wr (allocLine l fill s)
    else bump (F.HBM_REGBYTES k) (64 * (us.filter (fun u => u / 8 == l)).length) s

/-- An access of an agent to runs of bits of device memory, before it reads or writes them: the lookups, and the bytes served
under its regulator (R192, R193, R218, R220). Each unit that an access touches is one burst, and each line one lookup; with no
cache partition there is no lookup (DESIGN CHOICE, log 112). `alloc` says that a miss allocates. -/
def accessAs (k : Nat) (alloc wr : Bool) (fs : List (Nat × Nat)) (s : State) : State :=
  let us := hbmUnits fs
  let s := if fs = [] then s else { s with xbarReqs := s.xbarReqs + 1, qfullReqs := s.qfullReqs + (us != []).toNat }
  if us = [] then s
  else if cacheParts s = [] then bump (F.HBM_REGBYTES k) (64 * us.length) s
  else (us.map (· / 8)).eraseDups.foldl (accessLine k alloc wr fs us) s

/-- An access of a kind of traffic. `st` says that it is to a tensor of region STATE, of which no line is allocated (R193). -/
def access (t : Traffic) (st wr : Bool) (fs : List (Nat × Nat)) (s : State) : State :=
  accessAs (trafficReg t) (trafficAlloc t && !st) wr fs s

/-- Whether a regulator issues nothing for a stack: CAP mode with RATE 0, by its MODE or by the cut of 95 °C (R220, R222). -/
def regStops (s : State) (k stack : Nat) : Bool :=
  ff s (F.HBM_REG_RATE k) == 0 &&
    (ff s (F.HBM_REG_MODE k) == 1 || (ff s (F.HBM_REG_COMPUTE k) == 1 && bitsOf (rf s F.HBM_TSTAT_CUT) stack 1 == 1))

/-- Whether a request to an address of HBM waits for its regulator there (R220). -/
def regHeld (s : State) (k a : Nat) : Bool := regStops s k (hbmStackChannel a).1

/-- Whether an access waits at the controllers: its regulator issues nothing there, or a thermal trip lets only the Seam send
issue (R220, R224). -/
def accessHeld (s : State) (t : Traffic) (fs : List (Nat × Nat)) : Bool :=
  if fs = [] then false
  else if s.tripPend && t != .seamSend then (hbmUnits fs).any (fun u => !cached s (8 * u))
  else if (List.range 16).all (fun k => ff s (F.HBM_REG_RATE k) != 0) then false
  else (hbmUnits fs).any (fun u => !cached s (8 * u) &&
    regStops s (if trafficAlloc t && cacheParts s != [] then 6 else trafficReg t) (hbmStackChannel (64 * u)).1)

/-- The first byte of the range of HBM that is reserved to the device (R209). -/
def reservedBase : Nat := 0x00BFC0000000

/-- Where in the reserved range the model places what R209 lists: the Lint pack first, then the records of R247, the progress words
of R51, and the step and vote records; only the stacks and channels that their requests reach depend on it (DESIGN CHOICE, log 151). -/
def lintRecBase : Nat := reservedBase + 0x10000000
/-- Of the progress words (R51, R209). -/
def progressBase : Nat := reservedBase + 0x20000000
/-- Of the step and vote records (R209). -/
def recordsBase : Nat := reservedBase + 0x30000000

/-- Bytes as a run of bits. -/
def byteRun (a n : Nat) : List (Nat × Nat) := [(8 * a, 8 * n)]

/-- A range of bytes is read and checked by an agent. -/
def readRange (t : Traffic) (a n : Nat) (s : State) : State × List Nat := checkRange a n (access t false false (byteRun a n) s)

/-- Bytes are written by an agent. -/
def writeRange (t : Traffic) (a : Nat) (bs : List Byte) (s : State) : State × List Nat :=
  storeBytes a bs (access t false true (byteRun a bs.length) s)

/-- A record in the reserved range is written by the unit that keeps it, under regulator OTHER: one burst, once the controllers take
it; the unit does not wait for it (R209, R218; DESIGN CHOICE, log 151). -/
def writeRecord (a : Nat) (s : State) : State :=
  let run := byteRun (a / 64 * 64) 64
  if accessHeld s .other run then s else access .other false true run s

/-- The record of a step is written (R209). -/
def writeStepRecord (n : Nat) (s : State) : State := writeRecord (recordsBase + 64 * (n % 4)) s

/-- Every dirty line is written back, and the cache is empty (R191, R194). -/
def flushCache (s : State) : State := { s.cache.foldl (fun s c => writeBackLine c s) s with cache := [] }

/-- What HBM holds beneath a dirty line stands in memory again. -/
def dropLine (c : CacheLine) (s : State) : State :=
  if !c.dirty then s
  else
    { s with
      mem := c.under.foldl (fun m e => smSet memDefault m e.1 e.2) (smKeep (fun a => a / 512 != c.line) s.mem)
      syn := c.underSyn.foldl (fun m e => smSet (fun _ => 0) m e.1 e.2) (smKeep (fun w => w / 64 != c.line) s.syn) }

/-- Dirty lines are dropped: HBM keeps what it held (R194). -/
def dropCache (s : State) : State := { s.cache.foldl (fun s c => dropLine c s) s with cache := [] }

/-! ### Steps (R15 to R17) -/

/-- The step context (R15). -/
def stepCtx (s : State) : Nat := rf s F.STEPCFG_CTL_STEP_CTX

/-- This device's logical identity (R279). -/
def selfId (s : State) : Nat := ff s F.ROUTE_ID_SELF

/-- Whether the CMP domain runs what it has begun: it is not fenced, or its fence lets outstanding requests drain (R443). -/
def cmpDrains (s : State) : Bool := s.cmpUp || (s.rst.fencing && s.rst.kind != 3)

/-- Whether the MEM domain serves what has begun (R443). -/
def memDrains (s : State) : Bool := s.memUp || (s.rst.fencing && s.rst.kind != 1 && s.rst.kind != 3)

/-- Whether the domain that consumes a packet of a type takes it: step logic and collectives are of the CMP domain,
checkpoint and image streams of MEM, the Seam stream of both (R304, R433). Packets are dropped once a fence has drained
(R443; DEDUCED, log 53); VOTE packets once CMP is fenced, since none is sent on while it resets (R304). -/
def consumerUp (s : State) (typ : Nat) : Bool :=
  match typ with
  | 4 => s.cmpUp
  | 6 | 7 | 8 | 9 => cmpDrains s
  | 10 => cmpDrains s && memDrains s
  | 11 | 12 => memDrains s
  | _ => true

/-- The live step of a number. -/
def findStep (s : State) (n : Nat) : Option StepRec := s.steps.find? (fun r => r.num == n)

/-- The live step whose number has the low bits of a step tag (R18). -/
def stepOfTag (s : State) (tag : Nat) : Option StepRec := s.steps.find? (fun r => r.num % 4 == tag)

/-- A live step's record replaced. -/
def setStep (r : StepRec) (s : State) : State :=
  { s with steps := s.steps.map (fun x => if x.num = r.num then r else x) }

/-- A change to the record of a live step. -/
def modStep (n : Nat) (f : StepRec → StepRec) (s : State) : State :=
  { s with steps := s.steps.map (fun x => if x.num = n then f x else x) }

/-- The current step a notice names (R254, R429): the oldest live step, 0 for none (DEDUCED, log 43). -/
def curStep (s : State) : Nat := match s.steps with | [] => 0 | r :: _ => r.num

/-- The severity of a cause (R96): 0 none, 1 REPLAY, 2 STOP. -/
def causeSev (c : Nat) : Nat :=
  if 0x05 ≤ c ∧ c ≤ 0x0B then 2 else if c = 0x10 then 2
  else if 0x11 ≤ c ∧ c ≤ 0x16 then 1 else 0

/-- A severity and cause enter a step's own verdict: the higher severity stands, and of equal ones the first
(R29, R33; DEDUCED, log 12). -/
def raiseSev (n sev cause : Nat) (s : State) : State :=
  modStep n (fun r => if r.sev < sev then { r with sev := sev, cause := cause } else r) s

/-- The number of a step-state code in STEPSTAT (R490). -/
def stepStCode : StepSt → Nat
  | .opened => 1 | .closing => 2 | .voting => 3 | .unresolved => 4
  | .hemming => 5 | .discarding => 6 | .stopped => 7

/-- STEPSTAT.STATE0 and STATE1 as they read (R490): the live step of a parity, or a stopped step still shown. -/
def stepStatOf (s : State) (parity : Nat) : Nat :=
  match s.steps.find? (fun r => r.num % 2 == parity) with
  | some r => stepStCode r.st
  | none => if s.stoppedShown.any (fun n => n % 2 == parity) then 7 else 0

/-! ### Notices (R93 to R95, R399) -/

/-- The fields of a notice record that its poster gives (R94). -/
structure NoticeInfo where
  kind : Nat
  stag : Nat := 0
  sev : Nat := 0
  cause : Nat := 0
  firstId : Nat := 0x7FFF
  step : Nat := 0
  epoch : Nat := 0
  verified : Nat := 0
  cursor0 : Nat := 0
  cursor1 : Nat := 0
  mark0 : Nat := 0
  mark1 : Nat := 0
  mark2 : Nat := 0
  detail : Nat := 0
  deriving DecidableEq, Repr

/-- The run-time record of a context. -/
def ctxRt (s : State) (c : Nat) : CtxRt := smGet (fun _ => ⟨0, [], false, false⟩) s.ctxs c

/-- A context's run-time record set. -/
def setCtxRt (c : Nat) (r : CtxRt) (s : State) : State :=
  { s with ctxs := smSet (fun _ => ⟨0, [], false, false⟩) s.ctxs c r }

/-- The run-time record of a ring. -/
def ringRt (s : State) (c r : Nat) : RingRt := smGet (fun _ => ⟨0, 0, false, 0⟩) s.rings (4 * c + r)

/-- A ring's run-time record set. -/
def setRingRt (c r : Nat) (x : RingRt) (s : State) : State :=
  { s with rings := smSet (fun _ => ⟨0, 0, false, 0⟩) s.rings (4 * c + r) x }

/-- The host address of the slot with a count (R377). -/
def slotAddr (s : State) (c r cnt : Nat) : Nat :=
  rf s (F.CTX_RING_BASE c r) + 64 * (cnt % 2 ^ rf s (F.CTX_RING_CTL_LOG2 c r))

/-- Whether a ring is enabled. -/
def ringOn (s : State) (c r : Nat) : Bool := rf s (F.CTX_RING_CTL_ENABLE c r) == 1

/-- The next notice slot, when the device owns one and can write it (R93). -/
def noticeSlot (s : State) (c : Nat) : Option Nat :=
  let x := ringRt s c 3
  let a := slotAddr s c 3 x.cons
  if linkServes s && ringOn s c 3 && x.prod != x.cons && bitsOf (hostWord s a).toNat 63 1 == 1 then some a else none

/-- The eight words of a notice record (R94). -/
def noticeWords (s : State) (c seq : Nat) (i : NoticeInfo) : List Word :=
  [ 7 * 2 ^ 60 + i.kind * 2 ^ 52 + i.stag * 2 ^ 50 + i.sev * 2 ^ 48 + i.cause * 2 ^ 40
      + i.firstId * 2 ^ 24 + seq % 2 ^ 24,
    i.step + c * 2 ^ 48,
    i.epoch + i.verified * 2 ^ 32,
    i.cursor0, i.cursor1,
    i.mark0 % 2 ^ 16 + i.mark1 % 2 ^ 16 * 2 ^ 16 + i.mark2 % 2 ^ 16 * 2 ^ 32,
    i.detail, nowNs s ].map (BitVec.ofNat 64)

/-- The notice interrupt of a context (R399). -/
def noticeInt (c : Nat) (s : State) : State :=
  if rf s (F.CTX_INT_MASK c) = 1 then s
  else
    let x := ctxRt s c
    if x.holdoff then setCtxRt c { x with pendInt := true } s
    else raiseVec (rf s (F.CTX_INT_VEC c)) (setCtxRt c { x with holdoff := true } s)

/-- A record written into a notice slot: words 1 to 7, then word 0 with OWN clear (R94, R382). -/
def writeNotice (c a : Nat) (ws : List Word) (s : State) : State :=
  let s := hostWrite (a + 8) (wordBytes (ws.drop 1)) s
  let s := hostWrite a (wordBytes (ws.take 1)) s
  let x := ringRt s c 3
  noticeInt c (setRingRt c 3 { x with cons := (x.cons + 1) % 2 ^ 32 } s)

/-- A notice is posted: written, held, or counted lost (R93, R396). -/
def postNotice (c : Nat) (i : NoticeInfo) (s : State) : State :=
  let x := ctxRt s c
  let ws := noticeWords s c x.seq i
  let s := setCtxRt c { x with seq := (x.seq + 1) % 2 ^ 24 } s
  match noticeSlot s c, x.held with
  | some a, [] => writeNotice c a ws s
  | _, _ =>
    if x.held.length < 64 then
      setCtxRt c { ctxRt s c with held := x.held ++ [⟨ws⟩] } s
    else bump (F.CTX_NOTICE_LOST c) 1 s

/-- Held notices are written while slots are owned (R93). -/
def flushNotices (c : Nat) : Nat → State → State
  | 0, s => s
  | n + 1, s =>
    match (ctxRt s c).held, noticeSlot s c with
    | w :: ws, some a =>
      flushNotices c n (writeNotice c a w.words (setCtxRt c { ctxRt s c with held := ws } s))
    | _, _ => s

/-- Kept pipeline inputs of a step that are VERIFIED (R50, R94). -/
def verifiedCount (s : State) (n : Nat) : Nat :=
  (s.kept.filter (fun k => k.pipe && k.step == n && k.verified && !k.absent)).length

/-- What every notice about a live step names: its tag, number, epoch, data cursor and VERIFIED inputs (R94). -/
def ofStep (s : State) (r : StepRec) (i : NoticeInfo) : NoticeInfo :=
  { i with stag := r.num % 4, step := r.num, epoch := r.epoch, verified := verifiedCount s r.num,
           cursor0 := r.cursor0.toNat, cursor1 := r.cursor1.toNat }

/-- What a notice about a hemmed step names (R94): the live step's own values, else those recorded at its hem point. -/
def ofHemmed (s : State) (n : Nat) (i : NoticeInfo) : NoticeInfo :=
  match findStep s n, s.hemRecs.find? (fun h => h.num == n) with
  | some r, _ => ofStep s r i
  | none, some h => { i with stag := n % 4, step := n, epoch := h.epoch, cursor0 := h.cursor0.toNat, cursor1 := h.cursor1.toNat }
  | none, none => { i with stag := n % 4, step := n }

/-- A notice on the step context about a live step, with its identity, cursor and epoch. -/
def stepNotice (r : StepRec) (i : NoticeInfo) (s : State) : State := postNotice (stepCtx s) (ofStep s r i) s

/-- The current step's identity in a notice that is about no step of its own (R277, R429; DEDUCED, log 43). -/
def aboutNow (s : State) (i : NoticeInfo) : NoticeInfo :=
  match s.steps with
  | [] => i
  | r :: _ => ofStep s r i

/-- A CHECK_ERROR notice (R95): unit path and device address in DETAIL. On the step context it names the current step (R94;
DEDUCED, log 43). -/
def checkError (c sev cause path addr : Nat) (s : State) : State :=
  let i : NoticeInfo := { kind := 0x02, sev := sev, cause := cause, detail := path % 2 ^ 16 + addr % 2 ^ 48 * 2 ^ 16 }
  postNotice c (if c = stepCtx s then aboutNow s i else i) s

/-- A packet whose cells failed their check after the port is dropped by its consumer, and counted (R237). No rule says which unit path
is latched where several units take part (DESIGN CHOICE, log 157). -/
def endpointDrop (path : Nat) (s : State) : State := latchUnit path (bump F.TACK_UNCORR_SRAM 1 (bump F.TACK_ENDPOINT_FAIL 1 s))

/-! ### Descriptors (R71, R73) -/

/-- Word `i` of a descriptor as a number. -/
def dWord (d : Desc) (i : Nat) : Nat := (d.words.getD i 0).toNat
/-- CLASS (R71). -/
def dClass (d : Desc) : Nat := bitsOf (dWord d 0) 60 3
/-- OP (R71). -/
def dOp (d : Desc) : Nat := bitsOf (dWord d 0) 52 8
/-- STAG (R71). -/
def dStag (d : Desc) : Nat := bitsOf (dWord d 0) 50 2
/-- PHASE (R70, R71). -/
def dPhase (d : Desc) : Nat := bitsOf (dWord d 0) 47 3
/-- Tagged BWD_W (R69, R70). -/
def dBwdW (d : Desc) : Bool := dPhase d == 3
/-- FENCE (R68). -/
def dFence (d : Desc) : Bool := bitsOf (dWord d 0) 39 1 == 1
/-- MB_END (R100). -/
def dMbEnd (d : Desc) : Bool := bitsOf (dWord d 0) 38 1 == 1

/-- A compute descriptor: MATRIX, ROW or ELEM (R100). -/
def dCompute (d : Desc) : Bool := dClass d ≤ 2

/-- The identity of a descriptor in flight. -/
def sameDesc (a b : Desc) : Bool := a.ctx == b.ctx && a.ring == b.ring && a.cnt == b.cnt

/-- The descriptor in flight of a context, ring and count. -/
def findDesc (s : State) (c r cnt : Nat) : Option Desc :=
  s.inflight.find? (fun d => d.ctx == c && d.ring == r && d.cnt == cnt)

/-- A descriptor in flight replaced by its new record. -/
def setDesc (d : Desc) (s : State) : State :=
  { s with inflight := s.inflight.map (fun x => if sameDesc x d then d else x) }

/-- The counter key of a counter of a context for a descriptor's bank (R67). -/
def ctrKey (s : State) (c stag k : Nat) : Nat :=
  c * 512 + (if c = stepCtx s then stag % 2 else 0) * 256 + k

/-- A counter's value. -/
def ctrGet (s : State) (key : Nat) : Nat := smGet (fun _ => 0) s.ctrs key

/-- A counter set. -/
def ctrPut (key v : Nat) (s : State) : State := { s with ctrs := smSet (fun _ => 0) s.ctrs key (v % 2 ^ 16) }

/-- The channel that serves ring 2 of a context (R390). -/
def dmChan (s : State) (c : Nat) : Nat := rf s (F.CTX_CFG_DM_CHAN c)

/-- A completion signalled on a user channel (R393). -/
def userDone (n status : Nat) (s : State) : State :=
  let s := bump (F.DM_DONE_COUNT n) 1 s
  let s := if status = 1 then s else put (F.DM_STAT_FAILED_SEEN n) 1 s
  if rf s (F.DM_DONE_COUNT n) = rf s (F.DM_TARGET_COUNT n) then raiseVec (rf s (F.DM_VEC_VEC n)) s else s

/-- The status write-back of a descriptor: word 7, then word 0 with OWN clear (R73, R382); on a user channel, R393. -/
def writeBack (d : Desc) (status cause : Nat) (s : State) : State :=
  if d.ring = 2 ∧ 48 ≤ dmChan s d.ctx then userDone (dmChan s d.ctx) status s
  else
    let a := slotAddr s d.ctx d.ring d.cnt
    let w7 := status + cause * 2 ^ 8 + d.result % 256 * 2 ^ 16 + nowNs s % 2 ^ 32 * 2 ^ 32
    let s := hostWrite (a + 56) (leBytes w7 8) s
    hostWrite a (leBytes (dWord d 0 % 2 ^ 63) 8) s

/-- What a notice about a descriptor names (R94): its step tag, and its live step when it has one. -/
def ofDesc (s : State) (d : Desc) (i : NoticeInfo) : NoticeInfo :=
  match d.step.bind (findStep s) with
  | some r => ofStep s r i
  | none => { i with stag := dStag d }

/-- The REFUSED or TIMEOUT notice of a descriptor (R95). -/
def descNotice (d : Desc) (kind cause : Nat) (s : State) : State :=
  postNotice d.ctx (ofDesc s d {
    kind := kind, sev := causeSev cause, cause := cause,
    detail := d.ring + d.cnt % 2 ^ rf s (F.CTX_RING_CTL_LOG2 d.ctx d.ring) % 2 ^ 16 * 2 ^ 16 }) s

/-- Signal of a descriptor that retires DONE (R68). -/
def signal (d : Desc) (s : State) : State :=
  if bitsOf (dWord d 0) 36 1 = 1 then
    let k := ctrKey s d.ctx (dStag d) (bitsOf (dWord d 0) 16 8)
    ctrPut k (ctrGet s k + 1) s
  else s

/-- The cause of a descriptor that did not end well enters the verdict of its step (R96). -/
def retireSev (d : Desc) (status cause : Nat) (s : State) : State :=
  match d.step with
  | some n => if status = 1 ∨ status = 4 ∨ causeSev cause = 0 then s else raiseSev n (causeSev cause) cause s
  | none => s

/-- A retired OPT_BIND counts among those of its step (R344). -/
def retireBind (d : Desc) (s : State) : State :=
  match d.step with
  | some n => if dClass d = 5 ∧ dOp d = 8 then modStep n (fun r => { r with binds := r.binds ++ [d.cnt] }) s else s
  | none => s

/-- The notice of a refused or timed-out descriptor (R95). -/
def retireNotice (d : Desc) (status cause : Nat) (s : State) : State :=
  if status = 2 then descNotice d 0x01 cause s else if status = 5 then descNotice d 0x03 cause s else s

/-- A descriptor retires with a status and cause (R73, R74): write-back, signal, verdict (R96), notice, and its place in
flight is free. A retiring MB_END marks a switch point (R100). -/
def retire (d : Desc) (status cause : Nat) (s : State) : State :=
  let s := writeBack d status cause s
  let s := if status = 1 then signal d s else s
  let s := retireNotice d status cause (retireBind d (retireSev d status cause s))
  let s := { s with inflight := s.inflight.filter (fun x => !sameDesc x d) }
  if d.ring == 0 && dMbEnd d && s.holder == some d.ctx then { s with mbWait := some d.cnt } else s

/-- A running descriptor meets a failure: the cause is recorded and a CHECK_ERROR notice is posted (R237, R515). -/
def failNotice (d : Desc) (cause path addr : Nat) (s : State) : State :=
  postNotice d.ctx (ofDesc s d {
    kind := 0x02, sev := if d.ctx = stepCtx s then causeSev cause else 0,
    cause := cause, detail := path % 2 ^ 16 + addr % 2 ^ 48 * 2 ^ 16 }) s

/-- The cause a failed descriptor retires with: the lowest code among its failures (R515). -/
def failCause : List Nat → Nat
  | [] => 0
  | [c] => c
  | c :: cs => min c (failCause cs)

/-- The uncorrectable words a descriptor has read fail it (R237): one notice each. -/
def failWords (d : Desc) (bad : List Nat) (s : State) : Desc × State :=
  match bad with
  | [] => (d, s)
  | _ => ({ d with fails := d.fails ++ [0x11] },
      bad.foldl (fun s w => failNotice d 0x11 (pathOf s (8 * w)) (8 * w) s) s)

/-- The uncorrectable copies that a descriptor has taken from on-die stores fail it (R237): one notice each, with the store's
path code and the address of the word copied. -/
def failCopies (d : Desc) (bad : List (Nat × Nat)) (s : State) : Desc × State :=
  match bad with
  | [] => (d, s)
  | _ => ({ d with fails := d.fails ++ [0x11] },
      bad.foldl (fun s e => failNotice d 0x11 e.1 (8 * e.2) s) s)

/-! ### The tray status byte and its in-band interrupt (R455, R456) -/

/-- A land class that is a fault: any but VALID_LOW and VALID_HIGH (R462, R464). -/
def landFault (c : Nat) : Bool := 2 ≤ c

/-- A seal-loop class that is a fault: REVERSED, SHORTED and LAND_FAULT, not INTACT and not OPEN (R463; DEDUCED, log 62). -/
def sealFault (c : Nat) : Bool := 2 ≤ c

/-- THERM (R455): junction THROTTLE or AT_LIMIT, or a stack CUT; clear while those domains are off. -/
def thermBit (s : State) : Bool :=
  let on := s.rtrUp && rf s F.RST_STAT_PHASE != 8
  (on && rf s F.PWR_STAT_STATE != 2 && (rf s F.PWR_TJ_STAT_THROTTLE == 1 || rf s F.PWR_TJ_STAT_AT_LIMIT == 1))
    || (on && rf s F.HBM_TSTAT_CUT != 0)

/-- The tray status byte (R455). -/
def statusByte (s : State) : Nat :=
  let ph := rf s F.RST_STAT_PHASE
  let harness := landFault (rf s F.SEC_STAT_COOLANT) || landFault (rf s F.SEC_STAT_MAINT)
    || landFault (rf s F.SEC_STAT_THERMTRIP) || sealFault (rf s F.SEC_STAT_SEAL)
  let stopped := rf s F.PWR_AON_COOLANT_STOP == 1 || rf s F.PWR_AON_TRIP_STOP == 1
  let oos := rf s F.RST_STAT_OOS == 1
  (s.upOnce && !oos).toNat + s.folded.toNat * 2 + stopped.toNat * 2 ^ 2 + oos.toNat * 2 ^ 3
    + (ph == 8 || ph == 9).toNat * 2 ^ 4 + (thermBit s).toNat * 2 ^ 5 + harness.toNat * 2 ^ 6
    + rf s F.SEC_STAT_PRESENCE * 2 ^ 7

/-- What a change does, with the in-band interrupt of R456: raised in I3C mode, while enabled, when one of bits 6 to 2 of the
status byte has changed (DESIGN CHOICE, log 107). -/
def withIbi (f : State → State) (s : State) : State :=
  let t := f s
  if t.i3c && t.mgmt.ibi && bitsOf (statusByte s) 2 5 != bitsOf (statusByte t) 2 5 then emit (.ibi (statusByte t)) t else t

end Sys2Proof.Machine
end

