-- ==== Sys2Proof/Machine/Fabric.lean ====
section
/-!
DEFINITION. Logical coordinates (R279), the routing tables (R292 to R297), cells and blocks (R259, R260, R281, R282), virtual
channels and credits (R287 to R291), the sending side of a port (R261, R270 to R272), and the injection of packets (R280 to R284).
A packet is routed when its head cell comes; its cells go on one by one, as they come.
-/
namespace Sys2Proof.Machine

/-! ### Logical identity (R279) -/

/-- The size of an axis in force (R279). -/
def axisSize (s : State) (a : Nat) : Nat := bitsOf (inForce s R.ROUTE_SHAPE).toNat (6 * a) 6 + 1

/-- A coordinate of a logical identity along an axis (R279). -/
def coordOf (s : State) (id a : Nat) : Nat :=
  id / ((List.range a).foldl (fun p i => p * axisSize s i) 1) % axisSize s a

/-- The identity at another coordinate along an axis (R279). -/
def atCoord (s : State) (id a c : Nat) : Nat :=
  let p := (List.range a).foldl (fun p i => p * axisSize s i) 1
  id - coordOf s id a * p + c % axisSize s a * p

/-- The logical neighbour one step up or down an axis. -/
def neighbour (s : State) (a : Nat) (plus : Bool) : Nat :=
  let n := axisSize s a
  let c := coordOf s (selfId s) a
  atCoord s (selfId s) a (if plus then c + 1 else c + n - 1)

/-- The distinct logical neighbours of this device (R317). -/
def neighbours (s : State) : List Nat :=
  ((List.range 4).flatMap (fun a => if 1 < axisSize s a then [neighbour s a false, neighbour s a true] else [])).eraseDups

/-- Whether this device is assigned (R280). -/
def assigned (s : State) : Bool := ff s F.ROUTE_ID_VALID == 1

/-! ### Tables (R292, R295) -/

/-- The state of a table: 0 IDLE, 1 ACTIVE, 2 DRAINING (R295). -/
def tableState (s : State) (e : Nat) : Nat := bitsOf (rdReg s R.ROUTE_TSTAT).toNat (2 * e) 2

/-- The epoch bit of the ACTIVE table, if there is one (R295). -/
def activeBit (s : State) : Option Nat :=
  if tableState s 0 = 1 then some 0 else if tableState s 1 = 1 then some 1 else none

/-- The DRAINING table, if there is one. -/
def drainingBit (s : State) : Option Nat :=
  if tableState s 0 = 2 then some 0 else if tableState s 1 = 2 then some 1 else none

/-- The routing epoch bit of new packets (R296). -/
def epochBit (s : State) : Nat := (activeBit s).getD (ff s F.ROUTE_CTL_EPOCH)

/-- The address of the word of table `e` that holds the entry of a destination (R307). -/
def tableAddr (e dst : Nat) : Nat := (if e = 0 then R.ROUTE_TBL0 (dst / 8) else R.ROUTE_TBL1 (dst / 8))

/-- The entry of a destination (R292). -/
def tableEntry (s : State) (e dst : Nat) : Nat := bitsOf (rdReg s (tableAddr e dst)).toNat (8 * (dst % 8)) 8

/-- The attributes of a port in table `e`: AXIS and DATELINE (R292). -/
def portAttr (s : State) (e n : Nat) : Nat × Nat :=
  let v := bitsOf (rdReg s (if e = 0 then R.ROUTE_PORTATTR0 else R.ROUTE_PORTATTR1)).toNat (4 * n) 4
  (v % 8, v / 8)

/-- The state of a port (R262). -/
def portState (s : State) (n : Nat) : Nat := rf s (F.UBVOR_PSTAT_STATE n)

/-- A quarantined port: EXTRA or MISMATCH (R302). -/
def quarantined (s : State) (n : Nat) : Bool :=
  let st := rf s (F.ROUTE_NBR_STATE n)
  st == 2 || st == 3

/-- A port at run time before anything has happened on it. -/
def portFresh : PortRt :=
  { txNext := 0, retry := [], waitQ := [], resendAt := 0, resends := 0, bobQ := [], rxNext := 0, rxPos := 0, dropping := false,
    failAt := 0, nakDue := none, uncorr := [], cfg := 0, nonce := 0, seen := 0, peerGens := 0, peerGood := 0, good := 0, gen := 0, bad := 0,
    narrowing := false, rejoin := false, deadSaid := false, discovered := false, arbClass := 1, arbLeft := 0, samples := [], warned := [] }

/-- A virtual channel before anything has happened on it. -/
def vcFresh : VcRt := ⟨[], 0, 0, 0, 0, none⟩

/-- A port's run-time record. -/
def portRt (s : State) (n : Nat) : PortRt := smGet (fun _ => portFresh) s.ports n

/-- A port's run-time record set. -/
def setPortRt (n : Nat) (p : PortRt) (s : State) : State := { s with ports := smSet (fun _ => portFresh) s.ports n p }

/-- A virtual channel's record. -/
def vcRt (s : State) (n v : Nat) : VcRt := smGet (fun _ => vcFresh) s.vcs (8 * n + v)

/-- A virtual channel's record set. -/
def setVcRt (n v : Nat) (x : VcRt) (s : State) : State :=
  { s with vcs := smSet (fun _ => vcFresh) s.vcs (8 * n + v) x }

/-- A port in MATCH, or that was when it began to narrow: what waits for it stays, and comes in by it (R269, R302)
(DEDUCED, log 128). -/
def joined (s : State) (n : Nat) : Bool := rf s (F.ROUTE_NBR_STATE n) == 1 || (portRt s n).rejoin

/-- Whether two ports form a bond (R347): enabled, both in MATCH with the same peer. -/
def bonded (s : State) : Bool :=
  let a := ff s F.SEAM_PEER_BOND_A
  let b := ff s F.SEAM_PEER_BOND_B
  ff s F.SEAM_PEER_BOND_EN == 1 && a != b && a < 12 && b < 12 && joined s a && joined s b
    && rf s (F.ROUTE_NBR_PEER_ID a) == rf s (F.ROUTE_NBR_PEER_ID b)
    && rf s (F.ROUTE_NBR_PEER_ASSIGNED a) == rf s (F.ROUTE_NBR_PEER_ASSIGNED b)

/-- The port of a bond that has lost the other one: that other is not in MATCH, and the last peer seen on both is one (R347). -/
def bondLeft (s : State) : Option Nat :=
  let a := ff s F.SEAM_PEER_BOND_A
  let b := ff s F.SEAM_PEER_BOND_B
  let up := joined s
  if ff s F.SEAM_PEER_BOND_EN == 1 && a != b && a < 12 && b < 12 && up a != up b
      && rf s (F.ROUTE_NBR_PEER_ID a) == rf s (F.ROUTE_NBR_PEER_ID b)
      && rf s (F.ROUTE_NBR_PEER_ASSIGNED a) == rf s (F.ROUTE_NBR_PEER_ASSIGNED b) then some (if up a then a else b)
  else none

/-- The port whose virtual channels carry the traffic of a table entry: BOND_A for either port of a bond, and the port that is left
when the other one has been lost (R347). -/
def carrier (s : State) (n : Nat) : Nat :=
  if n == ff s F.SEAM_PEER_BOND_A || n == ff s F.SEAM_PEER_BOND_B then
    (if bonded s then ff s F.SEAM_PEER_BOND_A else (bondLeft s).getD n)
  else n

/-! ### Ports and virtual channels -/

/-- A port that exchanges blocks: ACTIVE, or out of it to narrow (R268, R269) (DEDUCED, log 128). -/
def portUp (s : State) (n : Nat) : Bool := portState s n == 6 || (portRt s n).narrowing

/-- The lanes of a bitmap, lowest first. -/
def lanesOf (m : Nat) : List Nat := (List.range 16).filter (fun k => m.testBit k)

/-! ### Cells and blocks (R259 to R261, R281, R282, R285) -/

/-- The cells of a packet: at most 64 × LEN − 24 payload bytes (R281). -/
def pktCells (p : Packet) : Nat := max 1 ((p.payload.length + 24 + 63) / 64)

/-- Header word 0 (R282). -/
def headerWord0 (p : Packet) : Nat :=
  p.dst.toNat + p.tclass.toNat * 2 ^ 14 + p.src.toNat * 2 ^ 16 + p.epochBit.toNat * 2 ^ 30 + (pktCells p - 1) % 64 * 2 ^ 32
    + p.stag.toNat * 2 ^ 38 + p.ttl.toNat * 2 ^ 40 + p.typ.toNat * 2 ^ 48 + p.payload.length % 4096 * 2 ^ 52

/-- Header word 1 (R282). -/
def headerWord1 (p : Packet) : Nat := p.tag.toNat + p.offset.toNat * 2 ^ 32

/-- The trailer (R285). -/
def trailerWord (p : Packet) : Nat := p.abort.toNat + p.abortCause.toNat * 2

/-- Word `i` of a packet, of all the words of its cells: header, payload filled with zeros, trailer (R281). -/
def packetWord (p : Packet) (i : Nat) : Nat :=
  if i = 0 then headerWord0 p
  else if i = 1 then headerWord1 p
  else if i + 1 = 8 * pktCells p then trailerWord p
  else leNat ((p.payload.drop (8 * (i - 2))).take 8)

/-- A cell position of 72 bytes: eight words in little-endian order, then their Tack check bytes (R260). -/
def cellBytes (ws : List Nat) : List Byte :=
  ws.flatMap (fun w => leBytes w 8) ++ ws.map (fun w => BitVec.ofNat 8 (tackCheck w))

/-- The body of a DATA block: four cell positions; an empty one carries the word 0 with its check byte, 0xFF (R230, R260). -/
def blockBody (cells : List Cell) : List Byte :=
  (List.range 4).flatMap (fun i => cellBytes (match cells[i]? with
    | some c => (List.range 8).map (fun j => packetWord c.pkt (8 * c.idx + j))
    | none => List.replicate 8 0))

/-- A block header (R259): KIND, NAK, VALID and VC of the cells, and ACK. -/
def blockHeader (kind nak : Nat) (cells : List Cell) (ack : Nat) : Nat :=
  kind + nak * 2 ^ 2 + (2 ^ min 4 cells.length - 1) * 2 ^ 4
    + ((List.range 4).foldl (fun a i => a + (match cells[i]? with | some c => c.vc % 8 | none => 0) * 2 ^ (3 * i)) 0) * 2 ^ 8
    + ack % 65536 * 2 ^ 20

/-- A product in GF(2¹⁰) with the polynomial x¹⁰ + x³ + 1, by which the code of a block is defined. -/
def gfMul (a b : Nat) : Nat :=
  (List.range 10).foldl (fun r i =>
    let r := if 512 ≤ r then (2 * r) ^^^ 0x409 else 2 * r
    if b.testBit (9 - i) then r ^^^ a else r) 0

/-- The generator of RS(256,234) below its leading term, highest power first: its roots are α⁰ to α²¹, with α = x. -/
def fecGenerator : List Nat :=
  ((List.range 22).foldl (fun (g : List Nat × Nat) _ =>
    (List.zipWith (· ^^^ ·) (g.1 ++ [0]) (0 :: g.1.map (gfMul g.2)), gfMul g.2 2)) ([1], 1)).1.drop 1

/-- The parity symbols of a block's data symbols (PRESUMED, log 155: the first symbol has the highest power). -/
def fecParity (data : List Nat) : List Nat :=
  data.foldl (fun r d =>
    let f := d ^^^ r.headD 0
    List.zipWith (fun x g => x ^^^ gfMul f g) (r.drop 1 ++ [0]) fecGenerator) (List.replicate 22 0)

/-- The 234 data symbols of a block, ten bits each: the first holds header bits [9:0] (R259). A body shorter than 288 bytes is filled
with zeros. -/
def dataSymbols (header : Nat) (body : List Byte) : List Nat :=
  (List.range 234).map (fun i => bitsOf (header % 2 ^ 36 + leNat body * 2 ^ 36) (10 * i) 10)

/-- The 256 symbols of a block in the order in which they are sent. -/
def blockSymbols (header : Nat) (body : List Byte) : List Nat := dataSymbols header body ++ fecParity (dataSymbols header body)

/-- The lane on which block `num` of a port travels (R261). -/
def blockLane (s : State) (n num : Nat) : Nat :=
  let ls := lanesOf (rf s (F.UBVOR_PSTAT_LANES n))
  ls.getD (num % ls.length) 0

/-- The header of the next outgoing block of a port: ACK is the next block expected, or with NAK the block that failed (R259,
R270). -/
def outHeader (n kind : Nat) (cells : List Cell) (s : State) : Nat × State :=
  let p := portRt s n
  match p.nakDue with
  | some a => (blockHeader kind 1 cells a, setPortRt n { p with nakDue := none } s)
  | none => (blockHeader kind 0 cells p.rxNext, s)

/-- A DATA block leaves a port on the lane of its number (R259 to R261). -/
def emitBlock (n num : Nat) (cells : List Cell) (s : State) : State :=
  let h := outHeader n 0 cells s
  emit (.block n (blockLane s n num) num (blockSymbols h.1 (blockBody cells))) h.2

/-! ### Credits and arbitration (R288 to R291) -/

/-- A link-local packet (R283). -/
def localPkt (s : State) (typ : Nat) (words : List Nat) : Packet :=
  ⟨0, BitVec.ofNat 14 (selfId s), 0, 0, 0, 0, BitVec.ofNat 4 typ, 0, 0, words.flatMap (fun w => leBytes w 8), false, 0⟩

/-- The credit words of a port: the low bytes of the counts of cells freed, then the high bytes (R289). -/
def creditWords (s : State) (n : Nat) : List Nat :=
  let sum := fun (g : Nat → Nat) => (List.range 8).foldl (fun a v => a + g (vcRt s n v).freed * 2 ^ (8 * v)) 0
  [sum (fun c => c % 256), sum (fun c => c / 256 % 256)]

/-- A CREDIT packet is put before the cells that wait at a port; it takes no buffer and needs no credit (R283, R289). A port that
is MISSING or in no use carries none (R302). -/
def sendCredit (n : Nat) (s : State) : State :=
  let st := rf s (F.ROUTE_NBR_STATE n)
  if !portUp s n ∨ st = 0 ∨ st = 4 then s
  else
    let p := portRt s n
    let s' := setPortRt n { p with waitQ := p.waitQ ++ [⟨0, localPkt s 1 (creditWords s n), 0⟩] } s
    (List.range 8).foldl (fun s v => setVcRt n v { vcRt s n v with reported := (vcRt s n v).freed } s) s'

/-- Cells of a receive buffer are freed; 32 not yet reported send a CREDIT packet (R289). -/
def freeCells (m : Nat) (inp : Option (Nat × Nat)) (s : State) : State :=
  match inp with
  | none => s
  | some (n, v) =>
    let x := vcRt s n v
    let s := setVcRt n v { x with freed := (x.freed + m) % 65536 } s
    if 32 ≤ ((x.freed + m) % 65536 + 65536 - x.reported) % 65536 then sendCredit n s else s

/-- Shared cells that a port's channels have outstanding (R288). -/
def sharedOut (s : State) (n : Nat) : Nat := (List.range 8).foldl (fun a v => a + ((vcRt s n v).outst - 64)) 0

/-- Whether a channel has the credit for a cell: its reservation first, then the shared pool (R288). -/
def vcCredit (s : State) (n v : Nat) : Bool :=
  let x := vcRt s n v
  decide (x.outst < 64) || (decide (x.outst - 64 < rf s F.ROUTE_BUF_SHARE_MAX) && decide (sharedOut s n < 15872))

/-- Whether a port, or the other one of its bond, has narrowed and is not in MATCH again: no further routed packet begins (R302). -/
def rejoins (s : State) (n : Nat) : Bool :=
  (portRt s n).rejoin || (bonded s && n == ff s F.SEAM_PEER_BOND_A && (portRt s (ff s F.SEAM_PEER_BOND_B)).rejoin)

/-- Whether a channel has a cell ready, one of the packet it is bound to that has come (R294), and the credit to send it. -/
def vcReady (s : State) (n v : Nat) : Bool :=
  (match (vcRt s n v).queue with
   | e :: _ => decide (e.sent < e.got) && (e.sent != 0 || decide (e.pkt.typ.toNat < 4) || !rejoins s n)
   | [] => false) && vcCredit s n v

/-- The channel of a class that sends: set 1 before set 0 (R290). -/
def classVc (s : State) (n c : Nat) : Option Nat :=
  if vcReady s n (2 * c + 1) then some (2 * c + 1) else if vcReady s n (2 * c) then some (2 * c) else none

/-- The round-robin weight of a class (R290, R307). -/
def arbWeight (s : State) (c : Nat) : Nat :=
  match c with
  | 1 => rf s F.ROUTE_ARB_W_COL
  | 2 => rf s F.ROUTE_ARB_W_P2P
  | _ => rf s F.ROUTE_ARB_W_BULK

/-- The class that sends next among COL, P2P and BULK, and what is left of its weight as it is in force (R290). -/
def arbNext (s : State) (n : Nat) : Option (Nat × Nat) :=
  let p := portRt s n
  let k := p.arbClass
  if 0 < min p.arbLeft (arbWeight s k) ∧ (classVc s n k).isSome then some (k, min p.arbLeft (arbWeight s k) - 1)
  else
    let ready := [k % 3 + 1, (k + 1) % 3 + 1, (k + 2) % 3 + 1].filter (fun c => (classVc s n c).isSome)
    match ready.find? (fun c => arbWeight s c != 0), ready with
    | some c, _ => some (c, arbWeight s c - 1)
    | none, c :: _ => some (c, 0)
    | none, [] => none

/-- The cell at the head of a channel leaves: it counts as outstanding, its place in the receive buffer is freed, and a
finished packet leaves the queue (R288, R289, R294). -/
def takeVc (n v : Nat) (s : State) : Option (Cell × State) :=
  let x := vcRt s n v
  match x.queue with
  | [] => none
  | e :: es =>
    let q := if e.sent + 1 ≥ pktCells e.pkt then es else { e with sent := e.sent + 1 } :: es
    some (⟨v, e.pkt, e.sent⟩, freeCells 1 e.inp (setVcRt n v { x with queue := q, outst := x.outst + 1 } s))

/-- The next cell of an output port (R290): cells that wait, then CTL, then the other classes by weighted round-robin. -/
def nextCell (n : Nat) (s : State) : Option (Cell × State) :=
  let p := portRt s n
  match p.waitQ with
  | c :: cs => some (c, setPortRt n { p with waitQ := cs } s)
  | [] =>
    match classVc s n 0 with
    | some v => takeVc n v s
    | none =>
      match arbNext s n with
      | none => none
      | some (c, left) =>
        match classVc s n c with
        | none => none
        | some v => takeVc n v (setPortRt n { p with arbClass := c, arbLeft := left } s)

/-- Bobbin time in units of 1/256 ns (R332). -/
def stamp (s : State) : Nat := s.bob / 2 ^ 32 % 2 ^ 64

/-- A BOBBIN packet stamped as its block leaves: T1 of a request, T3 of an answer (R332). -/
def stamped (s : State) (p : Packet) : Packet :=
  let k := if (leNat (p.payload.take 8)) % 16 = 1 then 8 else 24
  { p with payload := p.payload.take k ++ leBytes (stamp s) 8 ++ p.payload.drop (k + 8) }

/-- The BOBBIN packet that waits at a port takes cell position 0 of a block when the CTL channel has credit (R332). -/
def bobbinCell (n : Nat) (s : State) : Option (Cell × State) :=
  let p := portRt s n
  match p.bobQ with
  | b :: bs =>
    if vcCredit s n 0 then
      let x := vcRt s n 0
      some (⟨0, stamped s b, 0⟩, setVcRt n 0 { x with outst := x.outst + 1 } (setPortRt n { p with bobQ := bs } s))
    else none
  | [] => none

/-- Up to `k` cells for one block. -/
def takeCells (n : Nat) : Nat → State → List Cell × State
  | 0, s => ([], s)
  | k + 1, s =>
    match nextCell n s with
    | none => ([], s)
    | some (c, s) =>
      let r := takeCells n k s
      (c :: r.1, r.2)

/-- The cells of one block (R260, R332). -/
def blockCells (n : Nat) (s : State) : List Cell × State :=
  match bobbinCell n s with
  | some (c, s) => let r := takeCells n 3 s; (c :: r.1, r.2)
  | none => takeCells n 4 s

/-- The port that the next block of a port's channels travels on: the blocks of a bond alternate between its ports (R347). -/
def blockPort (s : State) (n : Nat) : Nat :=
  if bonded s && n == ff s F.SEAM_PEER_BOND_A && s.bondSeq % 2 == 1 then ff s F.SEAM_PEER_BOND_B else n

/-- DATA blocks of up to four cells leave a port while cells are ready, the retry buffer has room and the port carries
traffic (R260, R261, R272). -/
def pumpPort (n : Nat) : Nat → State → State
  | 0, s => s
  | k + 1, s =>
    let m := blockPort s n
    let p := portRt s m
    if portState s m ≠ 6 ∨ 4096 ≤ p.retry.length ∨ p.narrowing then s
    else
      match blockCells n s with
      | ([], s) => s
      | (cells, s) =>
        let s := if bonded s && n == ff s F.SEAM_PEER_BOND_A then { s with bondSeq := s.bondSeq + 1 } else s
        let p := portRt s m
        let s := setPortRt m { p with txNext := (p.txNext + 1) % 65536, retry := p.retry ++ [(p.txNext, cells)] } s
        pumpPort n k (emitBlock m p.txNext cells s)

/-- The port of a bond whose turn it is, with no cell to send, sends a DATA block with VALID 0 (R347). In the model one such block goes
at each idle step (DESIGN CHOICE, log 49). -/
def idleBond (s : State) : State :=
  let m := blockPort s (ff s F.SEAM_PEER_BOND_A)
  let p := portRt s m
  if !bonded s || portState s m != 6 || p.narrowing || 4096 ≤ p.retry.length then s
  else
    emitBlock m p.txNext [] (setPortRt m { p with txNext := (p.txNext + 1) % 65536, retry := p.retry ++ [(p.txNext, [])] }
      { s with bondSeq := s.bondSeq + 1 })

/-- Cells that a port could send at most. -/
def portLoad (s : State) (n : Nat) : Nat :=
  (portRt s n).waitQ.length + (portRt s n).bobQ.length + (List.range 8).foldl (fun a v =>
    (vcRt s n v).queue.foldl (fun a e => a + pktCells e.pkt) a) 0

/-- One pass over the ports, each sending what it can. -/
def pumpOnce (s : State) : State := (List.range 12).foldl (fun s n => pumpPort n (portLoad s n) s) s

/-- Every port sends what it can; the second pass sends the CREDIT packets that the first one gave rise to. -/
def pump (s : State) : State := pumpOnce (pumpOnce s)

/-- An entry that takes turns with those of other descriptors: a COLL or P2P packet of this device that has not begun, and no
fence (R308, R317). -/
def takesTurn (e : VcEntry) : Bool :=
  e.inp.isNone && e.sent == 0 && (e.pkt.typ == 8 || e.pkt.typ == 9) && !(e.pkt.payload == [] && e.pkt.offset == 0xFFFFFFFF#32)

/-- Packets of one descriptor. -/
def oneTransfer (a b : VcEntry) : Bool := a.pkt.typ == b.pkt.typ && a.pkt.tag == b.pkt.tag && a.pkt.stag == b.pkt.stag

/-- An entry joins a queue: packet by packet in round-robin among the descriptors whose packets wait at its end (R308) (DESIGN CHOICE,
log 123), a link-local packet before those not yet begun, and otherwise last. -/
def joinQueue (e : VcEntry) (q : List VcEntry) : List VcEntry :=
  if takesTurn e then
    let tail := (q.reverse.takeWhile takesTurn).reverse
    let turn := fun (x : VcEntry) (l : List VcEntry) => (l.filter (oneTransfer x)).length
    let k := turn e tail
    let i := ((List.range tail.length).find? (fun i => match tail[i]? with
      | some x => decide (k < turn x (tail.take i))
      | none => false)).getD tail.length
    q.take (q.length - tail.length) ++ tail.take i ++ e :: tail.drop i
  else if e.pkt.typ.toNat < 4 then
    let k := (q.takeWhile (fun x => x.sent != 0 || decide (x.pkt.typ.toNat < 4))).length
    q.take k ++ e :: q.drop k
  else q ++ [e]

/-- A packet joins a channel's queue, with the cells of it that are here. -/
def enqueue (n v got : Nat) (inp : Option (Nat × Nat)) (p : Packet) (s : State) : State :=
  let x := vcRt s n v
  pump (setVcRt n v { x with queue := joinQueue ⟨p, 0, got, inp⟩ x.queue } s)

/-- A DISCOVER packet is sent on a port, on the CTL channel; a BOBBIN packet waits for cell position 0 of a block, on a port in
MATCH (R283, R302, R332) (DEDUCED, log 102). -/
def sendLocal (n typ : Nat) (words : List Nat) (s : State) : State :=
  if !portUp s n then s
  else if typ ≠ 3 then enqueue n 0 1 none (localPkt s typ words) s
  else if rf s (F.ROUTE_NBR_STATE n) ≠ 1 then s
  else
    let p := portRt s n
    pump (setPortRt n { p with bobQ := p.bobQ ++ [localPkt s typ words] } s)

/-! ### Routing (R283, R293) -/

/-- The classes a packet type allows (R283). -/
def classOk (typ tclass : Nat) : Bool :=
  if 1 ≤ typ ∧ typ ≤ 7 then tclass == 0
  else if typ = 8 ∨ typ = 9 then tclass != 0
  else if 10 ≤ typ ∧ typ ≤ 12 then tclass == 3
  else false

/-- A routed packet is consumed: counted for its epoch bit (R297). -/
def countCons (bit : BitVec 1) (s : State) : State := bump (if bit = 0 then F.ROUTE_CONS0 else F.ROUTE_CONS1) 1 s

/-- A routed packet is consumed (R297). -/
def consume (p : Packet) (s : State) : State := countCons p.epochBit s

/-- The first drop of any kind latches DST and the cause (R293). -/
def latchDrop (p : Packet) (cause : Nat) (s : State) : State :=
  if rf s F.ROUTE_DROP_FIRST_VALID = 1 then s
  else put F.ROUTE_DROP_FIRST_VALID 1 (put F.ROUTE_DROP_FIRST_CAUSE cause (put F.ROUTE_DROP_FIRST_DST p.dst.toNat s))

/-- Of a packet that this device has injected, all cells are here; of one that arrives, `here` (R294). -/
def cellsHere (here : Nat) (inp : Option (Nat × Nat)) (p : Packet) : Nat := if inp.isSome then min here (pktCells p) else pktCells p

/-- What becomes of the cells of a packet that arrives, until its tail cell has come (R294). -/
def setArr (here : Nat) (dest : CellsTo) (inp : Option (Nat × Nat)) (p : Packet) (s : State) : State :=
  match inp with
  | none => s
  | some (n, v) => setVcRt n v { vcRt s n v with arr := if here < pktCells p then some ⟨p, here, dest⟩ else none } s

/-- The cells of a packet leave the receive buffer: those that are here now, and the others as they come. -/
def endCells (here : Nat) (inp : Option (Nat × Nat)) (p : Packet) (s : State) : State :=
  freeCells (cellsHere here inp p) inp (setArr here .gone inp p s)

/-- A routed packet is dropped whole, counted, and consumed (R293, R297). -/
def dropPkt (f : Fld) (cause here : Nat) (inp : Option (Nat × Nat)) (p : Packet) (s : State) : State :=
  endCells here inp p (consume p (latchDrop p cause (bump f 1 s)))

/-- The dateline set on the output link (R291). `inp` is the input port and its set, none where the packet is injected. -/
def outSet (s : State) (e : Nat) (inp : Option (Nat × Nat)) (setop out : Nat) : Nat :=
  let set := match inp with | some i => i.2 | none => 0
  match setop with
  | 1 => 0
  | 2 => 1
  | 3 => set
  | _ =>
    let a := portAttr s e out
    let base := match inp with
      | none => 0
      | some i => if (portAttr s e i.1).1 ≠ a.1 then 0 else set
    if a.2 = 1 then 1 else base

/-- A routed packet that is not for this device leaves by its table, or is dropped (R293 items 3 to 5, R300). `inp` is the
input port and channel, `here` its cells that have come. A packet for a port that carries no routed traffic is dropped and
consumed (DESIGN CHOICE, log 46). -/
def routeOut (here : Nat) (inp : Option (Nat × Nat)) (p : Packet) (s : State) : State :=
  let e := p.epochBit.toNat
  let t := tableEntry s e p.dst.toNat
  let port := t % 16
  if inp.isSome ∧ p.ttl = 0 then dropPkt F.ROUTE_TTL_DROP 1 here inp p s
  else if tableState s e = 0 ∨ 12 ≤ port then dropPkt F.ROUTE_NOROUTE 0 here inp p s
  else if quarantined s port then dropPkt F.ROUTE_QUAR_DROP 2 here inp p s
  else
    let n := carrier s port
    if !portUp s n ∨ !joined s n then endCells here inp p (consume p s)
    else
      let v := 2 * p.tclass.toNat + outSet s e (inp.map (fun i => (i.1, i.2 % 2))) (t / 16 % 4) port
      let q := if inp.isSome then { p with ttl := p.ttl - 1 } else p
      enqueue n v (cellsHere here inp p) inp q (setArr here (.queue n v) inp q s)

/-- The last packet of a channel's queue that came in by an input changes. -/
def modQueued (o w : Nat) (inp : Nat × Nat) (f : VcEntry → VcEntry) (s : State) : State :=
  let x := vcRt s o w
  let r := x.queue.reverse
  let i := r.findIdx (fun e => e.inp == some inp)
  setVcRt o w { x with queue := (r.modify i f).reverse } s

/-- The fences of a class that a neighbour has sent ahead of this device's own discards (R317). -/
def fencesAhead (s : State) (src cls : Nat) : Nat := (s.fenceGot.filter (· == (src, cls))).length

/-- A further cell of the packet that arrives on an input channel: it goes on, its place is freed, or it waits (R294, R317, R351). -/
def moreCell (n v : Nat) (s : State) : State :=
  match (vcRt s n v).arr with
  | none => s
  | some a =>
    let s := setArr (a.came + 1) a.dest (some (n, v)) a.pkt s
    match a.dest with
    | .queue o w => pump (modQueued o w (n, v) (fun e => { e with got := e.got + 1 }) s)
    | .gone => freeCells 1 (some (n, v)) s
    | .kept k => { s with fenceHeld := s.fenceHeld ++ [⟨n, v, 1, k, none⟩] }
    | .seam =>
      let r := s.seamHeld.reverse
      { s with seamHeld := (r.modify (r.findIdx (fun h => h.port == n && h.vc == v)) (fun h => { h with cells := h.cells + 1 })).reverse }

/-- A packet enters the router from this device: counted under its epoch bit, and routed (R280, R297) (DEDUCED, log 93). -/
def launch (p : Packet) (s : State) : State :=
  let e := epochBit s
  let p := { p with epochBit := BitVec.ofNat 1 e, ttl := BitVec.ofNat 8 (rf s F.ROUTE_CTL_TTL) }
  let s := emit (.pkt p) (bump (if e = 0 then F.ROUTE_INJ0 else F.ROUTE_INJ1) 1 s)
  if p.dst.toNat = selfId s then consume p s else routeOut 0 none p s

/-- Whether new packets of a class are held at injection (R297). -/
def holdsNew (s : State) (tclass : Nat) : Bool :=
  tclass != 0 && rf s F.ROUTE_CTL_HOLD_NEW == 1 && (drainingBit s).isSome

/-- A routed packet is injected (R280, R282, R297). An unassigned device injects nothing. -/
def inject (dst tclass typ stag tag offset : Nat) (payload : List Byte) (abort : Nat) (s : State) : State :=
  if !assigned s then s
  else
    let p : Packet := { dst := BitVec.ofNat 14 dst, src := BitVec.ofNat 14 (selfId s), tclass := BitVec.ofNat 2 tclass,
                        epochBit := 0, stag := BitVec.ofNat 2 stag, ttl := 0, typ := BitVec.ofNat 4 typ,
                        tag := BitVec.ofNat 32 tag, offset := BitVec.ofNat 32 offset, payload := payload,
                        abort := decide (abort ≠ 0), abortCause := BitVec.ofNat 3 abort }
    if holdsNew s tclass then { s with injHeld := s.injHeld ++ [p] } else launch p s

/-- Packets held at injection go out once nothing drains (R297). -/
def releaseHeld (s : State) : State :=
  if (drainingBit s).isSome then s
  else s.injHeld.foldl (fun s p => launch p s) { s with injHeld := [] }

/-- A stream of bytes cut into packets of at most 4,072 bytes (R281), from a byte position on; OFFSET counts 8 bytes. -/
def injectBytes (dst tclass typ stag tag : Nat) : Nat → Nat → List Byte → State → State
  | 0, _, _, s => s
  | n + 1, pos, bs, s =>
    if bs = [] then s
    else injectBytes dst tclass typ stag tag n (pos + 4072) (bs.drop 4072)
      (inject dst tclass typ stag tag (pos / 8) (bs.take 4072) 0 s)

/-! ### Classification and discovery (R301, R302) -/

/-- A packet leaves an output queue unsent: its cells that are here are freed, and those that still come will be. -/
def leaveQueue (e : VcEntry) (s : State) : State :=
  let s := freeCells (e.got - e.sent) e.inp s
  match e.inp with
  | none => s
  | some (n, v) =>
    match (vcRt s n v).arr with
    | some a => if e.got < pktCells e.pkt then setVcRt n v { vcRt s n v with arr := some { a with dest := .gone } } s else s
    | none => s

/-- Routed packets of a port that has become quarantined, or that carries nothing now, are dropped, but for those already begun, and its
BOBBIN packets go (DESIGN CHOICE, log 46). -/
def purgePort (n : Nat) (s : State) : State :=
  (List.range 8).foldl (fun s v =>
    let x := vcRt s n v
    let gone := x.queue.filter (fun e => e.sent == 0 && 4 ≤ e.pkt.typ.toNat)
    let s := setVcRt n v { x with queue := x.queue.filter (fun e => !(e.sent == 0 && 4 ≤ e.pkt.typ.toNat)) } s
    gone.foldl (fun s e => leaveQueue e (consume e.pkt (if quarantined s n then latchDrop e.pkt 2 (bump F.ROUTE_QUAR_DROP 1 s) else s))) s)
    (setPortRt n { portRt s n with bobQ := [] } s)

/-- The class of a port against its plan (R302). -/
def portClass (s : State) (n : Nat) : Nat :=
  let use := ff s (F.ROUTE_PLAN_USE n)
  let act := portState s n == 6
  if use = 0 then (if act then 2 else 0)
  else if !act || !(portRt s n).discovered then 4
  else if use = 1 then
    (if rf s (F.ROUTE_NBR_PEER_ASSIGNED n) = 1 ∧ rf s (F.ROUTE_NBR_PEER_ID n) = ff s (F.ROUTE_PLAN_EXPECT_ID n)
        ∧ rf s (F.ROUTE_NBR_PEER_PORT n) = ff s (F.ROUTE_PLAN_EXPECT_PORT n) then 1 else 3)
  else if use = 2 then (if rf s (F.ROUTE_NBR_PEER_ASSIGNED n) = 0 then 1 else 3)
  else 3

/-- A port that narrowed while in MATCH is classified again: what has come meanwhile is reported when it is in MATCH once more, and what
waits is dropped when it carries nothing now (R269, R302). -/
def rejoin (n c : Nat) (s : State) : State :=
  if !(portRt s n).rejoin || c == 4 then s
  else
    let s := setPortRt n { portRt s n with rejoin := false } s
    if c = 1 then (if (List.range 8).all (fun v => (vcRt s n v).freed == (vcRt s n v).reported) then s else sendCredit n s)
    else if c = 0 then purgePort n s
    else s

/-- Both counts of a bond's blocks begin at 0 when the bond forms (R347). -/
def bondForms (was : Bool) (s : State) : State := if !was && bonded s then { s with bondSeq := 0, bondRx := 0 } else s

/-- A port is classified again (R302). -/
def classify (n : Nat) (s : State) : State :=
  let c := portClass s n
  let s := bondForms (bonded s) (rejoin n c (put (F.ROUTE_NBR_STATE n) c s))
  pump (if quarantined s n then purgePort n s else s)

/-- A DISCOVER packet is sent on a port (R301). -/
def sendDiscover (n : Nat) (s : State) : State :=
  sendLocal n 2 [selfId s + ff s F.ROUTE_ID_VALID * 2 ^ 14 + n * 2 ^ 16 + epochBit s * 2 ^ 20] s

/-! ### A port leaves ACTIVE (R262, R275, R289, R300) -/

/-- A cut packet as it is completed downstream: what has arrived, filler of zeros up to LEN, and ABORT with a cause (R300). -/
def cutPkt (p : Packet) (cells cause : Nat) : Packet :=
  let came := 64 * cells - 16
  { p with payload := p.payload.take came ++ List.replicate (p.payload.length - came) 0,
           abort := true, abortCause := BitVec.ofNat 3 cause }

/-- The packet that arrives on an input channel will not wholly come: it is completed where it waits to leave, with filler up to its
tail (R300). -/
def cutArriving (n v cause : Nat) (s : State) : State :=
  match (vcRt s n v).arr with
  | none => s
  | some a =>
    match a.dest with
    | .queue o w => modQueued o w (n, v) (fun e => { e with pkt := cutPkt e.pkt a.came cause, got := pktCells e.pkt }) s
    | _ => s

/-- The receive buffer of a port is gone: packets that came in by it and wait to leave hold no place there any longer. -/
def leaveInput (n : Nat) (s : State) : State :=
  { s with
    vcs := s.vcs.map (fun x => (x.1, { x.2 with queue := x.2.queue.map (fun e =>
      match e.inp with
      | some i => if i.1 = n then { e with inp := none } else e
      | none => e) }))
    fenceHeld := s.fenceHeld.map (fun h => if h.port = n then { h with cells := 0 } else h)
    seamHeld := s.seamHeld.map (fun h => if h.port = n then { h with cells := 0 } else h) }

/-- Packets that wait to leave by a port: those begun are ended, the others are dropped and counted as consumed (R300). -/
def endQueues (n : Nat) (s : State) : State :=
  (List.range 8).foldl (fun s v =>
    let q := (vcRt s n v).queue
    let s := q.foldl (fun s e =>
      let s := leaveQueue e s
      if e.sent = 0 ∧ 4 ≤ e.pkt.typ.toNat then consume e.pkt s else s) s
    setVcRt n v vcFresh s) s

/-- Packets begun on a bond, when one of its ports is lost: those that are leaving are ended, and those that are arriving are
completed (R347). -/
def cutBond (n cause : Nat) (s : State) : State :=
  let a := ff s F.SEAM_PEER_BOND_A
  if !bonded s || n == a || n != ff s F.SEAM_PEER_BOND_B then s
  else (List.range 8).foldl (fun s v =>
    let s := cutArriving a v cause s
    let s := setVcRt a v { vcRt s a v with arr := none } s
    match (vcRt s a v).queue with
    | e :: es => if e.sent = 0 then s else leaveQueue e (setVcRt a v { vcRt s a v with queue := es } s)
    | [] => s) s

/-- The first port of a bond is lost: the packets that wait for the bond and have not begun go to the surviving port, with the
cells of theirs that still come (R347). -/
def moveBond (n : Nat) (s : State) : State :=
  let a := ff s F.SEAM_PEER_BOND_A
  let b := ff s F.SEAM_PEER_BOND_B
  if !bonded s || n != a then s
  else (List.range 8).foldl (fun s v =>
    let goes := fun (e : VcEntry) => e.sent == 0 && decide (4 ≤ e.pkt.typ.toNat)
    let x := vcRt s a v
    let moved := x.queue.filter goes
    let s := setVcRt b v { vcRt s b v with queue := (vcRt s b v).queue ++ moved }
      (setVcRt a v { x with queue := x.queue.filter (fun e => !goes e) } s)
    { s with vcs := s.vcs.map (fun y => (y.1, { y.2 with arr := y.2.arr.map (fun r =>
        if r.dest = .queue a v ∧ moved.any (fun e => e.inp == some (y.1 / 8, y.1 % 8)) then { r with dest := .queue b v } else r) })) }) s

/-- A port loses its traffic: packets that had come in part are completed, those begun are ended, and the retry buffer and every
count go (R273, R289, R300). Samples of R276 stay. -/
def killPort (n cause : Nat) (s : State) : State :=
  let s := moveBond n (cutBond n cause s)
  let s := leaveInput n ((List.range 8).foldl (fun s v => cutArriving n v cause s) s)
  let p := portRt s n
  endQueues n (setPortRt n { portFresh with samples := p.samples, warned := p.warned, deadSaid := p.deadSaid } s)

/-- A port enters a training state, or DARK: nothing of PSTAT but STATE, FAULT and RETRAIN_PEND stays (R262, R278). -/
def portTo (n st : Nat) (s : State) : State :=
  classify n (put (F.UBVOR_PSTAT_LANES n) 0 (put (F.UBVOR_PSTAT_WIDTH n) 0 (put (F.UBVOR_PSTAT_GEN n) 0
    (put (F.UBVOR_PSTAT_STATE n) st s))))

/-- Whether a port stays DARK however it is enabled: its domain is off, or its PORT table has not been started, runs, or has failed
(R439, R441). -/
def portBarred (s : State) (n : Nat) : Bool :=
  !s.rtrUp || (1 ≤ s.rst.phase && s.rst.phase ≤ 3) || s.tables.any (fun t => t.table == 3 && t.unit == n)

/-- A full training starts: the set-up word is taken, and the port is in LIGHT, or DARK while it is disabled (R262, R275). -/
def startTraining (n : Nat) (cause : Nat) (s : State) : State :=
  let s := killPort n cause s
  let s := setPortRt n { portRt s n with cfg := (rdReg s (R.UBVOR_PCFG n)).toNat } s
  portTo n (if rf s (F.UBVOR_PCFG_ENABLE n) = 1 ∧ !portBarred s n then 1 else 0) (put (F.UBVOR_PSTAT_RETRAIN_PEND n) 0 s)

/-- Trainings that waited for no live step start (R275). -/
def retrainDue (s : State) : State :=
  if s.steps ≠ [] then s
  else (List.range 12).foldl (fun s n => if rf s (F.UBVOR_PSTAT_RETRAIN_PEND n) = 1 then startTraining n 1 s else s) s

end Sys2Proof.Machine
end

