-- ==== Sys2Proof/Machine/Operands.lean ====
section
/-!
DEFINITION. Tensors (R59 to R63, R101 to R106, R189, R343): the entry of a handle, the checks a descriptor's tensors must
pass, where an element lies, reading an element as an exact value and writing elements with one conversion each.
-/
namespace Sys2Proof.Machine

/-- A tensor as its entry gives it (R59), with absent dimensions of extent 1. -/
structure Tensor where
  handle : Nat
  base0 : Nat
  fmtCode : Nat
  layout : Nat
  rank : Nat
  mxdim : Nat
  versioned : Bool
  stepInput : Bool
  base1 : Nat
  region : Nat
  d0 : Nat
  d1 : Nat
  d2 : Nat
  d3 : Nat
  s1 : Nat
  s2 : Nat
  s3 : Nat
  scaleBase : Nat
  reserved : Nat
  deriving DecidableEq, Repr

/-- The tensor entry of a handle of a context, read from host memory (R59). -/
def tensorEntry (s : State) (ctx h : Nat) : Tensor :=
  let a := rf s (F.CTX_TT_BASE ctx) + 64 * h
  let w := fun i => (hostWord s (a + 8 * i)).toNat
  let rank := bitsOf (w 0) 58 2
  { handle := h, base0 := bitsOf (w 0) 0 48, fmtCode := bitsOf (w 0) 48 8, layout := bitsOf (w 0) 56 2,
    rank := rank, mxdim := bitsOf (w 0) 60 1, versioned := bitsOf (w 0) 61 1 == 1,
    stepInput := bitsOf (w 0) 62 1 == 1, base1 := bitsOf (w 1) 0 48, region := bitsOf (w 1) 48 4,
    d0 := bitsOf (w 2) 0 32, d1 := if 1 ≤ rank then bitsOf (w 2) 32 32 else 1,
    d2 := if 2 ≤ rank then bitsOf (w 3) 0 32 else 1, d3 := if 3 ≤ rank then bitsOf (w 3) 32 32 else 1,
    s1 := bitsOf (w 4) 0 48, s2 := bitsOf (w 5) 0 48, s3 := bitsOf (w 6) 0 48,
    scaleBase := bitsOf (w 7) 0 48,
    reserved := bitsOf (w 0) 63 1 + bitsOf (w 1) 52 12 + bitsOf (w 4) 48 16 + bitsOf (w 5) 48 16
      + bitsOf (w 6) 48 16 + bitsOf (w 7) 48 16 }

/-- The format of a tensor; a code no revision defines reads as FP32 and is refused before use (R60). -/
def tFmt (t : Tensor) : Fmt := (fmtOfCode t.fmtCode).getD .fp32

/-- Elements of a tensor up to RANK (R514). -/
def tCount (t : Tensor) : Nat := t.d0 * t.d1 * t.d2 * t.d3

/-- Bytes of the scale array of a blocked tensor (R105). -/
def tScaleBytes (t : Tensor) : Nat := if fmtBlocked (tFmt t) then tCount t / 32 else 0

/-- The side of a tile of a layout; 0 for LINEAR (R61). -/
def tileSide (t : Tensor) : Nat := if t.layout = 1 then 64 else if t.layout = 2 then 128 else 0

/-- Bytes from the base to the end of the last byte of elements or tile padding (R61, R103, R189). -/
def tSpan (t : Tensor) : Nat :=
  let b := fmtBits (tFmt t)
  let outer := (t.d2 - 1) * (if 2 ≤ t.rank then t.s2 else 0) + (t.d3 - 1) * (if 3 ≤ t.rank then t.s3 else 0)
  if tCount t = 0 then 0
  else if tileSide t = 0 then
    outer + (t.d1 - 1) * (if 1 ≤ t.rank then t.s1 else 0) + (t.d0 * b + 7) / 8
  else
    let T := tileSide t
    outer + ((t.d1 + T - 1) / T - 1) * (if 1 ≤ t.rank then t.s1 else 0) + (t.d0 + T - 1) / T * (T * T * b / 8)

/-- The indices of a logical position, DIM0 fastest (R514). -/
def tIndex (t : Tensor) (pos : Nat) : Nat × Nat × Nat × Nat :=
  (pos % t.d0, pos / t.d0 % t.d1, pos / (t.d0 * t.d1) % t.d2, pos / (t.d0 * t.d1 * t.d2))

/-- The base of a tensor for a descriptor: the version its step tag selects in overlap mode (R63). -/
def tBase (s : State) (t : Tensor) (stag : Nat) : Nat :=
  if t.versioned && rf s F.STEPCFG_CTL_OVERLAP == 1 && stag % 2 == 1 then t.base1 else t.base0

/-- The scale array of the version in use (R63). -/
def tScaleOf (t : Tensor) (base : Nat) : Nat := t.scaleBase + base - t.base0

/-- The bit address of an element (R61, R103). -/
def elemBitAddr (t : Tensor) (base pos : Nat) : Nat :=
  let b := fmtBits (tFmt t)
  let i := tIndex t pos
  let outer := base + i.2.2.1 * t.s2 + i.2.2.2 * t.s3
  if tileSide t = 0 then 8 * (outer + i.2.1 * t.s1) + i.1 * b
  else
    let T := tileSide t
    8 * (outer + i.2.1 / T * t.s1 + i.1 / T * (T * T * b / 8) + i.2.1 % T * (T * b / 8)) + i.1 % T * b

/-- The byte address of an element's scale (R105). -/
def elemScaleAddr (t : Tensor) (base pos : Nat) : Nat :=
  let i := tIndex t pos
  tScaleOf t base +
    (if t.mxdim = 0 then ((i.2.2.2 * t.d2 + i.2.2.1) * t.d1 + i.2.1) * (t.d0 / 32) + i.1 / 32
     else ((i.2.2.2 * t.d2 + i.2.2.1) * (t.d1 / 32) + i.2.1 / 32) * t.d0 + i.1)

/-- A run of bits of device memory. -/
def memBits (s : State) (bit n : Nat) : Nat := bitsOf (memNat s (bit / 8) 5) (bit % 8) n

/-- The words an element's bits and scale lie in. -/
def elemWords (t : Tensor) (base pos : Nat) : List Nat :=
  let b := elemBitAddr t base pos
  let ws := [b / 64, (b + fmtBits (tFmt t) - 1) / 64]
  if fmtBlocked (tFmt t) then ws ++ [elemScaleAddr t base pos / 8] else ws

/-- The value of an element (R101, R106); none when it depends on an uncorrectable word (R237). -/
def elemGet (s : State) (bad : List Nat) (t : Tensor) (base pos : Nat) : Option FV :=
  if bad != [] && (elemWords t base pos).any (fun w => bad.contains w) then none
  else
    let sc := if fmtBlocked (tFmt t) then (memGet s (elemScaleAddr t base pos)).toNat else 0
    some (elemValue (tFmt t) sc (memBits s (elemBitAddr t base pos) (fmtBits (tFmt t))))

/-- The elements at positions `ps` are read and checked: every stored word they lie in (R234, R237). -/
def checkElems (t : Tensor) (base : Nat) (ps : List Nat) (s : State) : State × List Nat :=
  if s.syn = [] then (s, [])
  else checkWords (fun w => ps.any (fun p => (elemWords t base p).contains w)) s

/-- A run of bits set in memory. -/
def setBits (bit n v : Nat) (s : State) : State :=
  let old := memNat s (bit / 8) 5
  memWrite (bit / 8) (leBytes (withBits old (bit % 8) n v) ((bit % 8 + n + 7) / 8)) s

/-- How many bits of a word a list of (bit address, width, value) writes covers. -/
def coverOf (w : Nat) (fs : List (Nat × Nat × Nat)) : Nat :=
  fs.foldl (fun a f =>
    a + (min (f.1 + f.2.1) (64 * w + 64) - max f.1 (64 * w))) 0

/-- A producer writes bit fields: a word covered whole gets new Tack, a word covered in part is checked and merged, and is
left as it is when uncorrectable (R216, R233). Answers the words not written. -/
def storeFields (fs : List (Nat × Nat × Nat)) (s : State) : State × List Nat :=
  let hit := fun w => fs.any (fun f => f.1 < 64 * w + 64 && 64 * w < f.1 + f.2.1)
  let r := if s.syn = [] then (s, []) else checkWords (fun w => hit w && coverOf w fs < 64) s
  let s := { r.1 with syn := r.1.syn.filter (fun e => !(hit e.1 && !r.2.contains e.1)) }
  (fs.foldl (fun s f =>
      if r.2.contains (f.1 / 64) || r.2.contains ((f.1 + f.2.1 - 1) / 64) then s
      else setBits f.1 f.2.1 f.2.2 s) s, r.2)

/-- The positions of the block of 32 that holds a position, in block order (R104). -/
def blockPositions (t : Tensor) (pos : Nat) : List Nat :=
  let i := tIndex t pos
  let row := (i.2.2.2 * t.d2 + i.2.2.1) * t.d1
  if t.mxdim = 0 then (List.range 32).map (fun k => (row + i.2.1) * t.d0 + i.1 / 32 * 32 + k)
  else (List.range 32).map (fun k => (row + i.2.1 / 32 * 32 + k) * t.d0 + i.1)

/-- The values a list of (position, value) pairs gives to positions; none where one is missing or unknown. -/
def valuesAt (vs : List (Nat × Option FV)) : List Nat → Option (List FV)
  | [] => some []
  | p :: ps =>
    match vs.find? (fun v => v.1 == p) with
    | some (_, some x) => (valuesAt vs ps).map (x :: ·)
    | _ => none

/-- The bit fields that write elements with one conversion each (R107 to R110): elements of unknown value are not written,
and a block is written when all 32 of its elements are given. -/
def elemFields (t : Tensor) (base : Nat) (vs : List (Nat × Option FV)) : List (Nat × Nat × Nat) :=
  let b := fmtBits (tFmt t)
  if fmtBlocked (tFmt t) then
    (vs.filter (fun v => (blockPositions t v.1).head? == some v.1)).flatMap (fun v =>
      let ps := blockPositions t v.1
      match valuesAt vs ps with
      | none => []
      | some xs =>
        let c := convertBlock (tFmt t) xs
        (8 * elemScaleAddr t base v.1, 8, c.1) ::
          (ps.zip c.2).map (fun e => (elemBitAddr t base e.1, b, e.2)))
  else
    vs.filterMap (fun v => v.2.map (fun x => (elemBitAddr t base v.1, b, fpEncode (tFmt t) x)))

/-- Elements of a tensor are written (R120, R127). Answers the words that could not be merged. -/
def storeElems (t : Tensor) (base : Nat) (vs : List (Nat × Option FV)) (s : State) : State × List Nat :=
  storeFields (elemFields t base vs) s

/-- The runs of bits that elements and their scales lie in. -/
def elemRuns (t : Tensor) (base : Nat) (ps : List Nat) : List (Nat × Nat) :=
  ps.flatMap (fun p => (elemBitAddr t base p, fmtBits (tFmt t))
    :: (if fmtBlocked (tFmt t) then [(8 * elemScaleAddr t base p, 8)] else []))

/-- An agent reads elements: the access (R192, R218), and the check of every word (R234, R237). -/
def readElems (k : Traffic) (t : Tensor) (base : Nat) (ps : List Nat) (s : State) : State × List Nat :=
  checkElems t base ps (access k (t.region == 1) false (elemRuns t base ps) s)

/-- An agent writes elements: the access, and the words. -/
def writeElems (k : Traffic) (t : Tensor) (base : Nat) (vs : List (Nat × Option FV)) (s : State) : State × List Nat :=
  let fs := elemFields t base vs
  storeFields fs (access k (t.region == 1) true (fs.map (fun f => (f.1, f.2.1))) s)

/-- The traffic of a collective engine on a tensor: that of region STAGING allocates (R192). -/
def collTraffic (t : Tensor) : Traffic := if t.region == 4 then .collStage else .coll

/-! ### Checks of the tensors a descriptor names -/

/-- The cause code of a bad handle, a format, a shape and so on (R96). -/
def cBadHandle : Nat := 0x07
/-- SHAPE (R96). -/
def cShape : Nat := 0x08
/-- FORMAT (R96). -/
def cFormat : Nat := 0x09

/-- Whether a format code exists under a revision (R60, R97). -/
def fmtDefined (rev code : Nat) : Bool :=
  match fmtOfCode code with
  | none => false
  | some .mxfp8E4M3 | some .mxfp8E5M2 => 2 ≤ rev
  | some .mxfp6E2M3 | some .mxfp6E3M2 | some .mxfp4E2M1 | some .be8 => 3 ≤ rev
  | some _ => true

/-- Whether bytes lie in HBM below the reserved range (R209). -/
def inHbm (a n : Nat) : Bool := a + n ≤ 0x00BFC0000000

/-- Whether bytes lie in one ADDRESSED partition, which the context owns (R189). -/
def inPart (s : State) (ctx p a n : Nat) : Bool :=
  0xF00000000000 + p * 0x1000000 ≤ a && a + n ≤ 0xF00000000000 + (p + 1) * 0x1000000
    && ff s (F.SSTORE_PCFG_MODE p) == 1 && ff s (F.SSTORE_PCFG_OWNER p) == ctx

/-- Whether ranges of bytes all lie in HBM, or all in a single partition that the context owns (R189). -/
def reachable (s : State) (ctx : Nat) (rs : List (Nat × Nat)) : Bool :=
  rs.all (fun r => inHbm r.1 r.2) || (List.range 16).any (fun p => rs.all (fun r => inPart s ctx p r.1 r.2))

/-- Whether bytes lie within a region. -/
def within (base size a n : Nat) : Bool := base ≤ a && a + n ≤ base + size

/-- The byte ranges of a tensor: elements of each version, and their scales (R63, R189). -/
def tRanges (t : Tensor) : List (Nat × Nat) :=
  let one := fun b => (b, tSpan t) :: (if fmtBlocked (tFmt t) then [(tScaleOf t b, tScaleBytes t)] else [])
  if t.versioned then one t.base0 ++ one t.base1 else one t.base0

/-- The cause for which a tensor named by a handle is refused, if any (R59 to R62, R104, R189, R343). -/
def tensorCause (s : State) (ctx rev h : Nat) : Option Nat :=
  if h = 0 ∨ rf s (F.CTX_TT_COUNT_COUNT ctx) ≤ h then some cBadHandle
  else
    let t := tensorEntry s ctx h
    let misaligned := t.base0 % 64 != 0 || (1 ≤ t.rank && t.s1 % 64 != 0) || (2 ≤ t.rank && t.s2 % 64 != 0)
      || (3 ≤ t.rank && t.s3 % 64 != 0) || (t.versioned && t.base1 % 64 != 0)
    if misaligned || t.layout == 3 || 5 ≤ t.region || t.reserved != 0 || (t.versioned && rev < 3) then
      some cBadHandle
    else if !fmtDefined rev t.fmtCode then some cFormat
    else if fmtBlocked (tFmt t) && t.scaleBase % 64 != 0 then some cBadHandle
    else if fmtBlocked (tFmt t) && (if t.mxdim = 0 then t.d0 else t.d1) % 32 != 0 then some cFormat
    else
      let rs := tRanges t
      let must := t.region == 1 || t.region == 2
      if !reachable s ctx rs || (must && rs.any (fun r => !inHbm r.1 r.2)) then
        some cBadHandle
      else if t.region == 1 && rs.any (fun r =>
          !within (ff s F.SEAM_STATE_BASE) (ff s F.SEAM_STATE_SIZE_BYTES) r.1 r.2) then some cBadHandle
      else none

/-- Whether elements `[st, st + c)` cover whole blocks of a blocked tensor (R517); true of other formats. -/
def wholeBlocks (t : Tensor) (st c : Nat) : Bool :=
  !fmtBlocked (tFmt t) ||
    (if t.mxdim = 0 then st % 32 == 0 && c % 32 == 0 else st % (32 * t.d0) == 0 && c % (32 * t.d0) == 0)

/-- The bytes of elements and scales of a tensor, as the working set counts them (R146). -/
def tBytes (t : Tensor) : Nat := (tCount t * fmtBits (tFmt t) + 7) / 8 + tScaleBytes t

/-- Handles named as inputs and as outputs by a descriptor (R66), by class and operation (R76, R81, R82, R84, R85, R89). -/
def dHandles (d : Desc) : List Nat × List Nat :=
  let w := dWord d
  let h := fun i k => bitsOf (w i) (16 * k) 16
  let nz := fun l : List Nat => l.filter (· != 0)
  match dClass d with
  | 0 =>
    let epi := bitsOf (w 3) 42 4
    let ins := [h 1 0, h 1 1] ++ (if epi = 1 ∨ epi = 2 ∨ epi = 4 then [h 1 3] else [])
      ++ (if bitsOf (w 3) 40 2 = 0 then [] else [h 4 0])
      ++ (if bitsOf (w 2) 54 1 = 1 then [h 1 2] else [])
    (nz ins, nz ([h 1 2] ++ (if epi = 3 ∨ epi = 4 then [h 4 1] else [])))
  | 1 =>
    if dOp d ≤ 3 then (nz [h 1 0, h 1 2, h 1 3], nz [h 1 1, h 2 3])
    else (nz [h 1 0, h 1 2, h 1 3, h 2 0, h 2 3], nz [h 1 1, h 2 1, h 2 2])
  | 2 =>
    let gate := bitsOf (w 2) 40 4 = 6 ∨ bitsOf (w 2) 40 4 = 7
    match dOp d with
    | 1 | 2 => (nz [h 1 0, h 1 1], nz [h 1 2])
    | 5 => (nz [h 1 0], nz ([h 1 2] ++ (if gate then [h 1 3] else [])))
    | 6 => (nz ([h 1 0, h 1 1] ++ (if gate then [h 1 3] else [])), nz [h 1 2])
    | _ => (nz [h 1 0], nz [h 1 2])
  | 3 =>
    if dOp d = 5 then (nz [h 1 0], [])
    else if dOp d = 6 then ([], nz [h 1 1])
    else if bitsOf (w 2) 6 2 = 0 then (nz [h 1 0], nz [h 1 1])
    else (nz [h 1 0, h 1 2], nz [h 1 1, h 1 2])
  | 4 =>
    match dOp d with
    | 1 => ([], nz [h 2 3])
    | 2 => (nz [h 2 3], [])
    | _ => (nz [h 1 3], nz [h 2 3])
  | 5 =>
    if dOp d = 8 then
      (nz [h 1 0, h 1 1, h 1 2, h 1 3, h 2 0, h 2 1], [])
    else ([], [])
  | _ => ([], [])

/-- The byte ranges of a tensor that a descriptor of a step tag uses: the version it selects, with its scales (R63). -/
def usedRanges (s : State) (ctx stag h : Nat) : List (Nat × Nat) :=
  let t := tensorEntry s ctx h
  let b := tBase s t stag
  (b, tSpan t) :: (if fmtBlocked (tFmt t) then [(tScaleOf t b, tScaleBytes t)] else [])

/-- Byte ranges of the tensors a descriptor reads, and of those it writes. -/
def descRanges (s : State) (d : Desc) : List (Nat × Nat) × List (Nat × Nat) :=
  let hs := dHandles d
  (hs.1.flatMap (usedRanges s d.ctx (dStag d)), hs.2.flatMap (usedRanges s d.ctx (dStag d)))

/-- Whether two byte ranges share a byte. -/
def meets (a b : Nat × Nat) : Bool := decide (a.1 < b.1 + b.2 ∧ b.1 < a.1 + a.2)

/-- What is left of a byte range when another is taken out of it. -/
def cutRange (o x : Nat × Nat) : List (Nat × Nat) :=
  if !meets o x then [x]
  else [(x.1, o.1 - x.1), (o.1 + o.2, x.1 + x.2 - (o.1 + o.2))].filter (fun y => y.2 != 0)

/-- The whole bytes that runs of bits cover, runs that follow one another taken together. -/
def wholeBytes : List (Nat × Nat) → List (Nat × Nat)
  | [] => []
  | x :: xs =>
    let rec go (x : Nat × Nat) : List (Nat × Nat) → List (Nat × Nat)
      | [] => [((x.1 + 7) / 8, (x.1 + x.2) / 8 - (x.1 + 7) / 8)]
      | y :: ys => if x.1 + x.2 = y.1 then go (x.1, x.2 + y.2) ys
          else ((x.1 + 7) / 8, (x.1 + x.2) / 8 - (x.1 + 7) / 8) :: go y ys
    (go x xs).filter (fun y => y.2 != 0)

/-- The whole bytes of elements at rising positions, and of their scales. -/
def elemBytes (t : Tensor) (base : Nat) (ps : List Nat) : List (Nat × Nat) :=
  wholeBytes (ps.map (fun p => (elemBitAddr t base p, fmtBits (tFmt t))))
    ++ (if fmtBlocked (tFmt t) then wholeBytes (ps.map (fun p => (8 * elemScaleAddr t base p, 8))) else [])

/-- Whether a descriptor that starts reads a byte of its step's unclean ranges (R26). -/
def startsUnclean (s : State) (d : Desc) : Bool :=
  (d.step.bind (findStep s)).any (fun r => r.taint != [] && (descRanges s d).1.any (fun a => r.taint.any (meets a)))

/-- Byte ranges join the unclean ranges of a descriptor's step (R26, R284). -/
def taintAdd (d : Desc) (rs : List (Nat × Nat)) (s : State) : State :=
  match d.step with
  | none => s
  | some n => modStep n (fun r => { r with taint := r.taint ++ rs }) s

/-- A descriptor that starts on unclean inputs gives unclean outputs (R26). -/
def taintStart (d : Desc) (s : State) : State := if d.unclean then taintAdd d (descRanges s d).2 s else s

/-- A descriptor whose checks did not end clean, or that did not end, leaves unclean outputs (R26). -/
def taintEnd (d : Desc) (s : State) : State := if d.run = .fetched then s else taintAdd d (descRanges s d).2 s

/-- A computation whose inputs and checks were clean takes the bytes that it has written out of its step's unclean ranges (R26). -/
def taintClear (d : Desc) (rs : List (Nat × Nat)) (s : State) : State :=
  match d.step with
  | none => s
  | some n => modStep n (fun r => { r with taint := rs.foldl (fun l o => l.flatMap (cutRange o)) r.taint }) s

end Sys2Proof.Machine
end

