-- ==== Sys2Proof/Machine/Validate.lean ====
section
/-!
DEFINITION. The checks a fetched descriptor must pass (R57 to R65, R71, R76 to R89, R96, R97, R513). `refuseCause` gives
the cause of the first check that fails. Between causes the order is the model's (DESIGN CHOICE, log 8), except within a
GEMM, where R77 fixes it.
-/
namespace Sys2Proof.Machine

/-- Bits of words 1 to 6 that the layout of a class or operation names (R76, R81, R82, R84, R85, R513). -/
def namedMask (cls op : Nat) : List Nat :=
  let all := 2 ^ 64 - 1
  match cls with
  | 0 => [all, 2 ^ 55 - 1, 2 ^ 46 - 1, 2 ^ 32 - 1, 0, 0]
  | 1 => [all, all, 2 ^ 57 - 1, all, 2 ^ 47 - 1, 0]
  | 2 => [all, 2 ^ 44 - 1, all, all, 0, 0]
  | 3 => [2 ^ 48 - 1, 2 ^ 17 - 1, 2 ^ 40 - 1, 2 ^ 37 - 1, 2 ^ 32 - 1, 0]
  | 4 => [all, all, 2 ^ 42 - 1, 0, 0, 0]
  | _ =>
    match op with
    | 0x01 => [2 ^ 49 - 1, all, all, all, all, all]
    | 0x03 => [2 ^ 48 - 1, 2 ^ 32 - 1, 0, 0, 0, 0]
    | 0x04 => [2 ^ 48 - 1, 2 ^ 33 - 1, 0, 0, 0, 0]
    | 0x08 => [all, 2 ^ 36 - 1, all, all, all, 2 ^ 32 - 1]
    | 0x09 => [2 ^ 24 - 1, 0, 0, 0, 0, 0]
    | 0x0A | 0x0B => [all, 0, 0, 0, 0, 0]
    | _ => [0, 0, 0, 0, 0, 0]

/-- Fields that revision 2 introduced, as masks of words 1 to 6 (R97). -/
def laterMask (cls : Nat) : List Nat :=
  match cls with
  | 0 => [0, 2 ^ 54, 3 * 2 ^ 40, 2 ^ 32 - 1, 0, 0]
  | 3 => [(2 ^ 16 - 1) * 2 ^ 32, 0, 0, 2 ^ 37 - 1, 0, 0]
  | _ => [0, 0, 0, 0, 0, 0]

/-- Whether a word holds a non-zero bit outside its named bits, or in a field reserved under the revision (R513, R97). -/
def rsvdNonzero (d : Desc) (rev : Nat) : Bool :=
  let ms := (namedMask (dClass d) (dOp d)).zip (laterMask (dClass d))
  let bad := (List.range 6).any (fun i =>
    let m := ms.getD i (0, 0)
    let w := dWord d (i + 1)
    w != w &&& m.1 || (rev < 2 && w &&& m.2 != 0))
  bad || bitsOf (dWord d 0) 32 4 != 0 || (rev < 2 && dStag d != 0)
    || (dClass d == 3 && bitsOf (dWord d 2) 8 2 == 0)

/-- Whether the operation code exists under the revision (R76, R81 to R86, R97). -/
def opDefined (rev cls op : Nat) : Bool :=
  match cls with
  | 0 => op == 1
  | 1 => 1 ≤ op && op ≤ 6
  | 2 => 1 ≤ op && op ≤ 7
  | 3 => 1 ≤ op && op ≤ 6
  | 4 => 1 ≤ op && op ≤ 3
  | _ => op == 0 || op == 9 || op == 10 || op == 11 || (2 ≤ rev && (op == 8 || (1 ≤ op && op ≤ 4)))

/-- Whether every code of the descriptor's fields exists under the revision (R72, R76, R80, R82, R84, R89, R97). -/
def codesDefined (d : Desc) (rev : Nat) : Bool :=
  let w := dWord d
  bitsOf (w 0) 40 6 < 32 &&
  match dClass d with
  | 0 =>
    let g := bitsOf (w 2) 48 2
    let acc := bitsOf (w 2) 50 2
    let kp := bitsOf (w 3) 32 8
    let epi := bitsOf (w 3) 42 4
    g != 3 && (2 ≤ rev || g == 2) && acc != 3 && (3 ≤ rev || acc != 1) && (2 ≤ rev || kp ≤ 1)
      && (rev < 2 || bitsOf (w 3) 40 2 != 3) && epi ≤ (if rev = 1 then 2 else if rev = 2 then 3 else 4)
  | 2 =>
    let f := bitsOf (w 2) 40 4
    (dOp d != 5 && dOp d != 6) || f ≤ (if rev < 3 then 4 else 7)
  | 3 =>
    let red := dOp d == 1 || dOp d == 2
    let comp := bitsOf (w 2) 6 2
    (!red || bitsOf (w 2) 4 2 != 3) && comp ≤ (if rev = 1 then 0 else if rev = 2 then 1 else 2)
  | 5 => dOp d != 8 || bitsOf (w 2) 32 4 ≤ 1
  | _ => true

/-- The extents DIM1 and DIM0 of a tensor, which R77 and R80 name; further dimensions are of no concern. -/
def shape2 (t : Tensor) (d1 d0 : Nat) : Bool := t.d1 == d1 && t.d0 == d0

/-- The format family of a GEMM operand (R77): 0 FP8 and MX, 1 BF16, 2 FP16, 3 FP32, 4 INT8, 5 none. -/
def fmtFamily : Fmt → Nat
  | .fp8E4M3 | .fp8E5M2 | .mxfp8E4M3 | .mxfp8E5M2 | .mxfp6E2M3 | .mxfp6E3M2 | .mxfp4E2M1 => 0
  | .bf16 => 1 | .fp16 => 2 | .fp32 => 3 | .int8 => 4
  | _ => 5

/-- The fields of a GEMM (R76). -/
structure GemmF where
  a : Nat
  b : Nat
  d : Nat
  e : Nat
  m : Nat
  n : Nat
  k : Nat
  group : Nat
  acc : Nat
  ta : Bool
  tb : Bool
  accIn : Bool
  kpart : Nat
  mask : Nat
  epi : Nat
  maskT : Nat
  stat : Nat
  deriving DecidableEq, Repr

/-- The GEMM a MATRIX descriptor describes (R76): GROUP as a group size, KPART 0 as 1. -/
def gemmOf (x : Desc) : GemmF :=
  let w := dWord x
  { a := bitsOf (w 1) 0 16, b := bitsOf (w 1) 16 16, d := bitsOf (w 1) 32 16, e := bitsOf (w 1) 48 16,
    m := bitsOf (w 2) 0 24, n := bitsOf (w 2) 24 24, k := bitsOf (w 3) 0 32,
    group := 4 * 2 ^ bitsOf (w 2) 48 2, acc := bitsOf (w 2) 50 2,
    ta := bitsOf (w 2) 52 1 == 1, tb := bitsOf (w 2) 53 1 == 1, accIn := bitsOf (w 2) 54 1 == 1,
    kpart := max 1 (bitsOf (w 3) 32 8), mask := bitsOf (w 3) 40 2, epi := bitsOf (w 3) 42 4,
    maskT := bitsOf (w 4) 0 16, stat := bitsOf (w 4) 16 16 }

/-- Whether a condition list has a failing entry, and its cause: the first entry whose condition is false. -/
def firstCause : List (Bool × Nat) → Option Nat
  | [] => none
  | (ok, c) :: cs => if ok then firstCause cs else some c

/-- The conditions of a GEMM in the order of R77, then those of R80 and R122. R80 names no cause: a STAT of another format is refused
with FORMAT, and one of another shape with SHAPE (DESIGN CHOICE, log 8). -/
def gemmCause (s : State) (ctx : Nat) (g : GemmF) : Option Nat :=
  let A := tensorEntry s ctx g.a
  let B := tensorEntry s ctx g.b
  let D := tensorEntry s ctx g.d
  let E := tensorEntry s ctx g.e
  let M := tensorEntry s ctx g.maskT
  let S := tensorEntry s ctx g.stat
  let fa := tFmt A
  let fb := tFmt B
  let mxA := fmtBlocked fa
  let mxB := fmtBlocked fb
  let usesE := g.epi == 1 || g.epi == 2 || g.epi == 4
  let sixteen := fun f : Fmt => fmtFamily f == 0 && f != .mxfp4E2M1
  firstCause [
    ((if g.ta then shape2 A g.k g.m else shape2 A g.m g.k)
      && (if g.tb then shape2 B g.n g.k else shape2 B g.k g.n) && shape2 D g.m g.n, cShape),
    (fmtFamily fa == fmtFamily fb && fmtFamily fa != 5, cFormat),
    ((g.acc != 1 || (sixteen fa && sixteen fb)) && (g.acc == 2) == (fmtFamily fa == 4), cFormat),
    ((!mxA || A.mxdim == (if g.ta then 1 else 0)) && (!mxB || B.mxdim == (if g.tb then 0 else 1)), cFormat),
    ((!mxA && !mxB) || g.k % 32 == 0, cShape),
    (g.k % (g.group * g.kpart) == 0 && g.kpart ≤ 64, cShape),
    (!g.accIn || tFmt D == (if fmtFamily fa = 4 then .int32 else .fp32), cFormat),
    (!usesE || shape2 E g.m g.n, cShape),
    (g.mask == 0 || tFmt M == .mask1, cFormat),
    (g.mask == 0 || (if g.mask = 1 then g.m else (g.m + 127) / 128) ≤ tCount M, cShape),
    (!(g.acc == 2 && (g.epi == 3 || g.epi == 4)), cFormat),
    (!(g.acc == 2 && (g.epi == 1 || g.epi == 2) && tFmt E != .int32), cFormat),
    (!(g.mask == 1 && fmtBlocked (tFmt D) && D.mxdim == 1), cFormat),
    (!(g.epi == 3 || g.epi == 4) || tFmt S == .fp32, cFormat),
    (!(g.epi == 3 || g.epi == 4) || shape2 S g.m 2, cShape) ]

/-- The conditions of a ROW descriptor (R176). -/
def rowCause (s : State) (d : Desc) : Option Nat :=
  let w := dWord d
  let h := fun i k => bitsOf (w i) (16 * k) 16
  let T := fun k => tensorEntry s d.ctx k
  let I := T (h 1 0)
  let rows := bitsOf (w 3) 0 32
  let len := bitsOf (w 3) 32 24
  let op := dOp d
  let bwd := 4 ≤ op
  let rms := op == 2 || op == 5
  let smax := op == 3 || op == 6
  let sameShape := fun t : Tensor => t.d0 == I.d0 && t.d1 == I.d1 && t.d2 == I.d2 && t.d3 == I.d3
  let vec := fun k => k == 0 || ((T k).rank == 0 && (T k).d0 == len)
  let vecF := fun k => k == 0 || ((T k).rank == 0 && (T k).d0 == len && tFmt (T k) == .fp32)
  firstCause [
    (len == I.d0 && rows == I.d1 * I.d2 * I.d3 && sameShape (T (h 1 1))
      && ((!bwd && h 2 0 == 0) || sameShape (T (h 2 0))), cShape),
    (vec (h 1 2) && vec (h 1 3) && vecF (h 2 1) && vecF (h 2 2), cShape),
    (h 2 3 == 0 || (tFmt (T (h 2 3)) == .fp32 && (T (h 2 3)).d0 == 2 && (T (h 2 3)).d1 == rows), cShape),
    (!rms || (h 1 3 == 0 && h 2 2 == 0), cShape),
    (!smax || (h 1 2 == 0 && h 1 3 == 0 && h 2 1 == 0 && h 2 2 == 0), cShape),
    (smax || bitsOf (w 3) 56 1 == 0, cShape) ]

/-- The activation function of a code (R82). -/
def funcOf : Nat → ActFunc
  | 0 => .relu | 1 => .leaky | 2 => .sigmoid | 3 => .tanh | 4 => .exp | 5 => .sqrelu | 6 => .silu | _ => .geluSig

/-- The conditions of an ELEM descriptor (R126, R172, R514). -/
def elemCause (s : State) (d : Desc) : Option Nat :=
  let w := dWord d
  let h := fun k => bitsOf (w 1) (16 * k) 16
  let T := fun k => tensorEntry s d.ctx (h k)
  let cnt := bitsOf (w 2) 0 40
  let f := bitsOf (w 2) 40 4
  let act := dOp d == 5 || dOp d == 6
  let gate := act && (f == 6 || f == 7)
  let in2 := dOp d == 1 || dOp d == 2 || dOp d == 6
  let p := f32 (bitsOf (w 3) 0 32)
  let open01 := fvLt fvZero p && fvLt p (fvOfNat 1)
  let drop01 := (fvLt fvZero p || (match p with | .fin _ 0 _ => true | _ => false)) && fvLt p (fvOfNat 1)
  firstCause [
    (!gate || tFmt (T 3) == .fp8E4M3 || tFmt (T 3) == .fp8E5M2, cFormat),
    (cnt ≤ tCount (T 0) && cnt ≤ tCount (T 2) && (!in2 || cnt ≤ tCount (T 1)) && (!gate || cnt ≤ tCount (T 3)),
      cShape),
    (wholeBlocks (T 2) 0 cnt, cShape),
    (!(act && f == 1) || open01, cShape),
    (dOp d != 7 || drop01, cShape) ]

/-- Strides without padding and LAYOUT 0 (R344). -/
def packed (t : Tensor) : Bool :=
  let row := (t.d0 * fmtBits (tFmt t)) / 8
  t.layout == 0 && (t.rank == 0 || t.s1 == row) && (t.rank < 2 || t.s2 == row * t.d1)
    && (t.rank < 3 || t.s3 == row * t.d1 * t.d2)

/-- The conditions of an OPT_BIND on its tensors (R89, R344), V2 among them under SGD_M too; handle 0 for it is then no bad handle
(R59, R90) but a tensor without the extents of W (DESIGN CHOICE, log 154). -/
def optCause (s : State) (d : Desc) : Option Nat :=
  let w := dWord d
  let h := fun i k => bitsOf (w i) (16 * k) 16
  let T := fun k => tensorEntry s d.ctx k
  let W := T (h 1 0)
  let ts := [T (h 1 1), T (h 1 2), T (h 1 3), T (h 2 0), T (h 2 1)]
  let eq := fun t : Tensor => t.d0 == W.d0 && t.d1 == W.d1 && t.d2 == W.d2 && t.d3 == W.d3
  let st := [W, T (h 1 1), T (h 1 2), T (h 1 3), T (h 2 1)]
  firstCause [
    (h 1 3 != 0, cShape),
    (st.all (fun t => t.region == 1) && (T (h 2 0)).region == 2, cBadHandle),
    (tFmt W == .bf16 && tFmt (T (h 1 1)) == .fp32 && tFmt (T (h 1 2)) == .fp32
      && tFmt (T (h 1 3)) == .fp32 && tFmt (T (h 2 0)) == .bf16
      && (tFmt (T (h 2 1)) == .fp8E4M3 || tFmt (T (h 2 1)) == .mxfp8E4M3), cFormat),
    ((W :: ts).all packed && ts.all eq, cShape) ]

/-- The byte ranges of a MOVE at the device end, each with the region of its tensor: the destination or source named by word 2,
and for LOCAL the source of word 1 (R85, R189). -/
def moveRanges (s : State) (d : Desc) : List (Nat × Nat × Nat) :=
  let w := dWord d
  let len := bitsOf (w 3) 0 40
  let t := tensorEntry s d.ctx (bitsOf (w 2) 48 16)
  let one := (t.region, tBase s t (dStag d) + bitsOf (w 2) 0 48, len)
  if dOp d = 3 then
    let u := tensorEntry s d.ctx (bitsOf (w 1) 48 16)
    [one, (u.region, tBase s u (dStag d) + bitsOf (w 1) 0 48, len)]
  else [one]

/-- Handles the operation reads or writes and that must not be 0 (R59, R514). -/
def mustHandles (d : Desc) : List Nat :=
  let w := dWord d
  let h := fun i k => bitsOf (w i) (16 * k) 16
  match dClass d with
  | 0 =>
    let epi := bitsOf (w 3) 42 4
    [h 1 0, h 1 1, h 1 2] ++ (if epi = 1 ∨ epi = 2 ∨ epi = 4 then [h 1 3] else [])
      ++ (if bitsOf (w 3) 40 2 = 0 then [] else [h 4 0]) ++ (if epi = 3 ∨ epi = 4 then [h 4 1] else [])
  | 1 => [h 1 0, h 1 1] ++ (if 4 ≤ dOp d then [h 2 0] else [])
  | 2 =>
    let gate := bitsOf (w 2) 40 4 = 6 ∨ bitsOf (w 2) 40 4 = 7
    [h 1 0, h 1 2] ++ (if dOp d = 1 ∨ dOp d = 2 ∨ dOp d = 6 then [h 1 1] else [])
      ++ (if (dOp d = 5 ∨ dOp d = 6) ∧ gate then [h 1 3] else [])
  | 3 =>
    (if dOp d = 6 then [] else [h 1 0]) ++ (if dOp d = 5 then [] else [h 1 1])
      ++ (if dOp d = 1 ∧ bitsOf (w 2) 6 2 ≠ 0 then [h 1 2] else [])
  | 4 => [bitsOf (w 2) 48 16] ++ (if dOp d = 3 then [bitsOf (w 1) 48 16] else [])
  | _ =>
    if dOp d = 8 then
      [h 1 0, h 1 1, h 1 2, h 2 0, h 2 1] ++ (if bitsOf (w 2) 32 4 = 1 then [] else [h 1 3])
    else []

/-- The first cause among the tensors of a list of handles. -/
def handlesCause (s : State) (ctx rev : Nat) : List Nat → Option Nat
  | [] => none
  | h :: hs => match tensorCause s ctx rev h with
    | some c => some c
    | none => handlesCause s ctx rev hs

/-- The class carried by a ring (R65). -/
def ringClassOk (ring cls : Nat) : Bool :=
  match ring with
  | 0 => cls ≤ 2 || cls == 5
  | 1 => cls == 3
  | _ => cls == 4

/-- The cause for which a fetched descriptor is refused before its step tag is looked at, if any. `collCause` gives the
conditions of a COLL descriptor. -/
def refuseCause (collCause : State → Desc → Option Nat) (s : State) (d : Desc) : Option Nat :=
  let rev := rf s (F.CTX_CFG_FENEX_REV d.ctx)
  let cls := dClass d
  let op := dOp d
  let stepOp := cls == 5 && ((1 ≤ op && op ≤ 4) || op == 8)
  if !ringClassOk d.ring cls then some 0x0B
  else if stepOp && d.ctx != stepCtx s then some 0x01
  else if !opDefined rev cls op || !codesDefined d rev then some 0x06
  else if rsvdNonzero d rev then some 0x05
  else
    let hs := dHandles d
    let must := mustHandles d
    if must.contains 0 then some cBadHandle
    else match handlesCause s d.ctx rev (must ++ hs.1 ++ hs.2) with
    | some c => some c
    | none =>
      let body := match cls with
        | 0 => gemmCause s d.ctx (gemmOf d)
        | 1 => rowCause s d
        | 2 => elemCause s d
        | 3 => collCause s d
        | 4 =>
          if (moveRanges s d).all (fun r => reachable s d.ctx [r.2] && ((r.1 != 1 && r.1 != 2) || inHbm r.2.1 r.2.2))
          then none else some cBadHandle
        | _ => if op = 8 then optCause s d else none
      match body with
      | some c => some c
      | none =>
        if hs.2.any (fun h => (tensorEntry s d.ctx h).region == 1) then some 0x0A
        else if cls == 5 && op == 1 && dStag d != bitsOf (dWord d 1) 0 2 then some 0x03
        else none

end Sys2Proof.Machine
end

