-- ==== Sys2Proof/Machine/Sched.lean ====
section
/-!
DEFINITION. When a descriptor may start (R66 to R69, R100, R184), and how one starts: the shared shape of every command
that begins a descriptor.
-/
namespace Sys2Proof.Machine

/-- A descriptor with no run of its own yet; `idx` is its index among the COLL descriptors of its context (R315). -/
def newDesc (c r cnt : Nat) (ws : List Word) (step : Option Nat) (idx : Nat) : Desc :=
  { ctx := c, ring := r, cnt := cnt, words := ws, step := step, run := .fetched, fails := [], result := 0, start := 0,
    idx := idx, armed := false, mb := 0, passed := [], ahead := false, waited := false, unclean := false, refused := none,
    mx := ⟨⟨0, 0, 0, 0, 0, 0⟩, [], [], 0, 0, [], [], [], []⟩, dm := ⟨0, [], [], false, none, [], []⟩,
    coll := ⟨[], 0, [], 0, 0, [], [], none, 0, 0, 0⟩ }

/-- The descriptors of the same ring fetched before `d` and not yet retired. -/
def earlierOf (s : State) (d : Desc) : List Desc :=
  (s.inflight.takeWhile (fun x => !sameDesc x d)).filter (fun x => x.ctx == d.ctx && x.ring == d.ring)

/-- The axes a COLL descriptor names, as a mask (R84). -/
def dAxes (d : Desc) : Nat := bitsOf (dWord d 2) 0 4

/-- Side-memory entries of `rows` rows from entry `slot` on the row engine of a bay: from the first to beyond the last (R175,
R180). A row beyond the last entry uses none. -/
def sideOn (slot rows bay : Nat) : Nat × Nat :=
  let full := rows / 64
  let n := 64 * ((full + 19 - bay) / 20) + (if full % 20 = bay then rows % 64 else 0)
  (min slot 32768, min (slot + n) 32768)

/-- Whether two runs of entries, as `sideOn` gives them, share one: an empty run shares none. -/
def spansMeet (a b : Nat × Nat) : Bool := decide (max a.1 b.1 < min a.2 b.2)

/-- The side-memory entries of a ROW descriptor on a row engine (R180). -/
def sideSpan (d : Desc) (bay : Nat) : Nat × Nat := sideOn (bitsOf (dWord d 5) 0 15) (bitsOf (dWord d 3) 0 32) bay

/-- Whether a descriptor's counter condition holds (R68). -/
def waitMet (s : State) (d : Desc) : Bool :=
  bitsOf (dWord d 0) 37 1 == 0 ||
    (ctrGet s (ctrKey s d.ctx (dStag d) (bitsOf (dWord d 0) 24 8)) + 2 ^ 16 - bitsOf (dWord d 0) 0 16) % 2 ^ 16
      < 2 ^ 15

/-- The oldest compute descriptor of `d`'s ring, when it waits on a counter (R327). -/
def waitingOldest (s : State) (d : Desc) : Option Desc :=
  match s.inflight.find? (fun x => x.ctx == d.ctx && x.ring == d.ring && dCompute x) with
  | none => none
  | some o => if o.run == .fetched && !waitMet s o then some o else none

/-- Whether `d` may start before `e` of an older micro-batch, in waiting mode OTHER_MB (R327, R328). BWD_W descriptors keep
their order among themselves (R69). -/
def mayRunAhead (s : State) (d e : Desc) : Bool :=
  dCompute d && rf s (F.CTX_WAIT_MODE d.ctx) == 2 && e.mb < d.mb && !(dBwdW d && dBwdW e) &&
    (match waitingOldest s d with
     | none => false
     | some o => d.mb ≤ o.mb + max 1 (rf s (F.CTX_WAIT_MB_AHEAD d.ctx)))

/-- Whether the waiting mode keeps a compute descriptor from starting: while the oldest one of its ring waits on a counter,
in every mode but OTHER_MB (R327). -/
def modeHolds (s : State) (d : Desc) : Bool :=
  dCompute d && rf s (F.CTX_WAIT_MODE d.ctx) != 2 && (waitingOldest s d).any (fun o => !sameDesc o d)

/-- Whether an earlier descriptor holds `d` back by order, by a named tensor or by side memory (R66, R69, R160, R184,
R308, R328) (DEDUCED, log 65). -/
def heldBy (s : State) (d e : Desc) : Bool :=
  let hd := dHandles d
  let eo := (dHandles e).2
  let order := e.run == .fetched && (dBwdW d || !dBwdW e || dFence e)
    && !(dClass d == 3 && dClass e == 3 && dAxes d &&& dAxes e == 0) && !mayRunAhead s d e
  let axis := e.run == .fetched && dClass d == 3 && dClass e == 3 && dAxes d &&& dAxes e != 0
  dFence d || order || axis || (hd.1 ++ hd.2).any (fun h => eo.contains h)
    || (dClass d == 1 && dClass e == 1 && (List.range 20).any (fun b => spansMeet (sideSpan d b) (sideSpan e b)))

/-- Whether any stack has tripped, so that no request is issued (R224). -/
def tripped (s : State) : Bool := rf s F.HBM_TSTAT_TRIP != 0

/-- Whether compute units may start work: CTLCLK runs on ROOT (R405). -/
def unitsClocked (s : State) : Bool := rf s F.CLK_CTL_SRC == 1

/-- Whether the domains a descriptor's unit needs are running (R433, R443), with CTLCLK on ROOT for a compute unit (R405)
and no stack tripped (R224). CTRL outside step control needs none. -/
def unitUp (s : State) (d : Desc) : Bool :=
  match dClass d with
  | 0 | 1 | 2 => s.cmpUp && s.memUp && !tripped s && unitsClocked s
  | 3 => s.cmpUp && s.memUp && !tripped s
  | 4 => s.memUp && !tripped s
  | _ => s.cmpUp || !((1 ≤ dOp d && dOp d ≤ 4) || dOp d == 8)

/-- Whether a unit that a ROW, ELEM or COLL descriptor needs is lent to Lint (R241). -/
def unitLent (s : State) (d : Desc) : Bool :=
  s.lent.any (fun l => match dClass d with
    | 1 => l.unit / 4096 == 2
    | 2 => l.unit / 4096 == 3
    | 3 => (List.range 4).any (fun a => bitsOf (dAxes d) a 1 == 1 && l.unit == pathColl a)
    | _ => false)

/-- Whether a write of a step's descriptor to the gradient region would come before the Seam send of an earlier live step
has read it (R45): while an earlier step is live (DEDUCED, log 85). -/
def gradHeld (s : State) (d : Desc) : Bool :=
  match d.step with
  | none => false
  | some n => s.steps.any (fun r => r.num < n)
      && (dHandles d).2.any (fun h => (tensorEntry s d.ctx h).region == 2)

/-- Whether the step of a descriptor is being discarded or has been stopped: its tile jobs run no longer (R149). -/
def stepGone (s : State) (d : Desc) : Bool :=
  (d.step.bind (findStep s)).any (fun r => r.st == .discarding || r.st == .stopped)

/-- Whether a row band of a running GEMM waits for its statistics fold, which takes precedence over ROW descriptors (R143). -/
def foldWaits (s : State) : Bool :=
  s.inflight.any (fun d => dClass d == 0 && d.run == .running && !stepGone s d
    && (bitsOf (dWord d 3) 42 4 == 3 || bitsOf (dWord d 3) 42 4 == 4)
    && d.mx.jobs.any (fun j => !d.mx.folded.contains j.band && d.mx.jobs.all (fun i => i.drained || i.band != j.band)))

/-- Whether any tile job of a step is issued and not drained. -/
def stepBusy (s : State) (n : Nat) : Bool :=
  s.inflight.any (fun d => d.step == some n && !stepGone s d && d.mx.jobs.any (fun j => j.issued && !j.drained))

/-- The busy time of a step is counted from its first running tile job to its last (R337). -/
def noteBusy (n : Option Nat) (s : State) : State :=
  match n with
  | none => s
  | some n => modStep n (fun r =>
      match r.busyAt, stepBusy s n with
      | none, true => { r with busyAt := some (nowNs s) }
      | some t, false => { r with busyAt := none, busyNs := r.busyNs + (nowNs s - t) }
      | _, _ => r) s

/-- Whether the accesses of a ROW or ELEM descriptor wait at the controllers, so that it does not start (R220, R224). -/
def startHeld (s : State) (d : Desc) : Bool :=
  (dClass d == 1 || dClass d == 2) &&
    (let r := descRanges s d
     accessHeld s .rowElem ((r.1 ++ r.2).map (fun x => (8 * x.1, 8 * x.2))))

/-- Whether a descriptor may start but for the Seam send of an earlier step (R66 to R69, R100). -/
def mayStart (s : State) (d : Desc) : Bool :=
  d.run == .fetched && (earlierOf s d).all (fun e => !heldBy s d e) && waitMet s d && !modeHolds s d && unitUp s d
    && !unitLent s d && !(dClass d == 1 && foldWaits s) && !startHeld s d

/-- Whether a descriptor is eligible apart from the compute units' holder (R45, R66 to R69, R100). -/
def eligible (s : State) (d : Desc) : Bool := mayStart s d && !gradHeld s d

/-- Whether a context has an eligible compute descriptor (R100). -/
def wantsUnits (s : State) (c : Nat) : Bool := s.inflight.any (fun d => d.ctx == c && dCompute d && eligible s d)

/-- Whether the holder of the compute units stands at a switch point (R100): none of its own compute descriptors runs, and
an MB_END descriptor has retired with every compute descriptor before it, or the context marks none and has none eligible.
Nothing says at which moment a descriptor after MB_END that has run ends the point: it lasts until the next one starts (DESIGN
CHOICE, log 113). -/
def atSwitch (s : State) (a : Nat) : Bool :=
  let mine := s.inflight.filter (fun d => d.ctx == a && dCompute d)
  mine.all (fun d => d.run == .fetched) &&
    (match s.mbWait with
     | some c => mine.all (fun d => (d.cnt + 2 ^ 32 - c) % 2 ^ 32 < 2 ^ 31)
     | none => (ringRt s a 0).mb == 0 && !wantsUnits s a)

/-- The next context after `a` in increasing number, wrapping, that passes a test (R100). -/
def nextCtx (a : Nat) (p : Nat → Bool) : Option Nat :=
  ((List.range 64).map (fun i => (a + 1 + i) % 64)).find? p

/-- The context to which the device switches the compute units from `a`, if it does (R100). Among contexts of one priority the
next in increasing number is taken in every case, as the rule says for equal priority (DESIGN CHOICE, log 113). -/
def switchTo (s : State) (a : Nat) : Option Nat :=
  if !atSwitch s a then none
  else
    let prio := fun c => rf s (F.CTX_CFG_PRIO c)
    let want := fun c => c != a && wantsUnits s c
    let top := fun c => want c && (List.range 64).all (fun x => !want x || prio x ≤ prio c)
    match nextCtx a top with
    | none => none
    | some b =>
      if prio a < prio b then some b
      else if prio a = prio b then
        (if rf s (F.CTX_CFG_QUANTUM a) * 1000 ≤ nowNs s - s.heldSince then some b else none)
      else if wantsUnits s a then none
      else some b

/-! ### The selection of an operating point (R408, R417) -/

/-- An entry of the table in force (R406). -/
def entOf (s : State) (k : Nat) : OppSel := ⟨k, inForce s (R.OPP_ENT k)⟩
/-- ROOT of an entry, in MHz (R406, R431). -/
def entMhz (e : OppSel) : Nat := 25 * fldOf e.word (F.OPP_ENT_ROOT 0)
/-- Whether an entry is a sprint entry. -/
def entSprint (e : OppSel) : Bool := fldOf e.word (F.OPP_ENT_SPRINT 0) == 1

/-- ROOT of an entry of the table in force, in MHz. -/
def entryMhz (s : State) (k : Nat) : Nat := entMhz (entOf s k)
/-- Whether an entry of the table in force is a sprint entry. -/
def isSprint (s : State) (k : Nat) : Bool := entSprint (entOf s k)

/-- The entry a descriptor indexes: OPALT × 8 + PHASE (R70). -/
def dEntry (d : Desc) : Nat := bitsOf (dWord d 0) 46 1 * 8 + dPhase d

/-- Whether a press copy is being taken (R359). -/
def pressRuns (s : State) : Bool := match s.press with | some p => p.running | none => false

/-- The compute set (R408). The work of a ROW or ELEM descriptor is done by one command: it counts as running from then to its
retirement (DESIGN CHOICE, log 147). LINT takes no part. -/
def computeSet (s : State) : List Nat :=
  ((s.inflight.filter (fun d => dCompute d && dPhase d != 7 &&
      (d.run == .running || (d.run == .finished && dClass d != 0)))).map dEntry)
    ++ (if s.upds.any (·.begun) || (match s.seamRx with | some x => !x.dropping | none => false) then [4] else [])

/-- The transfer set (R408). -/
def transferSet (s : State) : List Nat :=
  ((s.inflight.filter (fun d => (dClass d == 3 || dClass d == 4) && dPhase d != 7 && d.run == .running)).map dEntry)
    ++ (if pressRuns s || s.drain.isSome then [6] else [])

/-- The entry with the highest ROOT; a tie goes to the lower index (R408). -/
def highest (s : State) : List Nat → Nat
  | [] => 0
  | [k] => k
  | k :: ks =>
    let m := highest s ks
    if entryMhz s m < entryMhz s k ∨ (entryMhz s m = entryMhz s k ∧ k ≤ m) then k else m

/-- The entry the device selects (R408). -/
def selection (s : State) : Nat :=
  let c := computeSet s
  let t := transferSet s
  if c ≠ [] then highest s c else if t ≠ [] then highest s t else 0

/-- A selection that has changed may be tried again (R417): noted wherever work starts, retires or ends. -/
def noteSelection (s : State) : State :=
  if s.sprintRefused.any (fun k => k != selection s) then { s with sprintRefused := none } else s

/-- The time in which the step context holds the compute units with no eligible compute descriptor and none running is counted
(R337): noted where descriptors are fetched, start, retire or are signalled (DEDUCED, log 127). -/
def noteIdle (s : State) : State :=
  let s := noteSelection s
  let c := stepCtx s
  let idle := s.holder == some c && !s.inflight.any (fun d => d.ctx == c && dCompute d && d.run != .fetched) && !wantsUnits s c
  match s.idleAt, idle with
  | none, true => { s with idleAt := some (nowNs s) }
  | some t, false => { s with idleAt := none, idleNs := s.idleNs + (nowNs s - t) }
  | _, _ => s

/-- Whether context `b` may use the compute units now: nobody holds them, it holds them and the device does not switch, or
the device switches to it (R100). -/
def mayTake (s : State) (b : Nat) : Bool :=
  match s.holder with
  | none => true
  | some a => if a = b then switchTo s a == none else switchTo s a == some b

/-- The compute units are given to the context of a descriptor that starts (R100, R204): prefetched copies of the one that loses
them are dropped (R203). A descriptor after a retired MB_END ends its switch point; a BWD_W before it does not (log 113). -/
def takeUnits (d : Desc) (s : State) : State :=
  if s.holder = some d.ctx then
    if s.mbWait.any (fun c => decide ((d.cnt + 2 ^ 32 - c) % 2 ^ 32 < 2 ^ 31)) then { s with mbWait := none } else s
  else { s with holder := some d.ctx, heldSince := nowNs s, mbWait := none, pushed := [] }

/-- Whether descriptors of a context carry step tags: the step context from revision 2 (R15, R58, R97) (DEDUCED, log 82). -/
def tagged (s : State) (c : Nat) : Bool := c == stepCtx s && 2 ≤ rf s (F.CTX_CFG_FENEX_REV c)

/-- Prefetched copies are dropped (R203): those whose descriptor is gone, and those that hold a byte of a range that `hit`
names by base and length. -/
def dropCopies (hit : Nat → Nat → Bool) (s : State) : State :=
  { s with pushed := s.pushed.filter (fun p =>
      s.inflight.any (fun d => s.holder == some d.ctx && d.ring == 0 && d.cnt == p.cnt && dClass d == 0)
        && !p.runs.any (fun r => hit r.1 r.2)) }

/-- The side-memory records that `d` makes stale: those of its context whose IN or STATS it names as an output (R183). It drops
them when it starts, before R182 lets it use one itself: the rules give no order (DESIGN CHOICE, log 152). -/
def dropSide (d : Desc) (s : State) : State :=
  let outs := (dHandles d).2
  { s with side := s.side.filter (fun r =>
      !(r.ctx == d.ctx && (outs.contains r.inp || (r.stats != 0 && outs.contains r.stats)))) }

/-- A descriptor that ends without having run: it retires with a status and cause, on a data-mover ring once the descriptors before it
have retired (R20, R96, R391). -/
def endUnrun (d : Desc) (status cause : Nat) (s : State) : State :=
  if d.ring = 2 ∧ earlierOf s d ≠ [] then setDesc { d with run := .finished, refused := some (status, cause) } s
  else retire d status cause s

/-- `d` as it stands once started: its start time, and what it passed (R69, R72, R328). -/
def startedDesc (s : State) (d : Desc) : Desc :=
  let older := (earlierOf s d).filter (fun e => e.run == .fetched)
  { d with run := .running, start := nowNs s, passed := (older.filter dBwdW).map (·.cnt),
           ahead := older.any (fun e => mayRunAhead s d e) }

/-- A descriptor of a later step waits for the Seam send of an earlier one: counted once (R45). -/
def countGradWait (d : Desc) (s : State) : State :=
  if d.waited then s else bump F.STEPSTAT_GRAD_WAITS 1 (setDesc { d with waited := true } s)

/-- A descriptor starts, when it is in flight, is of the operation named, and may start; `f` then gives its effect. One
whose step tag matches no live step is refused instead (R18); one of a force-closed step is retired DISCARDED (R20); one
of a step that is being discarded does not start (R50). In every other case nothing happens (DESIGN CHOICE, log 64). -/
def withStart (s : State) (c r cnt cls op : Nat) (f : Desc → State → State) : State :=
  match findDesc s c r cnt with
  | none => s
  | some d =>
    if dClass d ≠ cls ∨ dOp d ≠ op ∨ d.run ≠ .fetched then s
    else if !mayStart s d || (dCompute d && !mayTake s c) then s
    else if gradHeld s d then countGradWait d s
    else
      let noTag := !tagged s c || (cls == 5 && op == 1)
      match (if noTag then none else stepOfTag s (dStag d)) with
      | some r =>
        if r.forced then endUnrun d 4 0 s
        else if r.st = .discarding ∨ r.st = .stopped then s
        else
          let d := { startedDesc s d with step := some r.num }
          let d := { d with unclean := startsUnclean s d }
          let s := if dCompute d then takeUnits d s else s
          let s := f d (taintStart d (setDesc d (dropSide d s)))
          if dCompute d then noteIdle s else s
      | none =>
        if noTag then
          let d := startedDesc s d
          let s := if dCompute d then takeUnits d s else s
          let s := f d (setDesc d (dropSide d s))
          if dCompute d then noteIdle s else s
        else endUnrun d 2 0x02 s

/-- A running descriptor has done all its work; it retires under DESCRIPTOR_RETIRE. -/
def finish (d : Desc) (s : State) : State := setDesc { d with run := .finished } s

end Sys2Proof.Machine
end

