-- ==== Sys2Proof/Machine/Keep.lean ====
section
/-!
DEFINITION. The keep buffer (R25 to R28, R52, R53) and VERIFY (R284).
A kept input lies at an address of the keep buffer that the model chooses (DESIGN CHOICE, log 9): the lowest place, 8-byte
aligned, that is free.
-/
namespace Sys2Proof.Machine

/-- Whether `[a, a + n)` is free of kept inputs. -/
def keepFree (s : State) (a n : Nat) : Bool :=
  s.kept.all (fun k => k.addr + (k.len + 7) / 8 * 8 ≤ a || a + n ≤ k.addr)

/-- Where the next kept input of `n` bytes goes: the lowest free place. -/
def keepPlace (s : State) (n : Nat) : Option Nat :=
  let base := rf s F.STEPCFG_KEEP_BASE_ADDR
  let size := rf s F.STEPCFG_KEEP_SIZE_MIB * 2 ^ 20
  let cands := (base :: s.kept.map (fun k => k.addr + (k.len + 7) / 8 * 8)).filter (fun a =>
    base ≤ a && a + n ≤ base + size && keepFree s a n)
  match cands with
  | [] => none
  | c :: cs => some (cs.foldl min c)

/-- The kept input overflows: recording stops, the verdict is STOP with cause KEEP_OVERFLOW, and a notice gives the bytes
recorded (R28). -/
def keepOverflow (r : StepRec) (s : State) : State :=
  let s := modStep r.num (fun x => { x with keepOver := true }) s
  stepNotice r { kind := 0x17, sev := 2, cause := 0x10, detail := r.keepBytes } (raiseSev r.num 2 0x10 s)

/-- The identity of a kept input: the same step, kind, tag, direction, source and offset (R25). -/
def sameKept (a b : Kept) : Bool :=
  a.step == b.step && a.pipe == b.pipe && a.tag == b.tag && a.dirn == b.dirn && a.src == b.src && a.off == b.off

/-- The copies held but for those that a new copy replaces (R25). -/
def keptBeside (k : Kept) (s : State) : State := { s with kept := s.kept.filter (fun x => !sameKept x k) }

/-- Bytes recorded for a step but for the copy that a new one replaces (R25, R28). -/
def keptBytes (k : Kept) (r : StepRec) (s : State) : Nat :=
  r.keepBytes - (match s.kept.find? (sameKept k) with | some o => o.len | none => 0)

/-- Where a copy of an input would be recorded for an OPEN or CLOSING step (R25, R28), if it is recorded at all: a VERIFIED copy of
the same input stays, and any other is replaced. The new copy takes its place where it fits there, and the lowest free place
otherwise (log 9). `none` within says that the keep buffer overflows. -/
def keepAt (k : Kept) (s : State) : Option (StepRec × Option Nat) :=
  match findStep s k.step with
  | none => none
  | some r =>
    let old := s.kept.find? (sameKept k)
    if (r.st ≠ .opened ∧ r.st ≠ .closing) ∨ r.keepOver ∨ old.any (fun o => o.verified && !o.absent) then none
    else
      let rest := keptBeside k s
      let place := match old with
        | some o => if k.len ≤ o.len then some o.addr else keepPlace rest k.len
        | none => keepPlace rest k.len
      some (r, if r.budget * 2 ^ 20 < keptBytes k r s + k.len then none else place)

/-- Whether the record of a copy waits at the controllers (R220, R224). -/
def keepHeld (k : Kept) (s : State) : Bool :=
  match keepAt k s with
  | some (_, some a) => accessHeld s .keep (byteRun a k.len)
  | _ => false

/-- A copy of an input is recorded for an OPEN or CLOSING step (R25, R28). -/
def keepRecord (k : Kept) (bytes : List Byte) (s : State) : State :=
  match keepAt k s with
  | none => s
  | some (r, none) => keepOverflow r s
  | some (r, some a) =>
    let n := keptBytes k r s + k.len
    let s := (writeRange .keep a bytes (keptBeside k s)).1
    let s := modStep r.num (fun x => { x with keepBytes := n }) s
    { s with kept := s.kept ++ [{ k with addr := a }] }

/-- A kept block that has words which cannot be corrected fails the descriptor that takes it: one notice, with the device address of
the block (R95, R237). -/
def failKept (d : Desc) (k : Kept) (bad : List Nat) (s : State) : Desc × State :=
  match bad with
  | [] => (d, s)
  | w :: _ => ({ d with fails := d.fails ++ [0x11] }, failNotice d 0x11 (pathOf s (8 * w)) k.addr s)

/-- The keep space and held VERIFY packets of a step are released (R27, R284). -/
def releaseKeep (n : Nat) (s : State) : State :=
  { s with kept := s.kept.filter (fun k => k.step != n), verifies := s.verifies.filter (fun v => v.step != n) }

/-- Kept packets of a SEND that were recorded in this run of its step, and those of an earlier run that are VERIFIED (R25, R284). -/
def keptOf (s : State) (v : HeldVerify) : List Kept :=
  s.kept.filter (fun k => k.pipe && k.step == v.step && k.tag == v.tag && k.dirn == v.dirn && k.src == v.src && !k.absent && (!k.old || k.verified))

/-- Whether the kept packets of a SEND cover all of its bytes (R284). -/
def verifyCovered (s : State) (v : HeldVerify) : Bool :=
  v.bytes ≤ (keptOf s v).foldl (fun a k => a + k.len) 0 && keptOf s v != []

/-- Held VERIFY packets whose kept packets are complete mark them VERIFIED (R26, R284). -/
def applyVerifies (s : State) : State :=
  let done := s.verifies.filter (verifyCovered s)
  { s with
    kept := s.kept.map (fun k => if done.any (fun v => (keptOf s v).contains k) then { k with verified := true } else k)
    verifies := s.verifies.filter (fun v => !verifyCovered s v) }

/-- VERIFY_RECEIVE (R284): held while its step is live, up to 256 per neighbour and direction; dropped otherwise. -/
def execVerifyReceive (src : BitVec 14) (step : BitVec 48) (plus bad : Bool) (tag : BitVec 32) (bytes : BitVec 36)
    (s : State) : Host.Outcome State Fault Refusal :=
  let v : HeldVerify := ⟨step.toNat, tag.toNat, plus.toNat, src.toNat, bytes.toNat⟩
  if bad && consumerUp s 6 then .next (endpointDrop (pathColl 2) s)
  else match (if consumerUp s 6 then findStep s v.step else none) with
  | none => .next s
  | some _ =>
    if 256 ≤ (s.verifies.filter (fun x => x.src == v.src && x.dirn == v.dirn)).length ∧ ¬ verifyCovered s v then
      .next (bump F.COLL_READY_DROP 1 s)
    else .next (applyVerifies { s with verifies := s.verifies ++ [v] })

end Sys2Proof.Machine
end

