-- ==== Sys2Proof/Machine/Rings.lean ====
section
/-!
DEFINITION. The descriptor rings (R377 to R384): doorbells, fetch, and the retirement and timeout of descriptors.
-/
namespace Sys2Proof.Machine

/-! ### Doorbells (R380, R386 to R389) -/

/-- The count of the oldest slot of a ring that the device still owns (R380). -/
def oldestOwned (s : State) (c r : Nat) : Nat :=
  let cons := (ringRt s c r).cons
  if r = 3 then cons
  else
    (s.inflight.filter (fun d => d.ctx == c && d.ring == r)).foldl
      (fun a d => if 2 ^ 31 ≤ (d.cnt + 2 ^ 32 - a) % 2 ^ 32 then d.cnt else a) cons

/-- A producer count arrives for an enabled ring (R380): ignored with DB_BACK or OVERRUN, or accepted (DESIGN CHOICE, log 84). -/
def doorbell (c r prod : Nat) (s : State) : State :=
  if !ringOn s c r then s
  else
    let x := ringRt s c r
    if 2 ^ 31 ≤ (prod + 2 ^ 32 - x.prod) % 2 ^ 32 then put (F.CTX_ERR_DB_BACK c) 1 s
    else if 2 ^ rf s (F.CTX_RING_CTL_LOG2 c r) < (prod + 2 ^ 32 - oldestOwned s c r) % 2 ^ 32 then
      put (F.CTX_ERR_OVERRUN c) 1 s
    else
      let s := setRingRt c r { x with prod := prod, gap := false } s
      if r = 3 then flushNotices c 64 s else s

/-- The four producer counts of a doorbell line (R385). -/
def doorbellLine (s : State) (c : Nat) : List Nat :=
  (List.range 4).map (fun r => (hostWord s (rf s (F.CTX_DB_ADDR c) + 8 * r)).toNat % 2 ^ 32)

/-- The rings whose producer count in the doorbell line differs from the last accepted (R386). -/
def changedRings (s : State) (c : Nat) : List (Nat × Nat) :=
  (((List.range 4).zip (doorbellLine s c))).filter (fun p => p.2 != (ringRt s c p.1).prod)

/-- The doorbell line of a context is read, and every changed value is a doorbell (R386, R388). -/
def readDoorbells (c : Nat) (s : State) : State :=
  (changedRings s c).foldl (fun s p => doorbell c p.1 p.2 s) s

/-- The device takes the doorbell line of a context with an enabled ring by RdShared, unless it holds it (R386). -/
def takeLine (c : Nat) (s : State) : State :=
  if linkUp s && linkCxl s && (List.range 4).any (fun r => ringOn s c r) && !s.dbHeld.contains c then
    emit (.rdShared (rf s (F.CTX_DB_ADDR c))) { s with dbHeld := s.dbHeld ++ [c] }
  else s

/-- A doorbell line is held no longer: a snoop has taken it away, or the context has no enabled ring (R386). -/
def loseLine (c : Nat) (s : State) : State := { s with dbHeld := s.dbHeld.filter (· != c) }

/-- RING_DOORBELL_SNOOP (R386, R388): in a CXL mode, with a ring of the context enabled. -/
def execRingDoorbellSnoop (ctx : Fin 64) (s : State) : Host.Outcome State Fault Refusal :=
  let c := ctx.val
  if !(linkUp s && linkCxl s) || !(List.range 4).any (fun r => ringOn s c r) then .next s
  else
    let s1 := takeLine c (loseLine c (bump F.HIF_DB_SNOOPS 1 s))
    if changedRings s c = [] then .next (bump F.HIF_DB_SPURIOUS 1 s1)
    else .next (readDoorbells c s1)

/-- A write of HIF.DBn: a doorbell in the PCIe modes, ignored in the CXL modes (R389). -/
def doorbellReg (c r prod : Nat) (s : State) : State :=
  if linkUp s && !linkCxl s then doorbell c r prod s else s

/-- DOORBELL_WRITE (R389). -/
def execDoorbellWrite (ctx : Fin 64) (ring : BitVec 2) (prod : BitVec 32) (s : State) :
    Host.Outcome State Fault Refusal :=
  .next (byHost (R.HIF_DB ctx.val) (doorbellReg ctx.val ring.toNat prod.toNat) s)

/-! ### Fetch (R379, R384) -/

/-- Descriptors in flight of a context. -/
def inflightOf (s : State) (c : Nat) : Nat := (s.inflight.filter (fun d => d.ctx == c)).length

/-- Whether one more descriptor may be taken in flight (R88, R384): 4 of the 16,384 places are kept for CTRL descriptors of
the step ring. Every context has a step ring; the places are kept for that of the step context, which alone carries VOTE_SEAL
and VOTE_RESOLVE (DESIGN CHOICE, log 114). -/
def placeFree (s : State) (c r : Nat) (ctrl : Bool) : Bool :=
  let lim := if ctrl && c == stepCtx s && r == 0 then 16384 else 16380
  s.inflight.length < lim && inflightOf s c < min 16384 (rf s (F.CTX_CFG_INFLIGHT_MAX c))

/-- A step of the step context is being discarded, so its descriptors are no longer fetched (R50, R20). -/
def discarding (s : State) (c : Nat) : Bool :=
  c == stepCtx s && s.steps.any (fun r => r.st == .discarding || r.st == .stopped)

/-- Step-control descriptors that name their step themselves: STEP_OPEN, VOTE_SEAL and VOTE_RESOLVE. -/
def namesStep (d : Desc) : Bool := dClass d == 5 && (dOp d == 1 || dOp d == 3 || dOp d == 4)

/-- One fetched descriptor is admitted: retired DISCARDED when its step is force-closed (R20), refused with a cause (R96), or
placed in flight. A descriptor whose step is not open yet is checked when it opens, so that a refusal enters that step's
verdict (R29, R96; DEDUCED, log 115). -/
def admitSlot (collCause : State → Desc → Option Nat) (c r cnt : Nat) (ws : List Word) (s : State) : State :=
  let w0 := (ws.getD 0 0).toNat
  let key := if c = stepCtx s then 64 + bitsOf w0 50 2 else c
  let d := newDesc c r cnt ws none (smGet (fun _ => 0) s.collIdx key)
  let s := if bitsOf w0 60 3 = 3 then
      { s with collIdx := smSet (fun _ => 0) s.collIdx key ((d.idx + 1) % 2 ^ 24) } else s
  let live := if tagged s c then stepOfTag s (dStag d) else none
  let x := ringRt s c r
  let s := if dMbEnd d then setRingRt c r { x with mb := x.mb + 1 } s else s
  let d := { d with step := live.map (·.num), mb := x.mb,
                    armed := dClass d == 5 && dOp d == 10 && decide (nowNs s + 2000 ≤ dWord d 1) }
  let s := { s with inflight := s.inflight ++ [d] }
  if !namesStep d && live.any (·.forced) then endUnrun d 4 0 s
  else if tagged s c && live.isNone && !namesStep d then s
  else match refuseCause collCause s d with
    | some k => endUnrun d 2 k s
    | none => s

/-- The replay mark of the live step for a ring: the count of its first descriptor fetched (R50). -/
def noteMark (c r cnt tag : Nat) (s : State) : State :=
  if c ≠ stepCtx s then s
  else match stepOfTag s tag with
    | none => s
    | some x =>
      if x.mark.any (fun m => m.1 == r) then s
      else modStep x.num (fun y => { y with mark := y.mark ++ [(r, cnt)] }) s

/-- Up to `n` slots of a ring are fetched in ring order; a ring at its limit is passed over (R384), and a slot whose OWN is clear
stops the ring (R379). -/
def fetchSlots (collCause : State → Desc → Option Nat) (c r : Nat) : Nat → State → State
  | 0, s => s
  | n + 1, s =>
    let x := ringRt s c r
    if x.prod = x.cons ∨ x.gap then s
    else
      let ws := hostWords s (slotAddr s c r x.cons) 8
      let w0 := (ws.getD 0 0).toNat
      if !placeFree s c r (bitsOf w0 60 3 == 5) then s
      else if bitsOf w0 63 1 = 0 then
        bump (F.CTX_OWN_GAP c) 1 (setRingRt c r { x with gap := true } s)
      else
        let s := setRingRt c r { x with cons := (x.cons + 1) % 2 ^ 32 } s
        let s := noteMark c r x.cons (bitsOf w0 50 2) s
        fetchSlots collCause c r n (admitSlot collCause c r x.cons ws s)

/-- Slots from a count to the end of its ring (R379: a read does not cross the end of the ring). -/
def toRingEnd (s : State) (c r : Nat) : Nat :=
  let n := 2 ^ rf s (F.CTX_RING_CTL_LOG2 c r)
  n - (ringRt s c r).cons % n

/-! ### Retirement and timeout -/

/-- Whether a descriptor's turn to retire has come: BWD_W descriptors retire in ring order among themselves (R69), and
data-mover descriptors in ring order (R391). -/
def retireTurn (s : State) (d : Desc) : Bool :=
  if d.ring = 2 then earlierOf s d = []
  else !dBwdW d || (earlierOf s d).all (fun e => !dBwdW e)

/-- Record of a forward ROW descriptor in the directory of each row engine it used (R181): 64 records each, the oldest
dropped when full. -/
def addSide (d : Desc) (s : State) : State :=
  let w := dWord d
  let rows := bitsOf (w 3) 0 32
  let bays := (List.range 20).filter (fun b => b < (rows + 63) / 64)
  bays.foldl (fun s b =>
    let side := s.side.filter (fun r => !(r.bay == b && spansMeet (sideSpan d b) (sideOn r.slot r.rows b)))
    let side := if (side.filter (fun r => r.bay == b)).length < 64 then side
      else match side.find? (fun r => r.bay == b) with
        | some o => side.erase o
        | none => side
    { s with side := side ++ [{
        bay := b, ctx := d.ctx, stag := dStag d, op := dOp d, inp := bitsOf (w 1) 0 16,
        stats := bitsOf (w 2) 48 16, slot := bitsOf (w 5) 0 15, rows := rows, len := bitsOf (w 3) 32 24,
        par := if dOp d = 3 then bitsOf (w 4) 32 32 else bitsOf (w 4) 0 32,
        causal := bitsOf (w 3) 56 1, offset := bitsOf (w 5) 15 32, step := d.step }] }) s

/-- Whether a descriptor's timer runs (R72): it is the oldest of its ring, the BWD_W descriptors it passed apart, or it
started ahead of an older micro-batch (R328); a BWD_W descriptor's runs once it has started or its step's STEP_CLOSE is
fetched. -/
def timerRuns (s : State) (d : Desc) : Bool :=
  if dBwdW d then
    d.run != .fetched || s.inflight.any (fun e => e.ctx == d.ctx && dClass e == 5 && dOp e == 2 && dStag e == dStag d)
      || (match d.step with | some n => (findStep s n).any (fun r => r.st == .closing) | none => false)
  else d.ahead || (earlierOf s d).all (fun e => dBwdW e && d.passed.contains e.cnt)

/-- The halt of a channel ends with its descriptor (R395). -/
def clearHalt (d : Desc) (s : State) : State :=
  if d.ring = 2 ∧ d.dm.stopped then put (F.DM_STAT_HALTED (dmChan s d.ctx)) 0 s else s

/-- A descriptor's timer expires: it retires TIMEOUT (R72, R149, R395). -/
def timeoutDesc (d : Desc) (s : State) : State := noteBusy d.step (retire d 5 0x13 (clearHalt d (taintEnd d s)))

/-- NOTICE_HOLDOFF_EXPIRE (R399): when notices were written during the interval, the vector is raised once, and the
interval runs again (DEDUCED, log 13). -/
def execNoticeHoldoffExpire (ctx : Fin 64) (s : State) : Host.Outcome State Fault Refusal :=
  let c := ctx.val
  let x := ctxRt s c
  if !x.holdoff then .next s
  else if x.pendInt && rf s (F.CTX_INT_MASK c) == 0 then
    .next (raiseVec (rf s (F.CTX_INT_VEC c)) (setCtxRt c { x with pendInt := false } s))
  else .next (setCtxRt c { x with holdoff := false, pendInt := false } s)

/-! ### Enabling and disabling (R383, R390) -/

/-- Whether a ring has descriptors in flight: RINGr.CTL.BUSY (R383, R400). -/
def ringBusy (s : State) (c r : Nat) : Bool := s.inflight.any (fun d => d.ctx == c && d.ring == r)

/-- Whether enabling ring 2 of a context would bind a channel that another enabled ring has (R390). -/
def chanTaken (s : State) (c : Nat) : Bool :=
  (List.range 64).any (fun x => x != c && ringOn s x 2 && dmChan s x == dmChan s c)

/-- Whether a write of ENABLE 1 with LOG2 is accepted (R383, R390, R451: no ring while out of service). -/
def enableOk (s : State) (c r log2 : Nat) : Bool :=
  let rev := rf s (F.CTX_CFG_FENEX_REV c)
  1 ≤ rev && rev ≤ 3 && !ringBusy s c r && 4 ≤ log2 && log2 ≤ 16
    && rf s (F.CTX_RING_BASE c r) % 4096 == 0 && !(r == 2 && chanTaken s c) && rf s F.RST_STAT_OOS == 0

/-- A write of RINGr.CTL with LOG2 and ENABLE (R383, R386, R451). The PROD values of a line first taken at an enable are no doorbells:
only a snoop and the link's training make them so (DEDUCED, log 163). The records of a context that is disabled leave the side-memory
directories (R183): it is disabled when its last enabled ring is (DESIGN CHOICE, log 116). A disabled step ring has marked no
micro-batch (R100; log 113). -/
def ringCtl (src : Source) (c r log2 enable : Nat) (s : State) : State :=
  let a := R.CTX_RING_CTL c r
  if ringOn s c r then
    if log2 ≠ rf s (F.CTX_RING_CTL_LOG2 c r) then setupRefused src a s
    else if enable = 1 then (if rf s F.RST_STAT_OOS = 1 then setupRefused src a s else s)
    else if c = stepCtx s ∧ s.steps ≠ [] then setupRefused src a s
    else
      let s2 := setRingRt c r { ringRt s c r with mb := if r = 0 then 0 else (ringRt s c r).mb } (put (F.CTX_RING_CTL_ENABLE c r) 0 s)
      if (List.range 4).any (fun x => ringOn s2 c x) then s2
      else loseLine c { s2 with side := s2.side.filter (fun e => e.ctx != c) }
  else
    let s1 := put (F.CTX_RING_CTL_LOG2 c r) log2 s
    if enable = 0 then s1
    else if enableOk s1 c r log2 then
      let s2 := if r = 1 then { s1 with collIdx := smSet (fun _ => 0) s1.collIdx c 0 } else s1
      takeLine c (setRingRt c r ⟨0, 0, false, 0⟩ (put (F.CTX_RING_CTL_ENABLE c r) 1 s2))
    else setupRefused src a s1

end Sys2Proof.Machine
end

