-- ==== Sys2Proof/Machine/Coll.lean ====
section
/-!
DEFINITION. The collective engines (R308 to R326, R516, R519): refusal conditions, the ring reduction in the order of R310,
gathers, broadcast, compressed exchange, SEND and RECV, readiness and windows, and what arrives.
The place of a byte in the transfer between two neighbours is the model's (DESIGN CHOICE, log 22): on each axis and in each
direction, the partial sums of the axis's reduction come first, hop by hop, then its gather in the same order, every hop filled with
zeros to a multiple of 8 bytes. It is the same whatever number of pieces a device runs, so that neighbours that run different
numbers of them exchange the same bytes (R56, R313).
-/
namespace Sys2Proof.Machine

/-! ### Fields and groups (R84, R309) -/

/-- SRC, DST and EFB (R84). -/
def cSrc (d : Desc) : Nat := bitsOf (dWord d 1) 0 16
/-- DST. -/
def cDst (d : Desc) : Nat := bitsOf (dWord d 1) 16 16
/-- EFB. -/
def cEfb (d : Desc) : Nat := bitsOf (dWord d 1) 32 16
/-- REDOP: 0 SUM, 1 MAX, 2 MIN. -/
def cRedop (d : Desc) : Nat := bitsOf (dWord d 2) 4 2
/-- COMP: 0 none, 1 top-k, 2 sign. -/
def cComp (d : Desc) : Nat := bitsOf (dWord d 2) 6 2
/-- TCLASS. -/
def cClass (d : Desc) : Nat := bitsOf (dWord d 2) 8 2
/-- DIR: the neighbour a SEND or RECV names (DEDUCED, log 23). -/
def cDir (d : Desc) : Nat := bitsOf (dWord d 2) 10 1
/-- ROOT. -/
def cRoot (d : Desc) : Nat := bitsOf (dWord d 2) 11 6
/-- COUNT. -/
def cCount (d : Desc) : Nat := bitsOf (dWord d 3) 0 40
/-- TOPK_K. -/
def cTopk (d : Desc) : Nat := bitsOf (dWord d 4) 0 32
/-- The block length of compression (R318). -/
def cBlock (d : Desc) : Nat := 2 ^ bitsOf (dWord d 4) 32 5
/-- TAG. -/
def cTag (d : Desc) : Nat := bitsOf (dWord d 5) 0 32

/-- The axes a COLL descriptor names, in increasing number. -/
def cAxes (d : Desc) : List Nat := (List.range 4).filter (fun a => bitsOf (dAxes d) a 1 == 1)

/-- The named axes of a size above 1: those on which something travels. -/
def liveAxes (s : State) (d : Desc) : List Nat := (cAxes d).filter (fun a => 1 < axisSize s a)

/-- The group size P (R309). -/
def groupSize (s : State) (d : Desc) : Nat := (cAxes d).foldl (fun p a => p * axisSize s a) 1

/-- The group rank of this device (R309). -/
def groupRank (s : State) (d : Desc) : Nat :=
  (cAxes d).foldl (fun r a => r * axisSize s a + coordOf s (selfId s) a) 0

/-- Bytes of `n` elements packed densely, with their block scales (R103, R326). -/
def packedBytes (t : Tensor) (n : Nat) : Nat :=
  (n * fmtBits (tFmt t) + 7) / 8 + (if fmtBlocked (tFmt t) then n / 32 else 0)

/-- The conditions of a COLL descriptor (R84, R282, R309, R313, R318, R320, R325, R343, R516) (DESIGN CHOICE for BLKLOG2, log 94). -/
def collCause (s : State) (d : Desc) : Option Nat :=
  let S := tensorEntry s d.ctx (cSrc d)
  let D := tensorEntry s d.ctx (cDst d)
  let E := tensorEntry s d.ctx (cEfb d)
  let op := dOp d
  let n := cCount d
  let P := groupSize s d
  let p2p := op == 5 || op == 6
  let red := op == 1 || op == 2
  let sum := red && cRedop d == 0
  let comp := cComp d != 0
  let bf32 := fun f : Fmt => f == .bf16 || f == .fp32
  let sumOk := fun f : Fmt => f == .bf16 || f == .fp16 || f == .fp32 || f == .int32
  let maxOk := fun f : Fmt => f == .fp8E4M3 || f == .fp8E5M2 || f == .int8 || sumOk f
  let widen := sum && (tFmt S == .bf16 || tFmt S == .fp16) && tFmt D == .fp32
  let usesS := op != 6
  let usesD := op != 5
  let efbBase := ff s F.SEAM_EFB_BASE
  firstCause [
    (!p2p || d.ctx == stepCtx s, 0x01),
    (128 ≤ rf s F.COLL_STAGE_SIZE_MIB, cShape),
    (!p2p || (cAxes d).length == 1, cShape),
    (1 < P, cShape),
    (!comp || (op == 1 && cRedop d == 0 && bf32 (tFmt S) && bf32 (tFmt D)), cShape),
    (!comp || (10 ≤ bitsOf (dWord d 4) 32 5 && bitsOf (dWord d 4) 32 5 ≤ 24), 0x06),
    (cComp d != 1 || cTopk d != 0, cShape),
    (!comp || (tFmt E == .fp32 && E.region == 4 && E.d0 == n
      && E.d1 == (if rf s F.STEPCFG_CTL_OVERLAP = 1 then 4 else 2)), cBadHandle),
    (!comp || d.ctx != stepCtx s
      || (tRanges E).all (fun r => within efbBase (ff s F.SEAM_EFB_SIZE_BYTES) r.1 r.2), cBadHandle),
    (p2p || tFmt S == tFmt D || widen, cFormat),
    (!sum || (sumOk (tFmt S) && sumOk (tFmt D)), cFormat),
    (!(red && !sum) || maxOk (tFmt S), cFormat),
    (!(op == 2 || (op == 1 && !comp)) || n % (64 * P) == 0, cShape),
    (!usesS || packedBytes S n ≤ 2 ^ 35, cShape),
    (!usesD || packedBytes D n ≤ 2 ^ 35, cShape),
    (!usesS || n ≤ tCount S, cShape),
    (!usesD || (if op = 2 then n / P else if op = 3 then P * n else n) ≤ tCount D, cShape),
    (!(op == 3 || op == 4 || op == 5) || wholeBlocks S 0 n, cShape),
    (!(op == 4 || op == 6) || wholeBlocks D 0 n, cShape),
    (op != 3 || (List.range P).all (fun r => wholeBlocks D (r * n) n), cShape) ]

/-! ### Bytes of elements -/

/-- Bits of `w` each packed into bytes, element 0 lowest (R103). -/
def packBits (w : Nat) (cs : List Nat) : List Byte :=
  leBytes (cs.foldr (fun c a => c % 2 ^ w + 2 ^ w * a) 0) ((cs.length * w + 7) / 8)

/-- `n` fields of `w` bits read from bytes. -/
def unpackBits (w n : Nat) (bs : List Byte) : List Nat :=
  let v := leNat bs
  (List.range n).map (fun i => bitsOf v (w * i) w)

/-- The first positions of the blocks that lie in `[st, st + n)`, in order (R104, R517). -/
def blockHeads (t : Tensor) (st n : Nat) : List Nat :=
  if fmtBlocked (tFmt t) then
    ((List.range n).map (st + ·)).filter (fun p => (blockPositions t p).head? == some p)
  else []

/-- Element bytes of `[st, st + n)`, then the scale bytes of their blocks (R326). -/
def rawRead (s : State) (t : Tensor) (base st n : Nat) : List Byte :=
  packBits (fmtBits (tFmt t)) ((List.range n).map (fun i => memBits s (elemBitAddr t base (st + i)) (fmtBits (tFmt t))))
    ++ (blockHeads t st n).map (fun p => memGet s (elemScaleAddr t base p))

/-- The bit fields that place element codes from `st` on, and scale bytes into the blocks of `[st, st + n)`. -/
def rawFields (t : Tensor) (base st n : Nat) (codes : List Nat) (scales : List Byte) : List (Nat × Nat × Nat) :=
  ((List.range n).zip codes).map (fun e => (elemBitAddr t base (st + e.1), fmtBits (tFmt t), e.2))
    ++ ((blockHeads t st n).zip scales).map (fun e => (8 * elemScaleAddr t base e.1, 8, e.2.toNat))

/-- The fields that place the bytes of `n` elements, as `rawRead` gives them, from `st` on. -/
def rawPlace (t : Tensor) (base st n : Nat) (bs : List Byte) : List (Nat × Nat × Nat) :=
  let w := fmtBits (tFmt t)
  let eb := (n * w + 7) / 8
  rawFields t base st n (unpackBits w n (bs.take eb)) (bs.drop eb)

/-! ### Announcements, streams and packets (R315, R316) -/

/-- The transfer identifier of a collective (R315). -/
def transferId (d : Desc) : Nat := d.ctx + 64 * dStag d + 256 * (d.idx % 2 ^ 24)

/-- The header tag of a descriptor's announcements: its TAG for SEND and RECV. -/
def annTag (d : Desc) : Nat := if dOp d = 5 ∨ dOp d = 6 then cTag d else transferId d

/-- An ANNOUNCE packet (R316). -/
def announce (dst kind : Nat) (p2p : Bool) (dirn axis tag stag value : Nat) (s : State) : State :=
  let w2 := kind + p2p.toNat * 16 + dirn * 32 + axis * 64 + tag % 2 ^ 32 * 2 ^ 32
  inject dst 0 7 stag tag 0 (leBytes w2 8 ++ leBytes (nowNs s) 8 ++ leBytes value 8) 0 s

/-- The neighbour towards which data of a direction flows; its source is the one the other way. -/
def flowTo (s : State) (axis dirn : Nat) : Nat := neighbour s axis (dirn == 1)

/-- Where data of a direction comes from. -/
def flowFrom (s : State) (axis dirn : Nat) : Nat := neighbour s axis (dirn != 1)

/-- A fresh stream. -/
def newStream (axis dirn : Nat) : Stream := ⟨axis, dirn, [], 0, false, 0, [], 0, 0, 0⟩

/-- A stream of a descriptor. -/
def streamOf (d : Desc) (axis dirn : Nat) : Stream :=
  (d.coll.streams.find? (fun x => x.axis == axis && x.dirn == dirn)).getD (newStream axis dirn)

/-- A stream of a descriptor replaced. -/
def setStream (x : Stream) (d : Desc) : Desc :=
  { d with coll := { d.coll with streams := d.coll.streams.map (fun y => if y.axis = x.axis ∧ y.dirn = x.dirn then x else y) } }

/-- Parts in order of their offset. -/
def insertPart (p : Nat × Nat × List Byte) : List (Nat × Nat × List Byte) → List (Nat × Nat × List Byte)
  | [] => [p]
  | q :: qs => if p.1 < q.1 then p :: q :: qs else q :: insertPart p qs

/-- Zeros up to a multiple of 8 bytes. -/
def pad8 (bs : List Byte) : List Byte := bs ++ List.replicate ((8 - bs.length % 8) % 8) 0

/-- A part joins what a stream has to send, at its place in the transfer. -/
def push (axis dirn pos : Nat) (bs : List Byte) (d : Desc) : Desc :=
  let x := streamOf d axis dirn
  if bs = [] then d else setStream { x with out := x.out ++ [(pos, pad8 bs)] } d

/-- The bytes `[pos, pos + n)` of what has come in, once all of them have, and what is left: a packet may hold bytes of both. -/
def collect (pos n : Nat) (inb : List (Nat × List Byte)) : Option (List Byte × List (Nat × List Byte)) :=
  let mine := inb.filterMap (fun c =>
    let bs := (c.2.drop (pos - c.1)).take (pos + n - max pos c.1)
    if bs = [] then none else some (max pos c.1, 0, bs))
  let got := mine.foldl (fun l c => insertPart c l) []
  if got.foldl (fun a c => a + c.2.2.length) 0 = n then
    some (got.flatMap (·.2.2), inb.flatMap (fun c =>
      [(c.1, c.2.take (pos - c.1)), (max c.1 (pos + n), c.2.drop (pos + n - c.1))].filter (fun x => x.2 != [])))
  else none

/-- Bytes at several places of a transfer, in order: pushed each to its place. -/
def pushSegs (axis dirn : Nat) : List (Nat × Nat) → List Byte → Desc → Desc
  | [], _, d => d
  | (pos, n) :: r, bs, d => pushSegs axis dirn r (bs.drop n) (push axis dirn pos (bs.take n) d)

/-- The bytes at several places of what has come in, once all of them have, and what is left. -/
def collectSegs : List (Nat × Nat) → List (Nat × List Byte) → Option (List Byte × List (Nat × List Byte))
  | [], inb => some ([], inb)
  | (pos, n) :: r, inb => match collect pos n inb with
    | none => none
    | some x => (collectSegs r x.2).map (fun y => (x.1 ++ y.1, y.2))

/-- A stream sends packets within its window: after READY, up to WINDOW KiB beyond the units granted (R316). A failed
descriptor sends the filler with ABORT and cause 3 (R519). A CE gives a packet to its port's queue as soon as it may be sent; there
the descriptors take turns (R308; log 123). -/
def pumpStream (d : Desc) : Nat → Stream → State → Stream × State
  | 0, x, s => (x, s)
  | k + 1, x, s =>
    match x.out with
    | [] => (x, s)
    | (pos, bs) :: rest =>
      let lim := rf s F.COLL_WINDOW_KIB * 1024 + x.units * 4096
      let m := min 4072 (min bs.length (lim - x.sent))
      if !x.ready || m = 0 then (x, s)
      else
        let bytes := if d.fails = [] then bs.take m else List.replicate m 0
        let s := inject (flowTo s x.axis x.dirn) (cClass d) 8 (dStag d) (transferId d) (pos / 8) bytes
          (if d.fails = [] then 0 else 3) s
        let s := bump (F.COLL_CE_BYTES x.axis) m s
        let out := if m = bs.length then rest else (pos + m, bs.drop m) :: rest
        pumpStream d k { x with out := out, sent := x.sent + m } s

/-- Every stream of a descriptor sends what it may. -/
def pumpAll (d : Desc) (s : State) : Desc × State :=
  d.coll.streams.foldl (fun p x =>
    let q := pumpStream p.1 (x.out.foldl (fun a o => a + o.2.length / 4072 + 2) 1) x p.2
    (setStream q.1 p.1, q.2)) (d, s)

/-- GRANTs after every 256 units of 4 KiB consumed, and at the end (R316). -/
def grantAll (final : Bool) (d : Desc) (s : State) : Desc × State :=
  d.coll.streams.foldl (fun p x =>
    let units := x.eaten / 4096
    if x.got ≠ 0 ∧ (x.told + 256 ≤ units ∨ final) then
      (setStream { x with told := units } p.1,
        announce (flowFrom p.2 x.axis x.dirn) 2 false x.dirn x.axis (transferId d) (dStag d) units p.2)
    else p) (d, s)

/-! ### Values in transit (R310, R312) -/

/-- Whether partials travel as 64-bit integers (R310). -/
def wideInt (s : State) (d : Desc) : Bool :=
  let f := tFmt (tensorEntry s d.ctx (cSrc d))
  f == .int32 || f == .int8

/-- An exact integer value as an integer. -/
def fvInt (v : FV) : Int := roundInt (-(2 : Int) ^ 80) ((2 : Int) ^ 80) v

/-- A partial as bytes: FP32, or a 64-bit integer (R310). -/
def partBytes (wide : Bool) (v : FV) : List Byte :=
  if wide then leBytes ((fvInt v) % (2 : Int) ^ 64).toNat 8 else leBytes (fpEncode .fp32 v) 4

/-- Partials read from bytes. -/
def partVals (wide : Bool) (bs : List Byte) : List FV :=
  if wide then (unpackBits 64 (bs.length / 8) bs).map (fun v => fvOfInt (twos 64 v))
  else (unpackBits 32 (bs.length / 4) bs).map f32

/-- The smaller of two values (R312): the canonical NaN with a NaN, −0 below +0. -/
def fvMin (a b : FV) : FV := if fvIsNan a || fvIsNan b then .nan else fvMinus (fvMax (fvMinus a) (fvMinus b))

/-- One rank's value joins a running value (R310, R312). -/
def combine (redop : Nat) (wide : Bool) (acc v : FV) : FV :=
  match redop with
  | 0 => if wide then fvAdd acc v else rnd32 (fvAdd acc v)
  | 1 => fvMax acc v
  | _ => fvMin acc v

/-! ### Stages (R310 to R313) -/

/-- The stages of a collective on the axes where something travels: reductions in increasing axis number, gathers in
decreasing (R310, R311, R322). -/
def stages (s : State) (d : Desc) : List (Bool × Nat) :=
  let ax := liveAxes s d
  let gat := ax.reverse.map (fun a => (false, a))
  match dOp d with
  | 1 => if cComp d = 0 then ax.map (fun a => (true, a)) ++ gat else gat
  | 2 => ax.map (fun a => (true, a))
  | 3 => gat
  | _ => []

/-- The half of shard `c` of a vector that travels in a direction (R310): the first half towards higher coordinates. -/
def shardHalf (vec : List FV) (n c dirn : Nat) : List FV :=
  let sh := vec.length / n
  ((vec.drop (c * sh + (if dirn = 1 then 0 else sh / 2))).take (sh / 2))

/-- The first and second part of bytes that a gather or a broadcast sends in the + and the − direction. -/
def byteHalf (bs : List Byte) (dirn : Nat) : List Byte :=
  let h := min bs.length ((bs.length + 15) / 16 * 8)
  if dirn = 1 then bs.take h else bs.drop h

/-! ### Pieces (R313) -/

/-- The lowest place in the collective staging region for `n` bytes that no running descriptor holds (DESIGN CHOICE, log 123). -/
def stagePlace (s : State) (d : Desc) (n : Nat) : Option Nat :=
  let base := rf s F.COLL_STAGE_BASE
  let size := rf s F.COLL_STAGE_SIZE_MIB * 2 ^ 20
  let held := (s.inflight.filter (fun e => dClass e == 3 && e.run == .running && !sameDesc e d)).map
    (fun e => (e.coll.stageAt, e.coll.stageLen))
  ((base :: held.map (fun h => h.1 + h.2)).filter (fun a =>
    base ≤ a && a + n ≤ base + size && held.all (fun h => h.1 + h.2 ≤ a || a + n ≤ h.1))).foldl
      (fun m a => match m with | none => some a | some x => some (min a x)) none

/-- Whether a descriptor is a SUM over more than one axis, which runs in pieces (R313). -/
def multiSum (s : State) (d : Desc) : Bool :=
  (dOp d == 1 || dOp d == 2) && cComp d == 0 && cRedop d == 0 && decide (1 < (liveAxes s d).length)

/-- The lengths of `q` contiguous parts of `n` elements: equal, in fours so that each part begins at a word of the transfer, the last
with the remainder (R313; log 22). -/
def partLens (n q : Nat) : List Nat :=
  let l := n / q / 4 * 4
  (List.range q).map (fun i => if i + 1 < q then l else n - (q - 1) * l)

/-- The parts of a blocked vector: `q` runs of equally many whole blocks, the last with what is left. -/
def blockParts (blocks q : Nat) : List Nat :=
  let b := (blocks + q - 1) / q
  (List.range q).map (fun i => min b (blocks - i * b))

/-- Bytes of `k` compressed blocks of a descriptor from block `i` on (R322). -/
def compBytes (d : Desc) (i k : Nat) : Nat :=
  (List.range k).foldl (fun a j =>
    let l := min (cBlock d) (cCount d - (i + j) * cBlock d)
    a + (if cComp d = 1 then (6 * min (cTopk d) l + 7) / 8 * 8 else 8 + (l + 63) / 64 * 8)) 0

/-- The pieces of a descriptor when it runs in `q` of them, by their lengths: elements of each shard-half, or whole blocks of a
compressed exchange. -/
def pieceLens (s : State) (d : Desc) (q : Nat) : List Nat :=
  if cComp d ≠ 0 then blockParts ((cCount d + cBlock d - 1) / cBlock d) q
  else partLens (cCount d / (2 * groupSize s d)) q

/-- The staging that a piece needs (R313): the partial shards of a SUM that enter its later stages, or every rank's blocks. -/
def pieceBytes (s : State) (d : Desc) (q : Nat) : Nat :=
  let l := (pieceLens s d q).foldl max 0
  if cComp d ≠ 0 then groupSize s d * compBytes d 0 l
  else if multiSum s d then
    (2 * groupSize s d * l / axisSize s ((liveAxes s d).headD 0)) * (if wideInt s d then 8 else 4)
  else 0

/-- The number of pieces and their place in staging (R313): for a SUM the smallest power of two from 8 on for which a piece fits the
free space; for a compressed exchange the smallest from 1 on (DESIGN CHOICE, log 123); one piece for any other operation. -/
def piecesOf (s : State) (d : Desc) : Option (Nat × Nat) :=
  if cComp d = 0 && !multiSum s d then some (1, 0)
  else
    let first := if cComp d ≠ 0 then 1 else 8
    ((List.range 32).map (first * 2 ^ ·)).findSome? (fun q => (stagePlace s d (pieceBytes s d q)).map (fun a => (q, a)))

/-- Piece `i` of a vector in pieces of the lengths given: the same part of every shard-half (R313). -/
def pieceVec (vec : List FV) (halves : Nat) (ls : List Nat) (i : Nat) : List FV :=
  let h := vec.length / halves
  (List.range halves).flatMap (fun b => (vec.drop (b * h + (ls.take i).foldl (· + ·) 0)).take (ls.getD i 0))

/-! ### Places in a transfer (log 22) -/

/-- How much of `l` bytes travels in a direction. -/
def halfOf (l dirn : Nat) : Nat :=
  let h := min l ((l + 15) / 16 * 8)
  if dirn = 1 then h else l - h

/-- Of runs of bytes of the lengths given, what travels in a direction: a part of each. -/
def splitBy (dirn : Nat) : List Nat → List Byte → List Byte
  | [], _ => []
  | l :: ls, bs => byteHalf (bs.take l) dirn ++ splitBy dirn ls (bs.drop l)

/-- Runs of bytes from what came of each in the + and in the − direction. -/
def joinBy : List Nat → List Byte → List Byte → List Byte
  | [], _, _ => []
  | l :: ls, p, m =>
    p.take (halfOf l 1) ++ m.take (halfOf l 0) ++ joinBy ls (p.drop (halfOf l 1)) (m.drop (halfOf l 0))

/-- The lengths of the blocks of a compressed exchange (R318, R322). -/
def blockLens (d : Desc) : List Nat :=
  (List.range ((cCount d + cBlock d - 1) / cBlock d)).map (fun j => compBytes d j 1)

/-- What a stage of the transfer before `st` of the same kind multiplies: the sizes of their axes. -/
def stageProd (s : State) (d : Desc) (st : Nat) (red : Bool) : Nat :=
  (((stages s d).take st).filter (fun x => x.1 == red)).foldl (fun p x => p * axisSize s x.2) 1

/-- The units of which a hop of a stage consists in a direction, by number and bytes: shard-halves of the last reduction stage, the
ranks of a compressed exchange, or the whole of another gather. -/
def hopUnits (s : State) (d : Desc) (st dirn : Nat) : Nat × Nat :=
  let half := cCount d / (2 * groupSize s d)
  match (stages s d)[st]? with
  | some (true, a) =>
    (groupSize s d / stageProd s d st true / axisSize s a, half * (if wideInt s d then 8 else 4))
  | some (false, _) =>
    let m := stageProd s d st false
    if cComp d ≠ 0 then (m, ((blockLens d).map (fun l => halfOf l dirn)).foldl (· + ·) 0)
    else if dOp d = 1 then (m, half * fmtBits (tFmt (tensorEntry s d.ctx (cDst d))) / 8)
    else (1, (halfOf (m * packedBytes (tensorEntry s d.ctx (cSrc d)) (cCount d)) dirn + 7) / 8 * 8)
  | none => (0, 0)

/-- Bytes of one hop of a stage in a direction. -/
def hopLen (s : State) (d : Desc) (st dirn : Nat) : Nat := (hopUnits s d st dirn).1 * (hopUnits s d st dirn).2

/-- The place of hop `k` of a stage in the transfer of its axis and direction. -/
def hopPos (s : State) (d : Desc) (st dirn k : Nat) : Nat :=
  match (stages s d)[st]? with
  | none => 0
  | some (_, a) =>
    let earlier := (List.range st).filter (fun t => ((stages s d)[t]?).any (fun x => x.2 == a))
    earlier.foldl (fun p t => p + (axisSize s a - 1) * hopLen s d t dirn) 0 + k * hopLen s d st dirn

/-- The part of each unit of a stage that a piece is, as offset and length. -/
def pieceSpan (s : State) (d : Desc) (i st dirn : Nat) : Nat × Nat :=
  let q := d.coll.pieces.length
  let ls := pieceLens s d q
  let n := (ls.take i).foldl (· + ·) 0
  let l := ls.getD i 0
  let u := (hopUnits s d st dirn).2
  if q ≤ 1 then (0, u)
  else if cComp d ≠ 0 then
    let bytes := fun (bs : List Nat) => (bs.map (fun l => halfOf l dirn)).foldl (· + ·) 0
    (bytes ((blockLens d).take n), bytes (((blockLens d).drop n).take l))
  else
    let w := u / (cCount d / (2 * groupSize s d))
    (n * w, l * w)

/-- Places that follow one another, taken together. -/
def joinSegs : List (Nat × Nat) → List (Nat × Nat)
  | [] => []
  | (p, n) :: r => match joinSegs r with
    | (q, m) :: t => if p + n = q then (p, n + m) :: t else (p, n) :: (q, m) :: t
    | [] => [(p, n)]

/-- The places of hop `k` of a stage of a piece in the transfer of its axis and direction. -/
def hopSegs (s : State) (d : Desc) (i st dirn k : Nat) : List (Nat × Nat) :=
  let u := hopUnits s d st dirn
  let x := pieceSpan s d i st dirn
  joinSegs ((List.range u.1).map (fun j => (hopPos s d st dirn k + j * u.2 + x.1, x.2)))

/-- The lengths of the runs of bytes that enter a gather stage of a piece: the blocks of every rank that it has gathered of a
compressed exchange, and else the whole. -/
def ownLens (s : State) (d : Desc) (i st : Nat) (own : List Byte) : List Nat :=
  if cComp d = 0 then [own.length]
  else
    let ls := pieceLens s d d.coll.pieces.length
    (List.replicate (stageProd s d st false)
      (((blockLens d).drop ((ls.take i).foldl (· + ·) 0)).take (ls.getD i 0))).flatten

/-! ### A piece in its stages (R310 to R312) -/

/-- Piece `i` of a descriptor. -/
def pieceOf (d : Desc) (i : Nat) : CollPart := d.coll.pieces.getD i ⟨0, (0, 0), [], ([], []), [], []⟩

/-- Piece `i` of a descriptor replaced. -/
def setPiece (i : Nat) (c : CollPart) (d : Desc) : Desc := { d with coll := { d.coll with pieces := d.coll.pieces.set i c } }

/-- What a stage of a piece sends first in each direction (R310, R322). -/
def openStage (s : State) (i : Nat) (d : Desc) : Desc :=
  let c := pieceOf d i
  match (stages s d)[c.stage]? with
  | none => d
  | some (red, a) =>
    let n := axisSize s a
    let x := coordOf s (selfId s) a
    let at' := fun dirn => hopSegs s d i c.stage dirn 0
    if red then
      let out := fun k dirn => (shardHalf c.vec n k dirn).flatMap (partBytes (wideInt s d))
      pushSegs a 0 (at' 0) (out ((x + 1) % n) 0) (pushSegs a 1 (at' 1) (out ((x + n - 1) % n) 1) d)
    else
      let out := fun dirn => splitBy dirn (ownLens s d i c.stage c.own) c.own
      pushSegs a 0 (at' 0) (out 0) (pushSegs a 1 (at' 1) (out 1) d)

/-- Hops done in a direction. -/
def hopsDone (c : CollPart) (dirn : Nat) : Nat := if dirn = 1 then c.hops.1 else c.hops.2

/-- One hop of a piece that has arrived whole is reduced or stored, and sent on unless it is the last (R310, R322). -/
def takeHop (s : State) (i dirn : Nat) (d : Desc) : Option Desc :=
  let c := pieceOf d i
  match (stages s d)[c.stage]? with
  | none => none
  | some (red, a) =>
    let n := axisSize s a
    let x := coordOf s (selfId s) a
    let st := streamOf d a dirn
    let k := hopsDone c dirn + 1
    if n ≤ k then none
    else match collectSegs (hopSegs s d i c.stage dirn (k - 1)) st.inb with
    | none => none
    | some (bs, rest) =>
      let d := setStream { st with inb := rest } d
      let c := { c with hops := if dirn = 1 then (k, c.hops.2) else (c.hops.1, k) }
      let on := hopSegs s d i c.stage dirn k
      if red then
        let r := if dirn = 1 then (x + 2 * n - k - 1) % n else (x + k + 1) % n
        let own := shardHalf c.vec n r dirn
        let vals := ((partVals (wideInt s d) bs).zip own).map (fun p => combine (cRedop d) (wideInt s d) p.1 p.2)
        if k + 1 < n then some (pushSegs a dirn on (vals.flatMap (partBytes (wideInt s d))) (setPiece i c d))
        else some (setPiece i { c with halves := if dirn = 1 then (vals, c.halves.2) else (c.halves.1, vals) } d)
      else
        let r := if dirn = 1 then (x + n - k % n) % n else (x + k) % n
        let c := { c with parts := c.parts ++ [(r, dirn, bs.take (splitBy dirn (ownLens s d i c.stage c.own) c.own).length)] }
        if k + 1 < n then some (pushSegs a dirn on bs (setPiece i c d)) else some (setPiece i c d)

/-- Bytes are held in the descriptor's staging and read back for the next stage (R313): a word that cannot be corrected fails it
(R237). -/
def throughStage (bs : List Byte) (d : Desc) (s : State) : Desc × State × List Byte :=
  let w := writeRange .collStage d.coll.stageAt bs s
  let r := readRange .collStage d.coll.stageAt bs.length w.1
  let f := failWords d (w.2 ++ r.2) r.1
  (f.1, f.2, memRead f.2 d.coll.stageAt bs.length)

/-- A stage of a piece is complete when every hop has come in both directions: its result enters the next (R311). The shards of a
multi-axis SUM and the blocks of a compressed exchange pass through staging (R313). -/
def nextStage (i : Nat) (d : Desc) (s : State) : Option (Desc × State) :=
  let c := pieceOf d i
  match (stages s d)[c.stage]? with
  | none => none
  | some (red, a) =>
    let n := axisSize s a
    let x := coordOf s (selfId s) a
    if c.hops ≠ (n - 1, n - 1) then none
    else
      let next := (stages s d)[c.stage + 1]?
      let c' : CollPart := { c with stage := c.stage + 1, hops := (0, 0), halves := ([], []), parts := [] }
      if red then
        let vec := c.halves.1 ++ c.halves.2
        match next with
        | some (true, _) =>
          if multiSum s d then
            let p := throughStage (vec.flatMap (partBytes (wideInt s d))) d s
            let d := setPiece i { c' with vec := partVals (wideInt s d) p.2.2 } p.1
            some (openStage p.2.1 i d, p.2.1)
          else some (openStage s i (setPiece i { c' with vec := vec } d), s)
        | _ =>
          let D := tFmt (tensorEntry s d.ctx (cDst d))
          some (openStage s i (setPiece i { c' with vec := vec, own := packBits (fmtBits D) (vec.map (fpEncode D)) } d), s)
      else
        let part := fun k dirn => match c.parts.find? (fun p => p.1 == k && p.2.1 == dirn) with
          | some p => p.2.2
          | none => []
        let lens := ownLens s d i c.stage c.own
        let own := (List.range n).flatMap (fun k => if k = x then c.own else joinBy lens (part k 1) (part k 0))
        if cComp d = 0 then some (openStage s i (setPiece i { c' with own := own } d), s)
        else
          let p := throughStage own d s
          some (openStage p.2.1 i (setPiece i { c' with own := p.2.2 } p.1), p.2.1)

/-- The first piece that can go on does. -/
def collAdvance (d : Desc) (s : State) : Option (Desc × State) :=
  (List.range d.coll.pieces.length).findSome? (fun i =>
    match takeHop s i 1 d with
    | some d' => some (d', s)
    | none => match takeHop s i 0 d with
      | some d' => some (d', s)
      | none => nextStage i d s)

/-- A collective goes on as far as what has arrived lets it: every piece that has what its stage needs (R313). -/
def collRunOn : Nat → Desc → State → Desc × State
  | 0, d, s => (d, s)
  | k + 1, d, s => match collAdvance d s with
    | some p => collRunOn k p.1 p.2
    | none => (d, s)

/-- Whether every stage of every piece is done. -/
def stagesDone (s : State) (d : Desc) : Bool := d.coll.pieces.all (fun c => (stages s d).length ≤ c.stage)

/-- The bytes that a gather has brought together, rank by rank or in the order of the elements, from every piece (R313). -/
def gathered (s : State) (d : Desc) : List Byte :=
  let ps := d.coll.pieces
  let n := if cComp d ≠ 0 ∨ dOp d = 3 then groupSize s d else 2 * groupSize s d
  match ps with
  | [c] => c.own
  | _ => (List.range n).flatMap (fun b => ps.flatMap (fun c => let l := c.own.length / n; (c.own.drop (b * l)).take l))

/-- The shard that a reduction leaves on this device, from every piece. -/
def reduced (d : Desc) : List FV :=
  match d.coll.pieces with
  | [c] => c.vec
  | ps => ps.flatMap (fun c => c.vec.take (c.vec.length / 2)) ++ ps.flatMap (fun c => c.vec.drop (c.vec.length / 2))

/-! ### Compressed exchange (R318 to R323) -/

/-- The residual slots a descriptor reads and writes (R319). -/
def efbSlots (s : State) (d : Desc) : Nat × Nat :=
  match d.step with
  | none => (0, 0)
  | some n =>
    let m := (tensorEntry s d.ctx (cEfb d)).d1
    ((n + m - 1) % m, n % m)

/-- Rank of a magnitude for selection: NaN above all, then infinity, then by value (R320). -/
def magLt (a b : FV) : Bool :=
  if fvIsNan a then false else if fvIsNan b then true else fvLt (fvAbs a) (fvAbs b)

/-- The indices selected in a block, in increasing order (R320). -/
def topk (k : Nat) (vs : List FV) : List Nat :=
  let idx := List.range vs.length
  let v := fun i => vs.getD i fvZero
  idx.filter (fun i =>
    (idx.filter (fun j => magLt (v i) (v j) || (!magLt (v j) (v i) && j < i))).length < k)

/-- A block compressed by top-k: its values sent as (offset, value), its residuals (R320). -/
def topkBlock (k : Nat) (vs : List FV) : List (Nat × FV) × List FV :=
  let sel := topk k vs
  (sel.map (fun i => (i, rndBf16 (vs.getD i fvZero))),
    (List.range vs.length).map (fun i =>
      let v := vs.getD i fvZero
      if sel.contains i then
        match v with
        | .fin _ _ _ => rnd32 (fvAdd v (fvMinus (rndBf16 v)))
        | _ => .nan
      else v))

/-- A block compressed by sign: its scale, the values sent, its residuals (R321). -/
def signBlock (vs : List FV) : FV × List FV × List FV :=
  let a := vs.foldl (fun a v => f32Add a (fvAbs v)) fvZero
  let m := f32Div a (fvOfNat vs.length)
  let sent := vs.map (fun v => if fvNeg v then fvMinus m else m)
  (m, sent, (vs.zip sent).map (fun p => f32Sub p.1 p.2))

/-- Blocks of a vector, the last one shorter (R318). -/
def blocksOf (l : Nat) (vs : List FV) : List (List FV) :=
  (List.range ((vs.length + l - 1) / l)).map (fun i => (vs.drop (i * l)).take l)

/-- Bytes padded to whole words. -/
def blockBytes (d : Desc) (vs : List FV) : List Byte :=
  if cComp d = 1 then
    pad8 ((topkBlock (min (cTopk d) vs.length) vs).1.flatMap (fun e =>
      leBytes (e.1 + fpEncode .bf16 e.2 * 2 ^ 24) 6))
  else
    let r := signBlock vs
    leBytes (fpEncode .fp32 r.1) 8 ++ pad8 (packBits 1 (vs.map (fun v => if fvNeg v then 1 else 0)))

/-- The residuals of a block. -/
def blockResid (d : Desc) (vs : List FV) : List FV :=
  if cComp d = 1 then (topkBlock (min (cTopk d) vs.length) vs).2 else (signBlock vs).2.2

/-- The values a rank sent for a block of `l` elements, none where it selected nothing (R322, R323). -/
def blockVals (d : Desc) (l : Nat) (bs : List Byte) : List (Option FV) :=
  if cComp d = 1 then
    let es := (unpackBits 48 (min (cTopk d) l) bs).map (fun e => (bitsOf e 0 24, fpDecode .bf16 (bitsOf e 24 16)))
    (List.range l).map (fun i => (es.find? (fun e => e.1 == i)).map (·.2))
  else
    let m := f32 (leNat (bs.take 4))
    (unpackBits 1 l (bs.drop 8)).map (fun b => some (if b = 1 then fvMinus m else m))

/-- Bytes of a compressed block of `l` elements (R322). -/
def blockSize (d : Desc) (l : Nat) : Nat :=
  if cComp d = 1 then (6 * min (cTopk d) l + 7) / 8 * 8 else 8 + (l + 63) / 64 * 8

/-- The values one rank sent for the whole vector. -/
def rankVals (d : Desc) (bs : List Byte) : List (Option FV) :=
  let n := cCount d
  let l := cBlock d
  (List.range ((n + l - 1) / l)).flatMap (fun i =>
    blockVals d (min l (n - i * l)) ((bs.drop (i * blockSize d l)).take (blockSize d (min l (n - i * l)))))

/-- The sum over the ranks that sent an element, in rank order (R323); +0 where none did. -/
def rankSum : List (Option FV) → FV
  | [] => fvZero
  | vs => match vs.filterMap id with
    | [] => fvZero
    | v :: r => r.foldl (fun a x => f32Add a x) v

/-! ### Starting and finishing -/

/-- Whether every CE the descriptor names can take it: fewer than four at once, and not lent to Lint (R241, R308). -/
def ceFree (s : State) (d : Desc) : Bool :=
  (cAxes d).all (fun a =>
    decide ((s.inflight.filter (fun e => dClass e == 3 && e.run == .running && (cAxes e).contains a)).length < 4)
      && !s.lent.any (fun l => l.unit == pathColl a))

/-- READYs of the directions a collective receives from (R316). -/
def sendReadys (dirs : List (Nat × Nat)) (d : Desc) (s : State) : State :=
  dirs.foldl (fun s p => announce (flowFrom s p.1 p.2) 1 false p.2 p.1 (transferId d) (dStag d) 0 s) s

/-- The lag of a neighbour on an axis enters a step's record (R337, R338). -/
def noteLag (d : Desc) (axis src lag : Nat) (s : State) : State :=
  match d.step with
  | none => s
  | some n => modStep n (fun r =>
      { r with
        lags := (List.range 4).map (fun a => if a = axis then max (r.lags.getD a 0) lag else r.lags.getD a 0)
        late := match r.late with
          | some l => if l.2 < lag then some (src, lag) else r.late
          | none => if lag = 0 then none else some (src, lag) }) s

/-- The axis along which a broadcast reaches this device: the last named one on which it is not at ROOT; none at the root
(R312). -/
def bcastAxis (s : State) (d : Desc) : Option Nat :=
  ((liveAxes s d).filter (fun a => coordOf s (selfId s) a != cRoot d)).getLast?

/-- A READY from a neighbour that the descriptor also receives from gives that neighbour's lag (R338). -/
def readyLag (d : Desc) (r : Ready) (s : State) : State :=
  if r.kind = 1 && (dOp d != 4 || bcastAxis s d == some r.axis) then noteLag d r.axis r.src (r.sentAt - d.start) s else s

/-- A READY or GRANT reaches its stream (R316). -/
def readyStream (s : State) (r : Ready) (d : Desc) : Desc :=
  let x := streamOf d r.axis r.dirn
  if r.src ≠ flowTo s r.axis r.dirn then d
  else if r.kind = 1 then setStream { x with ready := true } d
  else setStream { x with units := max x.units r.value } d

/-- Held READY and GRANT records of a descriptor are taken (R316, R338). -/
def takeReadys (d : Desc) (s : State) : Desc × State :=
  let mine := fun r : Ready => !r.p2p && r.tag == transferId d && r.stag == dStag d
  (s.readys.filter mine).foldl (fun p r => (readyStream s r p.1, readyLag d r p.2))
    (d, { s with readys := s.readys.filter (fun r => !mine r) })

/-- A finished write of result fields: words that could not be merged fail the descriptor (R237). -/
def writeResult (fs : List (Nat × Nat × Nat)) (d : Desc) (s : State) : Desc × State :=
  if d.fails ≠ [] then (d, s)
  else
    let D := tensorEntry s d.ctx (cDst d)
    let r := storeFields fs (access (collTraffic D) (D.region == 1) true (fs.map (fun f => (f.1, f.2.1))) s)
    failWords d r.2 r.1

/-- A collective whose stages are done and whose parts are sent writes DST and finishes (R311, R312, R323, R516). -/
def collFinish (d : Desc) (s : State) : State :=
  let D := tensorEntry s d.ctx (cDst d)
  let base := tBase s D (dStag d)
  let n := cCount d
  let P := groupSize s d
  let own := gathered s d
  let B := own.length / P
  let fs := match dOp d with
    | 1 =>
      if cComp d = 0 then rawPlace D base 0 n own
      else
        let ranks := (List.range P).map (fun r => rankVals d ((own.drop (r * B)).take B))
        elemFields D base ((List.range n).map (fun i => (i, some (rankSum (ranks.map (fun v => v.getD i none))))))
    | 2 => elemFields D base (((List.range (n / P)).zip (reduced d)).map (fun e => (e.1, some e.2)))
    | 3 => (List.range P).flatMap (fun r => rawPlace D base (r * n) n ((own.drop (r * B)).take B))
    | _ => rawPlace D base 0 n d.coll.own
  let p := writeResult fs d s
  let q := grantAll true p.1 p.2
  finish q.1 q.2

/-- A collective is carried on: hops, then packets, then grants, then its end. -/
def collDrive (d : Desc) (s : State) : State :=
  let r := collRunOn 65536 d s
  let p := pumpAll r.1 r.2
  let q := grantAll false p.1 p.2
  if stagesDone q.2 q.1 && q.1.coll.streams.all (fun x => x.out == []) then collFinish q.1 q.2
  else setDesc q.1 q.2

/-- The elements of SRC are read and checked; uncorrectable words fail the descriptor (R237). -/
def readSrc (n : Nat) (d : Desc) (s : State) : Desc × State × List FV :=
  let S := tensorEntry s d.ctx (cSrc d)
  let base := tBase s S (dStag d)
  let r := readElems (collTraffic S) S base (List.range n) s
  let p := failWords d r.2 r.1
  (p.1, p.2, (List.range n).map (fun i => (elemGet p.2 r.2 S base i).getD fvZero))

/-- Both directions of every axis on which something travels. -/
def allDirs (s : State) (d : Desc) : List (Nat × Nat) := (liveAxes s d).flatMap (fun a => [(a, 1), (a, 0)])

/-- Runs of bytes from the addresses of words of 4 bytes: neighbours joined. -/
def joinRuns : List Nat → List (Nat × Nat)
  | [] => []
  | a :: l => match joinRuns l with
    | (b, n) :: r => if a + 4 = b then (a, n + 4) :: r else (a, 4) :: (b, n) :: r
    | [] => [(a, 4)]

/-- The residual slot that a compressed descriptor writes is noted with its step, as runs of image offsets, in ring order (R324,
R349). -/
def noteEfb (d : Desc) (s : State) : State :=
  match d.step with
  | none => s
  | some n =>
    let E := tensorEntry s d.ctx (cEfb d)
    let base := tBase s E (dStag d)
    let slot := (efbSlots s d).2
    let runs := if tileSide E = 0 then [(base + slot * E.s1, 4 * cCount d)]
      else joinRuns ((List.range (cCount d)).map (fun i => elemBitAddr E base (slot * cCount d + i) / 8))
    let off := fun a => a - ff s F.SEAM_EFB_BASE + ff s F.SEAM_STATE_SIZE_BYTES
    let before := fun (x : Nat × Nat × Nat) => decide (2 ^ 31 ≤ (x.1 + 2 ^ 32 - d.cnt) % 2 ^ 32)
    modStep n (fun r => { r with efbOffs := r.efbOffs.filter before ++ runs.map (fun x => (d.cnt, off x.1, x.2))
                                   ++ r.efbOffs.filter (fun x => !before x) }) s

/-- The compressed form of a descriptor's input, block by block, with its residuals written (R319 to R322). -/
def compressSrc (d : Desc) (s : State) : Desc × State × List (List Byte) :=
  let n := cCount d
  let E := tensorEntry s d.ctx (cEfb d)
  let eb := tBase s E (dStag d)
  let sl := efbSlots s d
  let p := readSrc n d s
  let pos := fun slot => (List.range n).map (slot * n + ·)
  let r := readElems (collTraffic E) E eb (pos sl.1) p.2.1
  let q := failWords p.1 r.2 r.1
  let v := ((pos sl.1).zip p.2.2).map (fun e => f32Add e.2 ((elemGet q.2 r.2 E eb e.1).getD fvZero))
  let bl := blocksOf (cBlock d) v
  let res := bl.flatMap (blockResid d)
  let w := if q.1.fails = [] then writeElems (collTraffic E) E eb (((pos sl.2).zip res).map (fun e => (e.1, some e.2))) q.2
    else (q.2, [])
  let f := failWords q.1 w.2 w.1
  (f.1, noteEfb d f.2, bl.map (blockBytes d))

/-- The pieces of a reduction or gather, from its input (R309 to R313, R322). -/
def formPieces (q : Nat) (d : Desc) (s : State) : Desc × State :=
  let n := cCount d
  let ls := pieceLens s d q
  let whole := fun (vec : List FV) (own : List Byte) => (⟨0, (0, 0), vec, ([], []), [], own⟩ : CollPart)
  let p : Desc × State × List CollPart :=
    if dOp d = 3 then
      let S := tensorEntry s d.ctx (cSrc d)
      let base := tBase s S (dStag d)
      let r := readElems (collTraffic S) S base (List.range n) s
      let f := failWords d r.2 r.1
      (f.1, f.2, [whole [] (rawRead f.2 S base 0 n)])
    else if cComp d ≠ 0 then
      let r := compressSrc d s
      (r.1, r.2.1, (List.range q).map (fun i =>
        whole [] (((r.2.2.drop (i * ls.getD 0 0)).take (ls.getD i 0)).flatMap id)))
    else
      let r := readSrc n d s
      (r.1, r.2.1, if q = 1 then [whole r.2.2 []]
        else (List.range q).map (fun i => whole (pieceVec r.2.2 (2 * groupSize s d) ls i) []))
  ({ p.1 with coll := { p.1.coll with pieces := p.2.2 } }, p.2.1)

/-- A reduction or gather starts (R308 to R323): READYs, its first parts, and what has been announced already. -/
def collStart (d : Desc) (s : State) : State :=
  let q := (piecesOf s d).getD (1, 0)
  let d := { d with coll := { d.coll with streams := (allDirs s d).map (fun p => newStream p.1 p.2),
                                          stageAt := q.2, stageLen := pieceBytes s d q.1 } }
  let p := formPieces q.1 d s
  let s := sendReadys (allDirs s d) d p.2
  let d := (List.range p.1.coll.pieces.length).foldl (fun d i => openStage s i d) p.1
  let t := takeReadys d s
  collDrive t.1 t.2

/-- The coordinate of this device on an axis. -/
def myCoord (s : State) (a : Nat) : Nat := coordOf s (selfId s) a

/-- What a broadcast sends on: the halves to the axes after the one it came on, and along that one until the root is next. -/
def bcastSend (s : State) (d : Desc) : Desc :=
  let from? := bcastAxis s d
  (liveAxes s d).foldl (fun d a =>
    let n := axisSize s a
    let x := myCoord s a
    match from? with
    | some b =>
      if a < b then d
      else if a = b then
        let d := if (x + 1) % n ≠ cRoot d then push a 1 0 (byteHalf d.coll.own 1) d else d
        if (x + n - 1) % n ≠ cRoot d then push a 0 0 (byteHalf d.coll.own 0) d else d
      else push a 0 0 (byteHalf d.coll.own 0) (push a 1 0 (byteHalf d.coll.own 1) d)
    | none => push a 0 0 (byteHalf d.coll.own 0) (push a 1 0 (byteHalf d.coll.own 1) d)) d

/-- A broadcast goes on: both halves in, then sent on, then written (R312). -/
def bcastDrive (d : Desc) (s : State) : State :=
  let len := packedBytes (tensorEntry s d.ctx (cDst d)) (cCount d)
  let z := List.replicate len (0 : Byte)
  let d := match bcastAxis s d, d.coll.stage with
    | some a, 0 =>
      let p := streamOf d a 1
      let m := streamOf d a 0
      let lp := (byteHalf z 1).length
      let lm := (byteHalf z 0).length
      match collect 0 ((lp + 7) / 8 * 8) p.inb, collect 0 ((lm + 7) / 8 * 8) m.inb with
      | some x, some y =>
        let d := setStream { p with inb := [] } (setStream { m with inb := [] } d)
        bcastSend s { d with coll := { d.coll with stage := 1, own := x.1.take lp ++ y.1.take lm } }
      | _, _ => d
    | _, _ => d
  let p := pumpAll d s
  let q := grantAll false p.1 p.2
  if q.1.coll.stage = 1 && q.1.coll.streams.all (fun x => x.out == []) then collFinish q.1 q.2
  else setDesc q.1 q.2

/-- A BROADCAST starts (R312). -/
def bcastStart (d : Desc) (s : State) : State :=
  let d := { d with coll := { d.coll with streams := (allDirs s d).map (fun p => newStream p.1 p.2), stage := 0 } }
  let p := match bcastAxis s d with
    | some a => (d, sendReadys [(a, 1), (a, 0)] d s)
    | none =>
      let S := tensorEntry s d.ctx (cSrc d)
      let base := tBase s S (dStag d)
      let r := readElems (collTraffic S) S base (List.range (cCount d)) s
      let f := failWords d r.2 r.1
      (bcastSend f.2 { f.1 with coll := { f.1.coll with stage := 1, own := rawRead f.2 S base 0 (cCount d) } }, f.2)
  let q := takeReadys p.1 p.2
  bcastDrive q.1 q.2

/-- Whether the accesses of a COLL descriptor wait at the controllers (R220, R224). -/
def collHeld (s : State) (d : Desc) : Bool :=
  let r := descRanges s d
  accessHeld s .coll ((r.1 ++ r.2).map (fun x => (8 * x.1, 8 * x.2)))

/-- A COLL command: the descriptor starts when its CEs can take it (R308), with staging free for a piece (R313). -/
def startColl (c cnt op : Nat) (f : Desc → State → State) (s : State) : State :=
  match findDesc s c 1 cnt with
  | none => s
  | some d => if ceFree s d && (4 ≤ op || (piecesOf s d).isSome) && !collHeld s d then withStart s c 1 cnt 3 op f else s

/-- ALLREDUCE (R309 to R311, R318 to R323). -/
def execAllreduce (r : DescRef) (s : State) : Host.Outcome State Fault Refusal :=
  .next (startColl r.ctx.val r.cnt.toNat 1 collStart s)
/-- REDUCE_SCATTER (R309 to R311). -/
def execReduceScatter (r : DescRef) (s : State) : Host.Outcome State Fault Refusal :=
  .next (startColl r.ctx.val r.cnt.toNat 2 collStart s)
/-- ALLGATHER (R309, R312). -/
def execAllgather (r : DescRef) (s : State) : Host.Outcome State Fault Refusal :=
  .next (startColl r.ctx.val r.cnt.toNat 3 collStart s)
/-- BROADCAST (R312). -/
def execBroadcast (r : DescRef) (s : State) : Host.Outcome State Fault Refusal :=
  .next (startColl r.ctx.val r.cnt.toNat 4 bcastStart s)

end Sys2Proof.Machine
end

