-- ==== Sys2Proof/Machine/CollRx.lean ====
section
/-!
DEFINITION. SEND and RECV (R325, R326), VERIFY (R284), and the arrival of ANNOUNCE, COLL, P2P and aborted packets (R285,
R310, R316, R317, R326, R338, R519), with the fences of R317.
-/
namespace Sys2Proof.Machine

/-! ### Fences (R317) -/

/-- A fence of a class arrives from a neighbour: it ends one discard's wait, or is recorded for the next discard (R317). -/
def fenceIn (src cls : Nat) (s : State) : State :=
  if s.fenceNeed.contains (src, cls) then { s with fenceNeed := s.fenceNeed.erase (src, cls) }
  else { s with fenceGot := s.fenceGot ++ [(src, cls)] }

/-- What becomes of a packet of the step context from a neighbour: dropped before the fence of this device's own discard,
kept waiting behind a fence that came before that discard, or taken. -/
inductive FenceSays where
  | take | drop | wait
  deriving DecidableEq, Repr

/-- The rule of R317 for a packet of the step context. -/
def fenceSays (s : State) (src cls : Nat) : FenceSays :=
  if s.fenceNeed.contains (src, cls) then .drop
  else if 0 < fencesAhead s src cls then .wait
  else .take

/-- A packet of the step context passes the fences, is dropped and counted, or waits. -/
def pastFence (w : Waiting) (f : State → State) (s : State) : State :=
  match fenceSays s w.pkt.src.toNat w.pkt.tclass.toNat with
  | .take => f s
  | .drop => bump F.COLL_FENCE_DROP 1 s
  | .wait => { s with fenceQ := s.fenceQ ++ [{ w with after := fencesAhead s w.pkt.src.toNat w.pkt.tclass.toNat }] }

/-- The wait of a discard for one fence: one that has come already ends it at once (R317). -/
def awaitFence (s : State) (f : Nat × Nat) : State :=
  if s.fenceGot.contains f then { s with fenceGot := s.fenceGot.erase f } else { s with fenceNeed := s.fenceNeed ++ [f] }

/-- One fence in each class to each logical neighbour, and the wait for theirs (R317). -/
def sendFences (s : State) : State :=
  let s := (neighbours s).foldl (fun s n =>
    let s := announce n 3 false 0 0 (stepCtx s) 0 0 s
    let s := inject n 1 8 0 (stepCtx s) 0xFFFFFFFF [] 0 s
    let s := inject n 2 9 0 (stepCtx s) 0xFFFFFFFF [] 0 s
    inject n 3 8 0 (stepCtx s) 0xFFFFFFFF [] 0 s) s
  ((neighbours s).flatMap (fun n => (List.range 4).map (fun c => (n, c)))).foldl awaitFence s

/-! ### SEND and RECV (R325, R326) -/

/-- The axis a SEND or RECV names. -/
def p2pAxis (d : Desc) : Nat := (cAxes d).headD 0

/-- The direction in which its data flows: towards the neighbour a SEND names, from the one a RECV names. -/
def p2pDirn (d : Desc) : Nat := if dOp d = 5 then cDir d else 1 - cDir d

/-- The neighbour it names. -/
def p2pPeer (s : State) (d : Desc) : Nat := neighbour s (p2pAxis d) (cDir d == 1)

/-- Whether a computation that has fed a SEND's data did not end its checks clean, so that no VERIFY is due (R26, R284). -/
def sendTainted (s : State) (d : Desc) : Bool :=
  (d.step.bind (findStep s)).any (fun r => (descRanges s d).1.any (fun a => r.taint.any (meets a)))

/-- A SEND that holds its READY sends all of its packets (R325, R326), with ABORT when it has failed (R519), and finishes.
One that is longer than the capacity announced fails with SHAPE. Along Z its VERIFY is then due (R284). -/
def sendGo (d : Desc) (s : State) : State :=
  match d.coll.cap with
  | none => setDesc d s
  | some cap =>
    let len := d.coll.own.length
    let d := if cap < len then { d with fails := d.fails ++ [cShape] } else d
    let peer := p2pPeer s d
    let s := if d.fails = [] then
        injectBytes peer (cClass d) 9 (dStag d) (cTag d) (len / 4072 + 1) 0 d.coll.own s
      else (List.range ((len + 4071) / 4072)).foldl (fun s i =>
        inject peer (cClass d) 9 (dStag d) (cTag d) (509 * i) (List.replicate (min 4072 (len - 4072 * i)) 0) 3 s) s
    let s := bump (F.COLL_CE_BYTES (p2pAxis d)) len s
    let s := match d.step with
      | some n =>
        if p2pAxis d = 2 ∧ d.fails = [] ∧ !sendTainted s d then
          { s with sends := s.sends ++ [⟨d.ctx, d.cnt, n, p2pDirn d, cTag d, len⟩] } else s
      | none => s
    finish d s

/-- A SEND starts: its data is read and checked, and a READY held for it is taken (R325). -/
def sendStart (d : Desc) (s : State) : State :=
  let S := tensorEntry s d.ctx (cSrc d)
  let base := tBase s S (dStag d)
  let r := readElems (collTraffic S) S base (List.range (cCount d)) s
  let f := failWords d r.2 r.1
  let s := f.2
  let d := { f.1 with coll := { f.1.coll with own := rawRead s S base 0 (cCount d) } }
  let mine := fun x : Ready => x.p2p && x.kind == 1 && x.tag == cTag d && x.stag == dStag d && x.axis == p2pAxis d
    && x.dirn == p2pDirn d && x.src == p2pPeer s d
  match s.readys.find? mine with
  | none => sendGo d s
  | some x => sendGo { d with coll := { d.coll with cap := some x.value } }
      { s with readys := s.readys.filter (fun y => !mine y) }

/-- SEND (R325, R326). -/
def execSend (r : DescRef) (s : State) : Host.Outcome State Fault Refusal :=
  .next (startColl r.ctx.val r.cnt.toNat 5 sendStart s)

/-- The bit fields in which the bytes of a SEND are placed in DST (R326): whole elements from element 0, then scale bytes
from block 0 when DST is blocked. Bits that only fill the SEND's last byte are not placed (DESIGN CHOICE, log 92). -/
def recvFields (s : State) (d : Desc) (bs : List Byte) : List (Nat × Nat × Nat) :=
  let D := tensorEntry s d.ctx (cDst d)
  let base := tBase s D (dStag d)
  let w := fmtBits (tFmt D)
  let n := cCount d * w
  let bits := if 8 * d.coll.elem < n + 8 then min (8 * d.coll.elem) n else 8 * d.coll.elem
  let m := min (bits / w) (tCount D)
  let rest := if m < tCount D then bits - m * w else 0
  let v := leNat (bs.take d.coll.elem)
  let part := if rest = 0 then [] else [(elemBitAddr D base m, rest, bitsOf v (m * w) rest)]
  rawFields D base 0 (tCount D) ((List.range m).map (fun i => bitsOf v (i * w) w)) (bs.drop d.coll.elem) ++ part

/-- A RECV whose last byte has arrived writes DST and finishes (R326); the wait is counted (R519). -/
def recvDone (d : Desc) (s : State) : State :=
  let wait := nowNs s - d.start
  let s := bump F.COLL_RECV_WAIT_NS wait s
  let s := match d.step with
    | some n => modStep n (fun r => { r with recvNs := r.recvNs + wait }) s
    | none => s
  let bs := (d.coll.parts.foldl (fun l p => insertPart p l) []).flatMap (fun p => p.2.2)
  let p := writeResult (recvFields s d bs) d s
  finish p.1 p.2

/-- Part of a SEND's bytes reaches its RECV. -/
def recvTake (off elem total : Nat) (bs : List Byte) (d : Desc) (s : State) : State :=
  let c := { d.coll with parts := d.coll.parts ++ [(off, 0, bs)], recvd := d.coll.recvd + bs.length,
                         elem := elem, total := total }
  let d := { d with coll := c }
  if total ≤ c.recvd then recvDone d s else setDesc d s

/-- The VERIFIED kept packets that a replayed RECV uses at once (R53). -/
def keptFor (s : State) (d : Desc) : List Kept :=
  match d.step.bind (findStep s) with
  | none => []
  | some r =>
    if !r.replay || p2pAxis d != 2 then []
    else s.kept.filter (fun k => k.pipe && k.step == r.num && k.tag == cTag d && k.dirn == p2pDirn d
      && k.src == p2pPeer s d && k.verified && !k.absent)

/-- A kept packet is read, checked and handed to its RECV; an uncorrectable word marks it absent (R237). -/
def recvKept (k : Kept) (p : Desc × State) : Desc × State :=
  let r := readRange .keep k.addr k.len p.2
  let f := failKept p.1 k r.2 r.1
  let c := { f.1.coll with parts := f.1.coll.parts ++ [(k.off, 0, memRead f.2 k.addr k.len)],
                           recvd := f.1.coll.recvd + k.len, elem := k.elem, total := k.total }
  ({ f.1 with coll := c },
    if r.2 = [] then f.2
    else { f.2 with kept := f.2.kept.map (fun x => if x = k then { x with absent := true } else x) })

/-- A RECV starts: READY with its TAG and capacity (R325); on a replay, each VERIFIED kept packet is used at once, and the others
come in the sender's replayed copy (R53). -/
def recvStart (d : Desc) (s : State) : State :=
  let D := tensorEntry s d.ctx (cDst d)
  let cap := packedBytes D (cCount d)
  let s := announce (p2pPeer s d) 1 true (p2pDirn d) (p2pAxis d) (cTag d) (dStag d) cap s
  if cap = 0 then recvDone d s
  else
    let fresh := { d with coll := { d.coll with parts := [], recvd := 0, total := 0 } }
    let p := (keptFor s d).foldl (fun p k => recvKept k p) (fresh, s)
    if p.1.coll.total ≤ p.1.coll.recvd ∧ p.1.coll.recvd ≠ 0 then recvDone p.1 p.2 else setDesc p.1 p.2

/-- RECV (R325, R326, R53). -/
def execRecv (r : DescRef) (s : State) : Host.Outcome State Fault Refusal :=
  .next (startColl r.ctx.val r.cnt.toNat 6 recvStart s)

/-- Whether a packet is of a SEND of this device. -/
def ofSend (s : State) (x : SentSend) (p : Packet) : Bool :=
  p.typ == 9 && p.tag.toNat == x.tag && p.stag.toNat == x.step % 4 && p.dst.toNat == neighbour s 2 (x.dirn == 1)

/-- Whether a packet of a SEND has not been sent: it is held at injection, or waits in an output queue (R284). -/
def sendWaits (s : State) (x : SentSend) : Bool :=
  s.injHeld.any (ofSend s x) || s.vcs.any (fun v => v.2.queue.any (fun e => e.inp.isNone && ofSend s x e.pkt))

/-- VERIFY_SEND (R284): the VERIFY of a SEND along Z leaves once its checks have finished clean and its last packet has been
sent. -/
def execVerifySend (r : DescRef) (s : State) : Host.Outcome State Fault Refusal :=
  match s.sends.find? (fun x => x.ctx == r.ctx.val && x.cnt == r.cnt.toNat) with
  | none => .next s
  | some x =>
    if sendWaits s x then .next s else
    .next (inject (neighbour s 2 (x.dirn == 1)) 0 6 (x.step % 4) 0 0
      (leBytes (x.step + x.dirn * 2 ^ 48) 8 ++ leBytes x.tag 8 ++ leBytes x.bytes 8 ++ List.replicate 16 0) 0
      { s with sends := s.sends.filter (· != x) })

/-! ### Arrivals -/

/-- A READY or GRANT for a descriptor that has not started is held, up to 256 per neighbour and direction (R316). -/
def holdReady (r : Ready) (s : State) : State :=
  if 256 ≤ (s.readys.filter (fun x => x.src == r.src && x.dirn == r.dirn)).length then bump F.COLL_READY_DROP 1 s
  else { s with readys := s.readys ++ [r] }

/-- The running descriptor a READY or GRANT is for. -/
def readyFor (s : State) (r : Ready) : Option Desc :=
  s.inflight.find? (fun d => dClass d == 3 && d.run == .running && dStag d == r.stag &&
    (if r.p2p then dOp d == 5 && cTag d == r.tag && p2pAxis d == r.axis && p2pDirn d == r.dirn && p2pPeer s d == r.src
        && d.coll.cap.isNone
     else dOp d ≤ 4 && transferId d == r.tag && flowTo s r.axis r.dirn == r.src))

/-- A collective descriptor is carried on after an arrival. -/
def driveColl (d : Desc) (s : State) : State := if dOp d = 4 then bcastDrive d s else collDrive d s

/-- Whether a READY or GRANT of a collective is for a descriptor that has ended: its context has fetched it, and it is no longer in
flight. Such a record is of no use to anything (R315, R316). Off the step context a neighbour that has enabled its ring again may
give an index anew, so that a READY is held there for the descriptor to come. -/
def readyEnded (s : State) (r : Ready) : Bool :=
  let c := r.tag % 64
  let next := smGet (fun _ => 0) s.collIdx (if c = stepCtx s then 64 + r.stag else c)
  !r.p2p && (r.kind == 2 || c == stepCtx s) && (next + 2 ^ 24 - 1 - r.tag / 256) % 2 ^ 24 < 2 ^ 23 && next != 0
    && !s.inflight.any (fun d => dClass d == 3 && dOp d ≤ 4 && transferId d == r.tag)

/-- A READY or GRANT is taken by its descriptor or held (R316, R325, R338). -/
def readyIn (r : Ready) (s : State) : State :=
  match readyFor s r with
  | none => if readyEnded s r then s else holdReady r s
  | some d =>
    if r.p2p then sendGo { d with coll := { d.coll with cap := some r.value } } s
    else driveColl (readyStream s r d) (readyLag d r s)

/-- The record of an ANNOUNCE packet (R316). -/
def readyOf (p : Packet) : Ready :=
  let w := fun i => leNat ((p.payload.drop (8 * i)).take 8)
  ⟨bitsOf (w 0) 0 4, bitsOf (w 0) 4 1 == 1, bitsOf (w 0) 5 1, bitsOf (w 0) 6 2, bitsOf (w 0) 32 32, p.src.toNat,
    p.stag.toNat, w 1, w 2⟩

/-- An ANNOUNCE packet that has passed the fences. -/
def announceTake (p : Packet) (s : State) : State :=
  let r := readyOf p
  if r.kind = 1 ∨ r.kind = 2 then readyIn r s else s

/-- ANNOUNCE_RECEIVE (R316, R317). -/
def execAnnounceReceive (bad : Bool) (p : Packet) (s : State) : Host.Outcome State Fault Refusal :=
  let r := readyOf p
  if !consumerUp s 7 then .next s
  else if bad then .next (endpointDrop (pathColl r.axis) s)
  else if r.kind = 3 then .next (fenceIn p.src.toNat 0 s)
  else if r.p2p || r.tag % 64 == stepCtx s then
    .next (pastFence ⟨r.axis, r.dirn == 1, false, 0, 0, p, 0⟩ (announceTake p) s)
  else .next (announceTake p s)

/-- Whether a packet is a fence: no payload and OFFSET all ones (R317). -/
def isFence (p : Packet) : Bool := p.payload == [] && p.offset == 0xFFFFFFFF#32

/-- The running collective a COLL packet belongs to (R315) (DESIGN CHOICE, log 109). -/
def collFor (s : State) (tag : Nat) : Option Desc :=
  s.inflight.find? (fun d => dClass d == 3 && d.run == .running && dOp d ≤ 4 && transferId d == tag)

/-- A packet that a descriptor cannot use fails it: one whose cells failed their check after the port, or an aborted one (R237,
R285). The CHECK_ERROR notice gives its OFFSET as the cell sequence (R95; DESIGN CHOICE, log 125). -/
def failPacket (w : Waiting) (d : Desc) (s : State) : Desc × State :=
  ({ d with fails := d.fails ++ [0x11] }, failNotice d 0x11 (pathColl w.axis) w.pkt.offset.toNat s)

/-- A COLL packet that has passed the fences: its bytes join its stream at their place and are consumed (R316); a cell that failed
its check after the port, or an aborted packet, fails the descriptor, and the exchange goes on (R237, R285, R310, R519). -/
def collTake (w : Waiting) (s : State) : State :=
  match collFor s w.pkt.tag.toNat with
  | none => s
  | some d =>
    let x := streamOf d w.axis w.plus.toNat
    let got := x.got + (w.pkt.payload.length + 7) / 8 * 8
    let d := setStream { x with inb := x.inb ++ [(8 * w.pkt.offset.toNat, pad8 w.pkt.payload)], got := got, eaten := got } d
    if w.bad || w.pkt.abort then
      let f := failPacket w d s
      driveColl f.1 f.2
    else driveColl d s

/-- A COLL or P2P packet of the step context passes the fences first. -/
def overFence (w : Waiting) (f : Waiting → State → State) (s : State) : State :=
  if w.pkt.typ = 9 ∨ w.pkt.tag.toNat % 64 = stepCtx s then pastFence w (f w) s else f w s

/-- Cells that failed the check after the port: counted, as uncorrectable words of an on-die store too (R237). -/
def badCells (axis : Nat) (bad : Bool) (s : State) : State :=
  if bad then endpointDrop (pathColl axis) s else s

/-- A packet with ABORT is counted where it is received (R285). -/
def cutCount (p : Packet) (s : State) : State := if p.abort then bump F.ROUTE_CUT_PKTS 1 s else s

/-- COLL_PACKET_RECEIVE (R310, R316, R317, R519): along an axis, in a direction; whether its cells failed the check after
the port (R237). -/
def execCollPacketReceive (axis : Fin 4) (plus bad : Bool) (p : Packet) (s : State) : Host.Outcome State Fault Refusal :=
  let s1 := badCells axis.val bad (cutCount p s)
  if !consumerUp s 8 then .next (cutCount p s)
  else if isFence p then .next (fenceIn p.src.toNat p.tclass.toNat s)
  else .next (overFence ⟨axis.val, plus, bad, 0, 0, p, 0⟩ collTake s1)

/-- The running RECV a P2P packet belongs to (R326). -/
def recvFor (s : State) (w : Waiting) : Option Desc :=
  s.inflight.find? (fun d => dClass d == 3 && d.run == .running && dOp d == 6 && dStag d == w.pkt.stag.toNat
    && cTag d == w.pkt.tag.toNat && p2pAxis d == w.axis && p2pDirn d == w.plus.toNat)

/-- The kept-input record of a P2P packet along Z (R25). -/
def keptOfPkt (n : Nat) (w : Waiting) : Kept :=
  ⟨n, true, w.pkt.tag.toNat, w.plus.toNat, w.pkt.src.toNat, 8 * w.pkt.offset.toNat, 0, w.pkt.payload.length,
    false, false, w.elem, w.total, false⟩

/-- A P2P packet that has passed the fences (R25, R53, R237, R285, R326). The lag of its sender is taken from the arrival of the first
packet (R338; DESIGN CHOICE, log 124). -/
def p2pTake (w : Waiting) (s : State) : State :=
  match stepOfTag s w.pkt.stag.toNat with
  | none => s
  | some r =>
    let k := keptOfPkt r.num w
    let dup := w.axis == 2 && r.replay && s.kept.any (fun x => sameKept x k && x.verified && !x.absent)
    if dup then bump F.COLL_DUP_DROP 1 s
    else
      let lost := w.bad || w.pkt.abort
      let s := if w.axis = 2 ∧ !lost then applyVerifies (keepRecord k w.pkt.payload s) else s
      match recvFor s w with
      | none => s
      | some d =>
        let s := if d.coll.recvd = 0 then noteLag d w.axis w.pkt.src.toNat (nowNs s - d.start) s else s
        if lost then
          let f := failPacket w d s
          recvTake (8 * w.pkt.offset.toNat) w.elem w.total w.pkt.payload f.1 f.2
        else recvTake (8 * w.pkt.offset.toNat) w.elem w.total w.pkt.payload d s

/-- Whether the copy of a packet that is to be kept waits at the controllers (R25, R220, R224). -/
def p2pHeld (s : State) (w : Waiting) : Bool :=
  w.axis == 2 && !(w.bad || w.pkt.abort)
    && (stepOfTag s w.pkt.stag.toNat).any (fun r => keepHeld (keptOfPkt r.num w) s)

/-- P2P_PACKET_RECEIVE (R25, R53, R317, R326): along an axis, in a direction; whether its cells failed the check after the
port; and the element bytes and all bytes of its SEND. -/
def execP2pPacketReceive (axis : Fin 4) (plus bad : Bool) (elem total : BitVec 40) (p : Packet) (s : State) :
    Host.Outcome State Fault Refusal :=
  let s1 := badCells axis.val bad (cutCount p s)
  if !consumerUp s 9 then .next (cutCount p s)
  else if isFence p then .next (fenceIn p.src.toNat p.tclass.toNat s)
  else
    let w : Waiting := ⟨axis.val, plus, bad, elem.toNat, total.toNat, p, 0⟩
    if fenceSays s p.src.toNat p.tclass.toNat == .take && p2pHeld s w then .next s else .next (overFence w p2pTake s1)

/-! ### Waits for a neighbour (R325, R341) -/

/-- The axes on which a running COLL descriptor waits for a neighbour's READY or GRANT (R316, R325). -/
def waitAxes (d : Desc) : List Nat :=
  if dClass d != 3 || d.run != .running then []
  else if dOp d = 5 then (if d.coll.cap.isNone then [p2pAxis d] else [])
  else (d.coll.streams.filter (fun x => x.out != [])).map (·.axis)

/-- Time in which descriptors wait for a neighbour is counted: that of each CE once, however many of its descriptors wait, and that of
every SEND, for its step too (R325, R337, R341). -/
def countWaits (ns : Nat) (s : State) : State :=
  let ds := s.inflight.filter (fun d => waitAxes d != [])
  let s := (List.range 4).foldl (fun s a =>
    if ds.any (fun d => (waitAxes d).contains a) then bump (F.COLL_CE_WAIT_NS a) ns s else s) s
  (ds.filter (fun d => dOp d == 5)).foldl (fun s d =>
    let s := bump F.COLL_SEND_WAIT_NS ns s
    match d.step with
    | some n => modStep n (fun r => { r with sendNs := r.sendNs + ns }) s
    | none => s) s

/-! ### Places that packets of Seam streams keep (R348, R351) -/

/-- Whether a peer's identity is one this device consumes streams from (R348). -/
def fromOwner (s : State) (src : Nat) : Bool :=
  ff s F.SEAM_PEER_MIRROR_OF_VALID == 1 && ff s F.SEAM_PEER_MIRROR_OF == src

/-- Whether a peer is the partner. -/
def fromPartner (s : State) (src : Nat) : Bool :=
  ff s F.SEAM_PEER_PARTNER_VALID == 1 && ff s F.SEAM_PEER_PARTNER == src

/-- Whether a packet for this device is of a Seam stream that it consumes: it keeps its places in the receive buffer, and is not
consumed, until the device takes it (R348, R351). -/
def waitsSeam (s : State) (p : Packet) : Bool :=
  let sub := p.tag.toNat % 16
  p.typ == 10 && 1 ≤ sub && sub ≤ 5 && consumerUp s 10 && fromOwner s p.src.toNat

/-- A packet of a Seam stream, by its place among those not consumed yet, leaves the receive buffer, and counts as consumed (R297,
R351; DEDUCED, log 144). -/
def freeSeam (i : Nat) (s : State) : State :=
  match s.seamHeld[i]? with
  | none => s
  | some h =>
    let s1 : State := { bump (if h.epoch = 0 then F.ROUTE_CONS0 else F.ROUTE_CONS1) 1 s with seamHeld := s.seamHeld.eraseIdx i }
    let x := vcRt s1 h.port h.vc
    let s2 := match x.arr with
      | some a => if a.dest = .seam ∧ !s1.seamHeld.any (fun y => y.port == h.port && y.vc == h.vc) then
          setVcRt h.port h.vc { x with arr := some { a with dest := .gone } } s1 else s1
      | none => s1
    pump (if h.cells = 0 then s2 else freeCells h.cells (some (h.port, h.vc)) s2)

/-- A packet of a Seam stream that is not taken leaves the receive buffer: the first that no command has named yet. -/
def skipSeam (s : State) : State := freeSeam s.seamWait.length s

/-- Every packet of a Seam stream that waits is dropped where it waits, and counted: a domain that consumes it resets (R304). -/
def dropSeam (s : State) : State :=
  let n := max s.seamWait.length s.seamHeld.length
  (List.range n).foldl (fun s _ => freeSeam 0 s) { (bump F.ROUTE_LOCAL_DROP n s) with seamWait := [] }

/-- ABORTED_PACKET_RECEIVE (R285): the packet is dropped and counted, and its descriptor fails. -/
def execAbortedPacketReceive (axis : Fin 4) (plus : Bool) (elem total : BitVec 40) (p : Packet) (s : State) :
    Host.Outcome State Fault Refusal :=
  let w : Waiting := ⟨axis.val, plus, false, elem.toNat, total.toNat, { p with abort := true }, 0⟩
  let s1 := bump F.ROUTE_CUT_PKTS 1 (if waitsSeam s p then skipSeam s else s)
  if !consumerUp s p.typ.toNat then .next s1
  else if p.typ = 8 then .next (overFence w collTake s1)
  else if p.typ = 9 then .next (overFence w p2pTake s1)
  else .next s1

/-- Packets that waited behind a fence are consumed, and their cells leave the receive buffer (R297, R317). -/
def freeFenceHeld (s : State) : State :=
  let s1 : State := { s with
    fenceHeld := (s.fenceHeld.filter (fun h => 1 < h.after)).map (fun h => { h with after := h.after - 1 })
    vcs := s.vcs.map (fun x => (x.1, { x.2 with arr := x.2.arr.map (fun a => match a.dest with
      | .kept k => { a with dest := if 1 < k then .kept (k - 1) else .gone }
      | _ => a) })) }
  pump ((s.fenceHeld.filter (fun h => h.after ≤ 1)).foldl (fun s h =>
    freeCells h.cells (some (h.port, h.vc)) (match h.bit with | some b => countCons b s | none => s)) s1)

/-- Every packet that waits behind a fence is dropped where it waits, and counted: CMP resets (R304). -/
def dropFenceQ (s : State) : State :=
  freeFenceHeld (bump F.ROUTE_LOCAL_DROP s.fenceQ.length { s with
    fenceQ := []
    fenceHeld := s.fenceHeld.map (fun h => { h with after := 1 })
    vcs := s.vcs.map (fun x => (x.1, { x.2 with arr := x.2.arr.map (fun a => match a.dest with
      | .kept _ => { a with dest := .kept 1 }
      | _ => a) })) })

/-- Packets that waited behind fences are taken, in order, after as many of this device's own discards (R317). -/
def releaseFenceQ (s : State) : State :=
  (s.fenceQ.filter (fun w => w.after ≤ 1)).foldl (fun s w =>
    if w.pkt.typ = 7 then announceTake w.pkt s else if w.pkt.typ = 8 then collTake w s else p2pTake w s)
    (freeFenceHeld { s with
      fenceQ := (s.fenceQ.filter (fun w => 1 < w.after)).map (fun w => { w with after := w.after - 1 }) })

end Sys2Proof.Machine
end

