-- ==== Sys2Proof/Machine/Residue.lean ====
section
/-!
DEFINITION. Residues modulo 7 (R156, R157): the integer of an element, its residue as the generators at the array edges form
it, and the comparison of a group's residue lane with its group register.
-/
namespace Sys2Proof.Machine

/-- The integer significand of an encoding of `mb` significand bits, by its exponent and significand fields (R156). -/
def sigOf (mb E M : Nat) : Nat := if E = 0 then M else M + 2 ^ mb

/-- The integer of an element in units of the quantum of its encoding, before any block scale, and its residue modulo 7 (R156);
none for a NaN, an infinity, or a format that no group sum takes. -/
def laneOf (f : Fmt) (bits : Nat) : Option (Int × Nat) :=
  match f with
  | .int8 => some (twos 8 bits, (twos 8 bits % 7).toNat)
  | _ =>
    match fpShape f with
    | none => none
    | some (eb, mb, _) =>
      let mag := bits % 2 ^ (eb + mb)
      if mag > fpMaxCode f then none
      else
        let E := mag / 2 ^ mb
        let sig := sigOf mb E (mag % 2 ^ mb)
        let x := max E 1 - 1
        let r := sig % 7 * 2 ^ (x % 3) % 7
        if bits / 2 ^ (eb + mb) % 2 = 1 then some (-((sig * 2 ^ x : Nat) : Int), (7 - r) % 7)
        else some (((sig * 2 ^ x : Nat) : Int), r)

/-- The integer and residue of a stored element (R156); a block whose scale is NaN gives none. -/
def laneGet (s : State) (t : Tensor) (base pos : Nat) : Option (Int × Nat) :=
  if fmtBlocked (tFmt t) && memGet s (elemScaleAddr t base pos) == 255 then none
  else laneOf (tFmt t) (memBits s (elemBitAddr t base pos) (fmtBits (tFmt t)))

/-- The integer N_g of a group and the sum of its residue lane (R113, R157); none when a product is NaN or infinite. -/
def groupLane : List (Option (Int × Nat) × Option (Int × Nat)) → Option (Int × Nat)
  | [] => some (0, 0)
  | (some a, some b) :: ps => (groupLane ps).map (fun q => (a.1 * b.1 + q.1, (a.2 * b.2 + q.2) % 7))
  | _ :: _ => none

/-- The signed segments of 64 bits that hold an integer, the lowest first; the last takes what is left (R157). -/
def segmentsOf : Nat → Int → List Int
  | 0, n => [n]
  | k + 1, n =>
    let low := twos 64 (n % 2 ^ 64).toNat
    low :: segmentsOf k ((n - low) / 2 ^ 64)

/-- The residue of segments, segment `t` with weight 2^(t mod 3) (R157). -/
def segmentResidue : Nat → List Int → Nat
  | _, [] => 0
  | t, x :: xs => ((x % 7).toNat * 2 ^ (t % 3) + segmentResidue (t + 1) xs) % 7

/-- N_g modulo 7 as the group register gives it: the joined lane of BF16, FP16 and FP32 holds nine segments (R157). -/
def registerResidue (f : Fmt) (n : Int) : Nat :=
  match f with
  | .bf16 | .fp16 | .fp32 => segmentResidue 0 (segmentsOf 8 n)
  | _ => (n % 7).toNat

/-- Whether the comparison of a group fails, when a fault has added `reg` to its register and `lane` to its lane (R157). A group
with a NaN or infinite product is not compared. -/
def groupFails (f : Fmt) (ps : List (Option (Int × Nat) × Option (Int × Nat))) (reg : Int) (lane : Nat) : Bool :=
  match groupLane ps with
  | none => false
  | some q => (q.2 + lane) % 7 != registerResidue f (q.1 + reg)

end Sys2Proof.Machine
end

