-- ==== Sys2Proof/Machine/Matrix.lean ====
section
/-!
DEFINITION. The matrix engines (R76 to R80, R111 to R122, R129 to R163, R195 to R203): passes and tile jobs, staging and
partial slots, the exact group sums and the accumulators, the epilogue, the statistics fold, and prefetch. Operands are
read when a tile job drains.
-/
namespace Sys2Proof.Machine

/-! ### Geometry (R129, R132, R133) -/

/-- Outputs per cell (R129). -/
def gOut (g : GemmF) : Nat := if g.acc = 1 then 2 else 1

/-- The gang mode (R132): 0 GANG4, 1 PAIR, 2 APART. -/
def gGang (g : GemmF) : Nat := if g.n ≤ 64 * gOut g then 2 else if g.m ≤ 64 then 1 else 0

/-- Rows of a tile (R132). -/
def gH (g : GemmF) : Nat := if gGang g = 0 then 128 else 64
/-- Columns of a tile (R132). -/
def gW (g : GemmF) : Nat := (if gGang g = 2 then 64 else 128) * gOut g
/-- Row bands (R133). -/
def gBands (g : GemmF) : Nat := (g.m + gH g - 1) / gH g
/-- Column blocks (R133). -/
def gCols (g : GemmF) : Nat := (g.n + gW g - 1) / gW g

/-- The first quad of the array that a quad belongs to, and how many quads the array has (R132). -/
def gArray (g : GemmF) (quad : Nat) : Nat × Nat :=
  match gGang g with
  | 0 => (0, 4)
  | 1 => (quad / 2 * 2, 2)
  | _ => (quad, 1)

/-- The rows of a band. -/
def bandRows (g : GemmF) (b : Nat) : List Nat := (List.range (gH g)).map (b * gH g + ·) |>.filter (· < g.m)
/-- The columns of a column block. -/
def blockCols (g : GemmF) (c : Nat) : List Nat := (List.range (gW g)).map (c * gW g + ·) |>.filter (· < g.n)

/-! ### Passes (R146, R195) -/

/-- The staging capacity (R195). -/
def stagingCap (s : State) : Nat :=
  16 * 2 ^ 20 * ((List.range 16).filter (fun p => ff s (F.SSTORE_PCFG_MODE p) == 2)).length - 8 * 2 ^ 20

/-- Bytes of `n` elements with their scales. -/
def partBytesOf (t : Tensor) (n : Nat) : Nat :=
  (n * fmtBits (tFmt t) + 7) / 8 + (if fmtBlocked (tFmt t) then n / 32 else 0)

/-- Whether a GEMM's epilogue reads E (R80). -/
def gUsesE (g : GemmF) : Bool := g.epi == 1 || g.epi == 2 || g.epi == 4

/-- The working set of `rows` rows and `cols` columns over `ks` contraction indices (R146). -/
def workBytes (s : State) (ctx : Nat) (g : GemmF) (rows cols ks : Nat) : Nat :=
  let T := fun h => tensorEntry s ctx h
  partBytesOf (T g.a) (rows * ks) + partBytesOf (T g.b) (ks * cols) + partBytesOf (T g.d) (rows * cols)
    + (if gUsesE g then partBytesOf (T g.e) (rows * cols) else 0)

/-- The largest number up to `n` that passes a test; 0 for none. -/
def largest (p : Nat → Bool) : Nat → Nat
  | 0 => 0
  | n + 1 => if p (n + 1) then n + 1 else largest p n

/-- A split of `n` things into the fewest slices of at most `k`: how many slices, and the things in each (DESIGN CHOICE, log 97). -/
def sliceOf (n k : Nat) : Nat × Nat :=
  let c := (n + k - 1) / k
  (c, (n + c - 1) / c)

/-- Contraction indices of a partition. -/
def gPart (g : GemmF) : Nat := g.k / g.kpart

/-- The indivisible length of a segment: a group, or a block of 32 for MX operands (R146). -/
def gUnit (s : State) (ctx : Nat) (g : GemmF) : Nat :=
  if fmtBlocked (tFmt (tensorEntry s ctx g.a)) || fmtBlocked (tFmt (tensorEntry s ctx g.b)) then 32 else g.group

/-- The split of a GEMM (R146). -/
def splitOf (s : State) (ctx : Nat) (g : GemmF) : Split :=
  let cap := stagingCap s
  let rb := gBands g
  let cb := gCols g
  let colsOf := fun nb => min g.n (nb * gW g)
  let rowsOf := fun mb => min g.m (mb * gH g)
  let kp := gPart g
  let whole := max 1 kp
  if workBytes s ctx g g.m g.n g.k ≤ cap then ⟨1, cb, 1, rb, 1, whole⟩
  else
    let nb := largest (fun nb => workBytes s ctx g g.m (colsOf nb) g.k ≤ cap) cb
    if 0 < nb then
      let sl := sliceOf cb nb
      ⟨sl.1, sl.2, 1, rb, 1, whole⟩
    else
      let mb := largest (fun mb => workBytes s ctx g (rowsOf mb) (colsOf 1) g.k ≤ cap) rb
      if 0 < mb then
        let sl := sliceOf rb mb
        ⟨cb, 1, sl.1, sl.2, 1, whole⟩
      else
        let unit := gUnit s ctx g
        let units := (kp + unit - 1) / unit
        let u := max 1 (largest (fun u =>
          workBytes s ctx g (rowsOf 1) (colsOf 1) (g.kpart * min kp (u * unit)) ≤ cap) units)
        ⟨cb, 1, rb, 1, (units + u - 1) / u, u * unit⟩

/-- The numbers from `a` below `b`. -/
def span (a b : Nat) : List Nat := (List.range (b - a)).map (a + ·)

/-- The rows of a pass (R146). -/
def passRows (g : GemmF) (sp : Split) (pass : Nat) : List Nat :=
  let m := pass / sp.segs % sp.ms
  span (min g.m (m * sp.mb * gH g)) (min g.m ((m + 1) * sp.mb * gH g))

/-- The columns of a pass (R146). -/
def passCols (g : GemmF) (sp : Split) (pass : Nat) : List Nat :=
  let n := pass / (sp.ms * sp.segs)
  span (min g.n (n * sp.nb * gW g)) (min g.n ((n + 1) * sp.nb * gW g))

/-- The contraction indices of segment `seg` of partition `part` (R146). -/
def segKs (g : GemmF) (sp : Split) (part seg : Nat) : List Nat :=
  span (part * gPart g + min (gPart g) (seg * sp.len)) (part * gPart g + min (gPart g) ((seg + 1) * sp.len))

/-- The contraction indices of a pass: its segment of every partition (R146). -/
def passKs (g : GemmF) (sp : Split) (pass : Nat) : List Nat :=
  (List.range g.kpart).flatMap (fun p => segKs g sp p (pass % sp.segs))

/-- The working set of a pass (R146, R196). -/
def passBytes (s : State) (ctx : Nat) (g : GemmF) (sp : Split) (pass : Nat) : Nat :=
  workBytes s ctx g (passRows g sp pass).length (passCols g sp pass).length (passKs g sp pass).length

/-- The position of A's element (row, k) in its tensor (R77). -/
def posA (s : State) (ctx : Nat) (g : GemmF) (i k : Nat) : Nat :=
  let A := tensorEntry s ctx g.a
  if g.ta then k * A.d0 + i else i * A.d0 + k

/-- The position of B's element (k, column) in its tensor (R77). -/
def posB (s : State) (ctx : Nat) (g : GemmF) (k j : Nat) : Nat :=
  let B := tensorEntry s ctx g.b
  if g.tb then j * B.d0 + k else k * B.d0 + j

/-- The runs of bits of A and of B that a pass stages (R146, R196), each with whether its tensor is of region STATE. -/
def passRuns (s : State) (d : Desc) (g : GemmF) (sp : Split) (pass : Nat) : List (Bool × List (Nat × Nat)) :=
  let A := tensorEntry s d.ctx g.a
  let B := tensorEntry s d.ctx g.b
  let ks := passKs g sp pass
  [(A.region == 1, elemRuns A (tBase s A (dStag d))
      ((passRows g sp pass).flatMap (fun i => ks.map (posA s d.ctx g i)))),
   (B.region == 1, elemRuns B (tBase s B (dStag d))
      (ks.flatMap (fun k => (passCols g sp pass).map (posB s d.ctx g k))))]

/-- The tile jobs of a GEMM, pass by pass, each pass in the numbering of R133. R146 gives the passes no order: the N slice is the
outermost and the segment the innermost (DESIGN CHOICE, log 118). -/
def jobsOf (g : GemmF) (sp : Split) : List TileJob :=
  (List.range (sp.ns * sp.ms * sp.segs)).flatMap (fun pass =>
    let n := pass / (sp.ms * sp.segs)
    let m := pass / sp.segs % sp.ms
    let bands := (List.range sp.mb).map (m * sp.mb + ·) |>.filter (· < gBands g)
    let cols := (List.range sp.nb).map (n * sp.nb + ·) |>.filter (· < gCols g)
    bands.flatMap (fun b => cols.flatMap (fun c => (List.range g.kpart).map (fun p =>
      ⟨pass, b, c, p, pass % sp.segs, false, false, 0, 0, 0, 0⟩))))

/-- RESULT of a finished GEMM: its passes, 255 for 255 or more (R73, R146). -/
def passResult (n : Nat) : Nat := min n 255

/-! ### Starting -/

/-- Bands whose statistics are still to be folded (R143). -/
def unfolded (d : Desc) : List Nat :=
  let g := gemmOf d
  if g.epi = 3 ∨ g.epi = 4 then (List.range (gBands g)).filter (fun b => !d.mx.folded.contains b) else []

/-- A GEMM whose every tile job has drained, and whose statistics are folded, is finished; otherwise it is stored. -/
def settleGemm (d : Desc) (s : State) : State :=
  if d.mx.jobs.all (·.drained) && unfolded d == [] then finish { d with result := passResult d.mx.passes } s
  else setDesc d s

/-- Running MATRIX descriptors in the order of R150: those not tagged BWD_W, then those tagged; those of a step that is being
discarded have left their arrays and staging (R149). -/
def gemmOrder (s : State) : List Desc :=
  let run := s.inflight.filter (fun d => dClass d == 0 && d.run == .running && !stepGone s d)
  run.filter (fun d => !dBwdW d) ++ run.filter dBwdW

/-- The descriptor whose tile job is issued next (R150). -/
def issueNext (s : State) : Option Desc := (gemmOrder s).find? (fun e => e.mx.jobs.any (fun j => !j.issued))

/-- A GEMM starts: its passes and tile jobs are formed (R133, R146). When no tile job was eligible, engines that are clock-gated
restart in waves that count from now (R420). -/
def gemmStart (d : Desc) (s : State) : State :=
  let g := gemmOf d
  let sp := splitOf s d.ctx g
  let mx : MatrixRun := ⟨sp, jobsOf g sp, [], sp.ns * sp.ms * sp.segs, 0, [], [], [], []⟩
  let s := if s.waveHeld = [] ∧ (issueNext s).isNone then
      { s with waveT := nowNs s, waveDue := List.range 8 } else s
  settleGemm { d with mx := mx } s

/-- GEMM (R76 to R80, R133, R146). -/
def execGemm (r : DescRef) (s : State) : Host.Outcome State Fault Refusal :=
  .next (withStart s r.ctx.val 0 r.cnt.toNat 0 1 gemmStart)

/-- A running GEMM whose step is not being discarded (R149). -/
def runningGemm (s : State) (r : DescRef) : Option Desc :=
  match findDesc s r.ctx.val 0 r.cnt.toNat with
  | none => none
  | some d => if dClass d = 0 ∧ d.run = .running ∧ cmpDrains s ∧ memDrains s ∧ !stepGone s d then some d else none

/-! ### Staging and partial slots (R196, R197, R203) -/

/-- Passes of a descriptor that hold staging: allocated, with a tile job not yet drained. -/
def heldPasses (d : Desc) : List Nat :=
  (List.range d.mx.allocated).filter (fun p => d.mx.jobs.any (fun j => j.pass == p && !j.drained))

/-- Staging bytes held by passes. -/
def stagingUsed (s : State) : Nat :=
  (gemmOrder s).foldl (fun a d =>
    (heldPasses d).foldl (fun a p => a + passBytes s d.ctx (gemmOf d) d.mx.split p) a) 0

/-- The prefetched copies that stay beside `n` bytes in `free`: those staged first. The rule names no order in which a pass
allocation drops copies: the latest goes first (R203; DESIGN CHOICE, log 119). -/
def dropPushed (free n : Nat) : List Staged → List Staged
  | [] => []
  | p :: ps => if n + p.bytes ≤ free then p :: dropPushed free (n + p.bytes) ps else []

/-- A pass of a GEMM is allocated its staging (R196), when it is free once prefetched copies make room. Bytes that prefetch has
staged for the descriptor's first pass count as used and are not read again (R202); the other operands are read. -/
def allocPass (d : Desc) (pass : Nat) (s : State) : Option (Desc × State) :=
  let g := gemmOf d
  let n := passBytes s d.ctx g d.mx.split pass
  let free := stagingCap s - stagingUsed s
  let mine := s.pushed.filter (fun p => p.cnt == d.cnt)
  let ops := (passRuns s d g d.mx.split pass).filter (fun o => !(o.1 && pass == 0 && mine != []))
  if free < n || ops.any (fun o => accessHeld s .operand o.2) then none
  else
    let s := bump F.SSTORE_PF_USED (mine.foldl (fun a p => a + p.bytes) 0) s
    let s := { s with pushed := dropPushed free n (s.pushed.filter (fun p => p.cnt != d.cnt)) }
    some ({ d with mx := { d.mx with allocated := pass + 1 } },
      ops.foldl (fun s o => access .operand o.1 false o.2 s) s)

/-- Bytes of a partial slot, in units of 16 KiB (R197). -/
def slotBytes (g : GemmF) : Nat := (gH g * gW g * (if g.acc = 2 then 8 else 4) + 16383) / 16384 * 16384

/-- Bytes of the pool that are reserved (R197). -/
def poolUsed (s : State) : Nat :=
  (gemmOrder s).foldl (fun a d => a + d.mx.reserved.length * (((gemmOf d).kpart - 1) * slotBytes (gemmOf d))) 0

/-- Whether a tile job needs a reservation that its tile has not got: partition 0 of a tile with KPART above 1 (R197). -/
def needsSlots (d : Desc) (j : TileJob) : Bool :=
  j.part == 0 && decide (1 < (gemmOf d).kpart) && !d.mx.reserved.contains (j.band, j.col)

/-- The KPART − 1 slots of a tile are reserved, when the pool has room for all of them (R197). -/
def reserveSlots (d : Desc) (j : TileJob) (s : State) : Option Desc :=
  let g := gemmOf d
  if 8 * 2 ^ 20 < poolUsed s + (g.kpart - 1) * slotBytes g then none
  else some { d with mx := { d.mx with reserved := d.mx.reserved ++ [(j.band, j.col)] } }

/-! ### Prefetch (R202) -/

/-- Bytes of a MATRIX descriptor's STATE operands in its first pass (R202). -/
def prefetchBytes (s : State) (d : Desc) : Nat :=
  let g := gemmOf d
  let sp := splitOf s d.ctx g
  let ks := (passKs g sp 0).length
  let A := tensorEntry s d.ctx g.a
  let B := tensorEntry s d.ctx g.b
  (if A.region = 1 then partBytesOf A ((passRows g sp 0).length * ks) else 0)
    + (if B.region = 1 then partBytesOf B (ks * (passCols g sp 0).length) else 0)

/-- The runs of bits of those operands. -/
def prefetchRuns (s : State) (d : Desc) : List (Nat × Nat) :=
  ((passRuns s d (gemmOf d) (splitOf s d.ctx (gemmOf d)) 0).filter (·.1)).flatMap (·.2)

/-- Whether the holder of the compute units may prefetch now (R202). -/
def mayPrefetch (s : State) (c : Nat) : Bool :=
  let comp := s.inflight.filter (fun d => d.ctx == c && d.ring == 0 && dCompute d)
  rf s (F.CTX_WAIT_MODE c) == 1 && (gemmOrder s).all (fun d => d.mx.jobs.all (fun j => !j.issued || j.drained))
    && !wantsUnits s c && (match comp with | [] => false | d :: _ => d.run == .fetched && !waitMet s d)

/-- Prefetch by the holder of the compute units: the fetched MATRIX descriptors of its ring in order, up to 64 (R202). Operands
that do not fit whole into free staging are left out, and later descriptors are still examined: the rule says neither (DESIGN
CHOICE, log 119). -/
def prefetch (s : State) : State :=
  match s.holder with
  | none => s
  | some c =>
    if !mayPrefetch s c then s
    else
      let ds := (s.inflight.filter (fun d => d.ctx == c && d.ring == 0 && dClass d == 0 && d.run == .fetched)).take 64
      ds.foldl (fun s d =>
        let n := prefetchBytes s d
        let held := s.pushed.foldl (fun a p => a + p.bytes) 0
        let runs := prefetchRuns s d
        if n = 0 || s.pushed.any (fun p => p.cnt == d.cnt) || decide (stagingCap s < stagingUsed s + held + n)
            || accessHeld s .operand runs then s
        else access .operand true false runs (bump F.SSTORE_PF_BYTES n { s with pushed := s.pushed
          ++ [⟨d.cnt, n, runs.map (fun f => (f.1 / 8, (f.1 % 8 + f.2 + 7) / 8))⟩] })) s

/-! ### Issue (R134, R138, R139, R150, R151, R155, R162) -/

/-- The mask bits of a band, row by row (R79, R134); a bit that depends on an uncorrectable word reads as 0. -/
def bandMask (s : State) (bad : List Nat) (ctx stag : Nat) (g : GemmF) (b : Nat) : List Bool :=
  let M := tensorEntry s ctx g.maskT
  (bandRows g b).map (fun i =>
    match g.mask with
    | 0 => true
    | m => match elemGet s bad M (tBase s M stag) (if m = 1 then i else i / 128) with
      | some (.fin _ 0 _) => false
      | some _ => true
      | none => false)

/-- The mask of a band as read when its first tile job was issued (R162). -/
def maskOf (d : Desc) (b : Nat) : List Bool :=
  match d.mx.maskRead.find? (fun m => m.1 == b) with
  | some m => m.2
  | none => []

/-- The runs of bits of a band's mask that is still to be read; none where none is (R134, R162). -/
def maskRuns (s : State) (d : Desc) (b : Nat) : List (Nat × Nat) :=
  let g := gemmOf d
  let M := tensorEntry s d.ctx g.maskT
  if g.mask = 0 || d.mx.maskRead.any (fun m => m.1 == b) then []
  else elemRuns M (tBase s M (dStag d)) ((bandRows g b).map (fun i => if g.mask = 1 then i else i / 128))

/-- The mask of a band is read (R162); a band whose rows are all masked has no tile job (R134) and nothing to fold. -/
def readMask (d : Desc) (b : Nat) (s : State) : Desc × State :=
  if d.mx.maskRead.any (fun m => m.1 == b) then (d, s)
  else
    let g := gemmOf d
    let M := tensorEntry s d.ctx g.maskT
    let pos := (bandRows g b).map (fun i => if g.mask = 1 then i else i / 128)
    let r := if g.mask = 0 then (s, []) else readElems .operand M (tBase s M (dStag d)) pos s
    let p := failWords d r.2 r.1
    let bits := bandMask p.2 r.2 d.ctx (dStag d) g b
    let mx := { p.1.mx with maskRead := p.1.mx.maskRead ++ [(b, bits)] }
    let mx := if bits.any id then mx
      else { mx with
        jobs := mx.jobs.map (fun j => if j.band = b then { j with issued := true, drained := true } else j)
        reserved := mx.reserved.filter (fun t => t.1 != b)
        folded := mx.folded ++ [b] }
    ({ p.1 with mx := mx }, p.2)

/-- The lowest-numbered tile job that is to be issued, with the descriptor and state once its band's mask is read; and the
descriptor and state in which only the bands before it, masked whole, have been passed (R134, R162). A mask whose read waits at the
controllers leaves no job to issue yet (R220, R224). -/
def nextJob : Nat → Desc → State → Option (TileJob × Desc × State) × Desc × State
  | 0, d, s => (none, d, s)
  | k + 1, d, s =>
    match d.mx.jobs.find? (fun j => !j.issued) with
    | none => (none, d, s)
    | some j =>
      if accessHeld s .operand (maskRuns s d j.band) then (none, d, s) else
      let p := readMask d j.band s
      if (maskOf p.1 j.band).any id then (some (j, p.1, p.2), d, s) else nextJob k p.1 p.2

/-- The running GEMM of a command with its next tile job, when it is the one to issue. -/
def issuing (s : State) (r : DescRef) : Option (Option (TileJob × Desc × State) × Desc × State) :=
  match runningGemm s r with
  | none => none
  | some d => if (issueNext s).any (sameDesc d) then some (nextJob (gBands (gemmOf d) + 1) d s) else none

/-- PASS_STAGING_ALLOCATE (R196): the pass of the tile job that is to be issued, after the cycles it waited. -/
def execPassStagingAllocate (r : DescRef) (waited : BitVec 64) (s : State) : Host.Outcome State Fault Refusal :=
  match issuing s r with
  | none => .next s
  | some (none, d, s1) => .next (settleGemm d s1)
  | some (some (j, _, _), d, s1) =>
    if j.pass < d.mx.allocated then .next (setDesc d s1)
    else match allocPass d j.pass s1 with
      | none => .next (setDesc d s1)
      | some p => .next (setDesc p.1 (bump F.SSTORE_STAGE_WAIT waited.toNat p.2))

/-- PARTIAL_SLOT_RESERVE (R197): the slots of the tile whose partition 0 is to be issued, after the cycles it waited. -/
def execPartialSlotReserve (r : DescRef) (band col : BitVec 32) (waited : BitVec 64) (s : State) :
    Host.Outcome State Fault Refusal :=
  match issuing s r with
  | none => .next s
  | some (none, d, s1) => .next (settleGemm d s1)
  | some (some (j, _, _), d, s1) =>
    if !needsSlots d j ∨ j.band ≠ band.toNat ∨ j.col ≠ col.toNat then .next (setDesc d s1)
    else match reserveSlots d j s1 with
      | none => .next (setDesc d s1)
      | some d => .next (setDesc d (bump F.SSTORE_SLOT_WAIT waited.toNat s1))

/-- The cycles of beats of a tile job (R129). -/
def jobBeats (s : State) (d : Desc) (j : TileJob) : Nat :=
  let g := gemmOf d
  let fa := tFmt (tensorEntry s d.ctx g.a)
  let fb := tFmt (tensorEntry s d.ctx g.b)
  let n := (segKs g d.mx.split j.part j.seg).length
  match fa with
  | .bf16 | .fp16 => 2 * n
  | .fp32 => 8 * n
  | .mxfp4E2M1 => if fb = .mxfp4E2M1 then (n + 1) / 2 else n
  | _ => n

/-- Tile jobs issued and not drained on the quads of an array: the gang and accumulation mode of each, its cycles of beats, and
its place among the jobs issued. -/
def onArray (s : State) (bay me : Nat) (arr : Nat × Nat) : List ((Nat × Nat) × Nat × Nat) :=
  (gemmOrder s).flatMap (fun d =>
    let g := gemmOf d
    (d.mx.jobs.filter (fun j => j.issued && !j.drained && j.bay == bay && j.me == me &&
      (let q := gArray g j.quad
       decide (q.1 < arr.1 + arr.2 ∧ arr.1 < q.1 + q.2)))).map (fun j => ((gGang g, g.acc), jobBeats s d j, j.order)))

/-- The job issued last of those on an array. -/
def lastOf : List ((Nat × Nat) × Nat × Nat) → Option ((Nat × Nat) × Nat × Nat)
  | [] => none
  | x :: xs => match lastOf xs with
    | none => some x
    | some y => some (if x.2.2 < y.2.2 then y else x)

/-- The place of the next job among the jobs issued. -/
def nextOrder (s : State) : Nat :=
  1 + (gemmOrder s).foldl (fun a d => d.mx.jobs.foldl (fun a j => if j.issued && !j.drained then max a j.order else a) a) 0

/-- All four quads of an engine. -/
def allQuads : Nat := 15

/-- The quads gated once one more is, in the order Q3, Q2, Q1, Q0 (R419). -/
def gateNext (gated : Nat) : Nat :=
  match [3, 2, 1, 0].find? (fun q => bitsOf gated q 1 == 0) with
  | some q => gated + 2 ^ q
  | none => gated

/-- An engine's run-time record. -/
def engRt (s : State) (bay me : Nat) : EngRt := smGet (fun _ => ⟨false, allQuads⟩) s.eng (8 * bay + me)

/-- An engine's run-time record set. -/
def setEng (bay me : Nat) (e : EngRt) (s : State) : State :=
  { s with eng := smSet (fun _ => ⟨false, allQuads⟩) s.eng (8 * bay + me) e }

/-- Whether an engine is kept from tile jobs: disabled, suspect or lent (R151). -/
def engBarred (s : State) (bay me : Nat) : Bool :=
  bitsOf (rf s (F.BAY_ME_ME_DISABLE bay)) me 1 == 1 || bitsOf (rf s (F.BAY_ME_ME_SUSPECT bay)) me 1 == 1
    || s.lent.any (fun l => l.eng == some (8 * bay + me))

/-- Whether an armed BARRIER's pre-ramp has reached step `k` (R336, R421). -/
def preRampDue (s : State) (k : Nat) : Bool :=
  s.inflight.any (fun d => d.armed && d.run != .finished && decide (dWord d 1 ≤ nowNs s + 1000 - 125 * k)
    && decide (nowNs s < dWord d 1))

/-- Whether a start wave holds the first beat of an engine without tile jobs: from the engine's step of the pre-ramp to the end of
its wave (R155, R421; DEDUCED, log 132), or while a clock-gated engine restarts later (R420). -/
def waveWaits (s : State) (bay me : Nat) : Bool :=
  if s.waveHeld.contains me || preRampDue s me then onArray s bay me (0, 4) == []
  else (engRt s bay me).gated == allQuads && decide (nowNs s < s.waveT + 250 * me)

/-- Whether a tile job starts from loaded accumulators (R139). -/
def jobLoads (g : GemmF) (j : TileJob) : Bool := (j.part == 0 && g.accIn && g.acc == 0) || 0 < j.seg

/-- Whether an array may take a job: empty, or with jobs that it may follow in a chain (R138, R139). No more than two of them can
still be draining when the beats of the last have ended (DEDUCED, log 133). -/
def arrayTakes (s : State) (bay me : Nat) (g : GemmF) (quad : Nat) (j : TileJob) : Bool :=
  let l := onArray s bay me (gArray g quad)
  l == [] || (l.length ≤ 2 && l.all (fun x => x.1 == (gGang g, g.acc)) && !jobLoads g j)

/-- The delay of the first beat of a job behind the last one on its array: the shortfall of that one's beats against 2w − 1
(R138). -/
def drainStall (s : State) (bay me : Nat) (g : GemmF) (quad : Nat) : Nat :=
  match lastOf (onArray s bay me (gArray g quad)) with
  | none => 0
  | some x => (if gGang g = 2 then 127 else 255) - x.2.1

/-- The arrays of the device in the order in which R150 serves them: bays in turn from the one after the bay served last, engines
in increasing number; and the arrays of one engine, which the rule does not order, in increasing quad number (DESIGN CHOICE, log
120). -/
def arraysInTurn (s : State) (g : GemmF) : List (Nat × Nat × Nat) :=
  (List.range 20).flatMap (fun i => (List.range 8).flatMap (fun m =>
    (match gGang g with | 0 => [0] | 1 => [0, 2] | _ => [0, 1, 2, 3]).map (fun q => ((s.lastBay + 1 + i) % 20, m, q))))

/-- Whether no empty array that could take the job stands before the array named in the order of R150. An array with a job still
draining may not have been free before (DESIGN CHOICE, log 120). -/
def servedFirst (s : State) (bay me quad : Nat) (g : GemmF) : Bool :=
  ((arraysInTurn s g).takeWhile (fun a => a != (bay, me, quad))).all (fun a =>
    engBarred s a.1 a.2.1 || waveWaits s a.1 a.2.1 || onArray s a.1 a.2.1 (gArray g a.2.2) != [])

/-- Whether the segment before a job's own of its partition has drained, so that its accumulators are saved (R114, R147). -/
def segmentReady (d : Desc) (j : TileJob) : Bool :=
  d.mx.jobs.all (fun i => i.drained || !(i.band == j.band && i.col == j.col && i.part == j.part && decide (i.seg < j.seg)))

/-- The cycles of Steam ops that each quad of an engine has run are counted, and its pattern generators have stepped as often
(R152, R153). -/
def countSteam (bay me : Nat) (cycles : List Nat) (s : State) : State :=
  let s := bump (F.BAY_STEAM_CYCLES bay) (cycles.foldl (· + ·) 0) s
  { s with steamRun := (List.range 4).foldl (fun m q =>
      let k := 4 * (8 * bay + me) + q
      smSet (fun _ => 0) m k (smGet (fun _ => 0) m k + cycles.getD q 0)) s.steamRun }

/-- The quads that stay gated when a tile job comes: in a ramp-down the engine resumes on those still clocked, and the others
restart with their wave (R419; DESIGN CHOICE, log 149). -/
def stillGated (e : EngRt) : Nat := if e.steam then e.gated else 0

/-- A tile job goes to an array (R134, R138, R150, R153, R162, R419). -/
def issueJob (d : Desc) (j : TileJob) (bay me quad feedStall : Nat) (steam : List Nat) (s : State) : State :=
  let g := gemmOf d
  let j' := { j with issued := true, bay := bay, me := me, quad := quad, order := nextOrder s }
  let d := { d with mx := { d.mx with jobs := d.mx.jobs.map (fun i => if i = j then j' else i) } }
  let s := bump (F.BAY_FEED_STALL bay) feedStall (bump (F.BAY_DRAIN_STALL bay) (drainStall s bay me g quad) s)
  let s := countSteam bay me steam s
  noteBusy d.step (setDesc d (setEng bay me ⟨false, stillGated (engRt s bay me)⟩ { s with lastBay := bay }))

/-- TILE_JOB_ISSUE (R134, R138, R150, R151, R153, R155, R162, R196, R197, R405): the lowest-numbered unissued tile job of the
first descriptor in the order of R150 goes to the array named, when it is that array's turn; partition 0 of a tile reserves its
slots then, if they are not yet reserved (operands: DESIGN CHOICE, log 104). -/
def execTileJobIssue (r : DescRef) (bay : Fin 20) (me : Fin 8) (quad : Fin 4) (feedStall : BitVec 64)
    (steamCycles : List (BitVec 64)) (s : State) : Host.Outcome State Fault Refusal :=
  if !s.cmpUp || !s.memUp || !unitsClocked s || engBarred s bay.val me.val || waveWaits s bay.val me.val then .next s
  else match issuing s r with
  | none => .next s
  | some (none, d, s1) => .next (settleGemm d s1)
  | some (some (j, d2, s2), d, s1) =>
    let g := gemmOf d
    let q := (gArray g quad.val).1
    if d.mx.allocated ≤ j.pass ∨ !segmentReady d j ∨ !arrayTakes s1 bay.val me.val g q j
        ∨ !servedFirst s1 bay.val me.val q g then .next (setDesc d s1)
    else match (if needsSlots d2 j then reserveSlots d2 j s2 else some d2) with
      | none => .next (setDesc d s1)
      | some d3 => .next (issueJob d3 j bay.val me.val q feedStall.toNat (steamCycles.map (·.toNat)) s2)

/-! ### Arithmetic of a tile (R78, R111 to R118) -/

/-- A binary operation on values that may be unknown. -/
def fv2 (f : FV → FV → FV) : Option FV → Option FV → Option FV
  | some a, some b => some (f a b)
  | _, _ => none

/-- A sum of values that may be unknown. -/
def fvSumO : List (Option FV) → Option FV
  | [] => some fvZero
  | x :: xs => fv2 fvAdd x (fvSumO xs)

/-- One rounding of an accumulator under a mode (R114 to R117). -/
def accRound (acc : Nat) (x : FV) : FV :=
  match acc with
  | 0 => rnd32 (plusZero x)
  | 1 => rndBf16 (plusZero x)
  | _ => x

/-- The accumulator of one element over groups from contraction index `k` on (R111, R114). -/
def accRun (acc grp : Nat) (prod : Nat → Option FV) : Nat → Nat → Option FV → Option FV
  | 0, _, a => a
  | n + 1, k, a =>
    let sum := fvSumO ((List.range grp).map (fun i => prod (k + i)))
    accRun acc grp prod n (k + grp) (fv2 (fun a x => accRound acc (fvAdd a x)) a sum)

/-- The value of D's element before the GEMM (R78). -/
def oldD (s : State) (bad : List Nat) (d : Desc) (g : GemmF) (i j : Nat) : Option FV :=
  let D := tensorEntry s d.ctx g.d
  elemGet s bad D (tBase s D (dStag d)) (i * D.d0 + j)

/-- The elements of the tile of a job, row by row: whether the row takes part, the row, and the column. -/
def jobCells (d : Desc) (g : GemmF) (j : TileJob) : List (Bool × Nat × Nat) :=
  ((bandRows g j.band).zip (maskOf d j.band)).flatMap (fun r => (blockCols g j.col).map (fun c => (r.2, r.1, c)))

/-- The accumulators of a segment of one partition of a tile, row by row, from those before it (R114, R147). -/
def segmentAccs (s : State) (bad : List Nat) (d : Desc) (g : GemmF) (j : TileJob)
    (before : Option (List (Option FV))) : List (Option FV) :=
  let A := tensorEntry s d.ctx g.a
  let B := tensorEntry s d.ctx g.b
  let ab := tBase s A (dStag d)
  let bb := tBase s B (dStag d)
  let ks := segKs g d.mx.split j.part j.seg
  let cells := jobCells d g j
  let start := match before with
    | some l => l
    | none => cells.map (fun c =>
        if c.1 && j.part == 0 && g.accIn && g.acc != 1 then oldD s bad d g c.2.1 c.2.2 else some fvZero)
  (cells.zip start).map (fun p =>
    if !p.1.1 then some fvZero
    else accRun g.acc g.group (fun k =>
      fv2 fvMul (elemGet s bad A ab (posA s d.ctx g p.1.2.1 k)) (elemGet s bad B bb (posB s d.ctx g k p.1.2.2)))
      (ks.length / g.group) (ks.headD 0) p.2)

/-- The total of each element from the partitions' results, in increasing partition number (R118). -/
def combineParts (g : GemmF) (start : List (Option FV)) (parts : List (List (Option FV))) : List (Option FV) :=
  parts.foldl (fun t p => (t.zip p).map (fun e =>
    fv2 (fun a b => if g.acc = 2 then fvAdd a b else rnd32 (plusZero (fvAdd a b))) e.1 e.2)) start

/-- The upset of a group of an element of a job, if there is one: an element of a gated cell has none. -/
def upsetsOf (d : Desc) (g : GemmF) (j : TileJob) (ups : List GroupUpset) : List GroupUpset :=
  let n := (segKs g d.mx.split j.part j.seg).length / g.group
  ups.filter (fun u => u.group < n && (jobCells d g j).contains (true, u.row, u.col))

/-- The products of a group of an element, as the residue generators and the group register see them (R156, R157). -/
def groupOperands (s : State) (d : Desc) (g : GemmF) (j : TileJob) (u : GroupUpset) :
    List (Option (Int × Nat) × Option (Int × Nat)) :=
  let A := tensorEntry s d.ctx g.a
  let B := tensorEntry s d.ctx g.b
  (((segKs g d.mx.split j.part j.seg).drop (u.group * g.group)).take g.group).map (fun k =>
    (laneGet s A (tBase s A (dStag d)) (posA s d.ctx g u.row k), laneGet s B (tBase s B (dStag d)) (posB s d.ctx g k u.col)))

/-- The comparisons of a tile job that fail (R157, R158). A group without an upset compares equal. -/
def residueFails (s : State) (d : Desc) (g : GemmF) (j : TileJob) (ups : List GroupUpset) : List GroupUpset :=
  (upsetsOf d g j ups).filter (fun u =>
    groupFails (tFmt (tensorEntry s d.ctx g.a)) (groupOperands s d g j u) u.reg u.lane)

/-- The quad whose cell forms an element of a job (R132). -/
def quadOf (g : GemmF) (j : TileJob) (row col : Nat) : Nat :=
  let w := gW g / gOut g
  j.quad + (row - j.band * gH g) / 64 * 2 + (col - j.col * gW g) % w / 64

/-- A free value in the format of an accumulator (log 1). -/
def freeAcc (acc : Nat) (s : State) : FV × State :=
  let p := drawFree s
  (match acc with
    | 2 => fvOfInt (twos 64 p.1)
    | 1 => fpDecode .bf16 (p.1 % 2 ^ 16)
    | _ => f32 (p.1 % 2 ^ 32), p.2)

/-- Accumulators into which a faulty group register has entered are free values; one that depends on an uncorrectable word stays
unknown (R157, R233; log 1). -/
def upsetAccs (acc : Nat) (hit : Nat × Nat → Bool) : List ((Bool × Nat × Nat) × Option FV) → State → List (Option FV) × State
  | [], s => ([], s)
  | c :: cs, s =>
    let p := match c.2 with
      | some v => if hit c.1.2 then (let f := freeAcc acc s; (some f.1, f.2)) else (some v, s)
      | none => (none, s)
    let q := upsetAccs acc hit cs p.2
    (p.1 :: q.1, q.2)

/-! ### Drain (R137, R142, R144, R158) -/

/-- Bit positions that a segment reads from A and B, for the check of every word it uses (R234, R237). -/
def segmentReads (s : State) (d : Desc) (g : GemmF) (j : TileJob) (w : Nat) : Bool :=
  let A := tensorEntry s d.ctx g.a
  let B := tensorEntry s d.ctx g.b
  let ks := segKs g d.mx.split j.part j.seg
  let rows := ((bandRows g j.band).zip (maskOf d j.band)).filterMap (fun r => if r.2 then some r.1 else none)
  rows.any (fun i => ks.any (fun k => (elemWords A (tBase s A (dStag d)) (posA s d.ctx g i k)).contains w))
    || (blockCols g j.col).any (fun c => ks.any (fun k =>
      (elemWords B (tBase s B (dStag d)) (posB s d.ctx g k c)).contains w))

/-- The positions of D and E that the unmasked rows of a tile cover. -/
def tilePositions (s : State) (d : Desc) (g : GemmF) (j : TileJob) : List Nat :=
  let D := tensorEntry s d.ctx g.d
  ((bandRows g j.band).zip (maskOf d j.band)).flatMap (fun r =>
    if r.2 then (blockCols g j.col).map (fun c => r.1 * D.d0 + c) else [])

/-- The maximum of values that may be unknown (R121); unknown for none. -/
def fvMaxO : List (Option FV) → Option FV
  | [] => none
  | x :: xs => xs.foldl (fv2 fvMax) x

/-- The partial row maxima of a tile (R142): of the values written for EPI 3, of the totals for EPI 4. A row with an element that
could not be written has none. -/
def tileMaxes (s : State) (bad : List Nat) (d : Desc) (g : GemmF) (j : TileJob) (vals : List (Nat × Option FV))
    (total : List (Option FV)) : List (Option FV) :=
  let D := tensorEntry s d.ctx g.d
  let cols := blockCols g j.col
  let rows := (bandRows g j.band).zip (maskOf d j.band)
  (List.range rows.length).map (fun i =>
    let ps := cols.map (fun c => (bandRows g j.band).getD i 0 * D.d0 + c)
    let written := ps.map (fun p => if vals.any (fun v => v.1 == p && v.2.isNone) then none
      else (elemGet s bad D (tBase s D (dStag d)) p).map rnd32)
    if written.any (·.isNone) then none
    else fvMaxO (if g.epi = 3 then written else ((total.drop (i * cols.length)).take cols.length).map (·.map rnd32)))

/-- The epilogue of a complete tile (R120, R121, R142): D is written, and under EPI 3 and 4 the row maxima are kept. -/
def epilogue (d : Desc) (g : GemmF) (j : TileJob) (bad : List Nat) (total : List (Option FV)) (s : State) : Desc × State :=
  let D := tensorEntry s d.ctx g.d
  let E := tensorEntry s d.ctx g.e
  let db := tBase s D (dStag d)
  let eb := tBase s E (dStag d)
  let vals := ((jobCells d g j).zip total).filterMap (fun p =>
    if !p.1.1 then none
    else
      let pos := p.1.2.1 * D.d0 + p.1.2.2
      let e := elemGet s bad E eb (p.1.2.1 * E.d0 + p.1.2.2)
      some (pos, match g.epi with
        | 1 | 4 => (fv2 fvAdd p.2 e).map plusZero
        | 2 => (fv2 fvMul p.2 e).map plusZero
        | _ => p.2.map plusZero))
  let w := writeElems .epiWrite D db vals s
  let f := failWords d w.2 w.1
  let maxes := if g.epi = 3 ∨ g.epi = 4 then [(j.band, j.col, tileMaxes f.2 w.2 d g j vals total)] else []
  ({ f.1 with mx := { f.1.mx with rowMax := f.1.mx.rowMax ++ maxes } }, f.2)

/-- The accumulators kept for one partition of a tile. -/
def accOf (d : Desc) (j : TileJob) : Option (List (Option FV)) :=
  (d.mx.accs.find? (fun a => a.band == j.band && a.col == j.col && a.part == j.part)).map (·.vals)

/-- Whether every tile job of a tile has drained. -/
def tileDone (d : Desc) (j : TileJob) : Bool :=
  d.mx.jobs.all (fun i => i.drained || !(i.band == j.band && i.col == j.col))

/-- Residue mismatches in a tile job (R158): each is counted, the engine is suspect, and the descriptor fails. The rule does not
say whether each posts its own notice: one does for the job, with the quad of the first (DESIGN CHOICE, log 121). -/
def residueFail (d : Desc) (g : GemmF) (j : TileJob) (fails : List GroupUpset) (s : State) : Desc × State :=
  match fails with
  | [] => (d, s)
  | u :: _ =>
    let D := tensorEntry s d.ctx g.d
    let a := elemBitAddr D (tBase s D (dStag d)) (j.band * gH g * D.d0 + j.col * gW g) / 8
    let s := bump (F.BAY_RESIDUE_ERR j.bay) fails.length s
    let s := put (F.BAY_ME_ME_SUSPECT j.bay) (rf s (F.BAY_ME_ME_SUSPECT j.bay) ||| 2 ^ j.me) s
    let s := failNotice d 0x12 (pathMatrix j.bay j.me (quadOf g j u.row u.col)) a s
    ({ d with fails := d.fails ++ [0x12] }, s)

/-- Whether an engine may run Steam ops (R152, R153, R407, R419). -/
def steamAllowed (s : State) (bay me : Nat) : Bool :=
  rf s (F.BAY_ME_STEAM_EN bay) == 1 && fldOf s.oppWord (F.OPP_ENT_STEAM 0) == 1 && !engBarred s bay me

/-- The engine after its last tile job: Steam ops in the gap while they are allowed (R153, R407, R419), else clock-gated. -/
def engIdle (bay me : Nat) (s : State) : State :=
  if onArray s bay me (0, 4) ≠ [] then s
  else
    let steam := steamAllowed s bay me
    setEng bay me ⟨steam, if steam then 0 else allQuads⟩ s

/-- Engines in Steam ops that may no longer run them are clock-gated (R152, R153). -/
def endSteam (s : State) : State :=
  s.eng.foldl (fun s e => if e.2.steam && !steamAllowed s (e.1 / 8) (e.1 % 8) then setEng (e.1 / 8) (e.1 % 8) ⟨false, allQuads⟩ s else s) s

/-- A pattern generator after `n` steps (R153). -/
def patternAt (gen : Nat) : Nat → BitVec 16
  | 0 => Config.steamFirst gen
  | n + 1 => Config.steamNext (patternAt gen n)

/-- The format as which Steam ops take their operands (R153). -/
def steamFormat : Fmt := (fmtOfCode Config.steamFmt).getD .fp32

/-- The products of the group that a cell of a quad in Steam ops completes: the operands come from the generators of its row and its
column, as far as the quad has run (R153). Their format and the length of a group are not stated (log 150). -/
def steamGroup (s : State) (bay me : Nat) (u : SteamUpset) : List (Option (Int × Nat) × Option (Int × Nat)) :=
  let k := 4 * (8 * bay + me) + u.quad.val
  let n := smGet (fun _ => 0) s.steamRun k
  let f := steamFormat
  (List.range Config.steamLen).map (fun i =>
    (laneOf f ((patternAt (128 * k + u.row.val) (n + i)).toNat % 2 ^ fmtBits f),
     laneOf f ((patternAt (128 * k + 64 + u.col.val) (n + i)).toNat % 2 ^ fmtBits f)))

/-- The comparisons that fail in Steam ops (R154, R157): only quads that run them compare. -/
def steamFails (s : State) (r : SteamReport) : List SteamUpset :=
  let e := engRt s r.bay.val r.me.val
  r.ups.filter (fun u => e.steam && bitsOf e.gated u.quad.val 1 == 0
    && groupFails steamFormat (steamGroup s r.bay.val r.me.val u) u.reg u.lane)

/-- Steam mismatches are reported (R154, R246): counted, a LINT notice, and the engine's sweep moves to the head. The notice names
the current step and, as for any notice that does (R94), its identity (DEDUCED, log 43). -/
def steamFail (r : SteamReport) (s : State) : State :=
  match steamFails s r with
  | [] => s
  | fs =>
    let u := pathMatrix r.bay.val r.me.val 0
    let s := bump (F.BAY_RESIDUE_ERR r.bay.val) fs.length s
    let s := { s with lintHead := if s.lintHead.contains u then s.lintHead else u :: s.lintHead }
    postNotice (stepCtx s) (aboutNow s { kind := 0x40, detail := u + 2 * 2 ^ 16 }) s

/-- The engines that a discarded or timed-out GEMM has left without work (R149, R153). -/
def restEngines (s : State) : State :=
  s.eng.foldl (fun s e => if !e.2.steam && e.2.gated != allQuads then engIdle (e.1 / 8) (e.1 % 8) s else s) s

/-- A job's record marked as drained. -/
def markDrained (d : Desc) (j : TileJob) : Desc :=
  { d with mx := { d.mx with jobs := d.mx.jobs.map (fun i => if i = j then { i with drained := true } else i) } }

/-- The combine and epilogue of a tile whose last job has drained (R118, R142); its slots are free again (R197). -/
def combineTile (d : Desc) (g : GemmF) (j : TileJob) (bad : List Nat) (s : State) : Desc × State :=
  let start := (jobCells d g j).map (fun c =>
    if c.1 && g.accIn && g.acc == 1 then oldD s bad d g c.2.1 c.2.2 else some fvZero)
  let parts := (List.range g.kpart).map (fun p => (accOf d { j with part := p }).getD [])
  let e := epilogue d g j bad (combineParts g start parts) s
  ({ e.1 with mx := { e.1.mx with
      accs := e.1.mx.accs.filter (fun a => !(a.band == j.band && a.col == j.col))
      reserved := e.1.mx.reserved.filter (· != (j.band, j.col)) } }, e.2)

/-- The runs of bits of D's old elements and of E that a job's drain reads. -/
def drainReads (s : State) (d : Desc) (g : GemmF) (j : TileJob) : List (Nat × Nat) :=
  let D := tensorEntry s d.ctx g.d
  let E := tensorEntry s d.ctx g.e
  let last := tileDone (markDrained d j) j
  (if g.accIn && (if g.acc = 1 then last else j.part == 0 && j.seg == 0) then
      elemRuns D (tBase s D (dStag d)) (tilePositions s d g j) else [])
    ++ (if last && gUsesE g then elemRuns E (tBase s E (dStag d)) (tilePositions s d g j) else [])

/-- A tile job drains (R137, R142, R144, R147): its operands are checked, its segment's accumulators are formed and its groups
compared (R157); the last job of a tile combines the partitions and writes D (DESIGN CHOICE for the moment of reading, log
110). -/
def drainJob (d : Desc) (j : TileJob) (ups : List GroupUpset) (s : State) : State :=
  let g := gemmOf d
  let fs := drainReads s d g j
  let s := access .epiRead false false fs s
  let touch := fun w => segmentReads s d g j w || fs.any (fun f => f.1 < 64 * w + 64 && 64 * w < f.1 + f.2)
  let r := if s.syn = [] then (s, []) else checkWords touch s
  let c := if s.copySyn = [] then (r.1, [])
    else checkCopies (fun p => p == pathBaySram j.bay || p == pathOpBuf j.bay j.me) touch r.1
  let f := failWords d r.2 c.1
  let f := failCopies f.1 c.2 f.2
  let bad := r.2 ++ c.2.map (·.2)
  let f := residueFail f.1 g j (residueFails f.2 f.1 g j ups) f.2
  let hit := fun e : Nat × Nat => (upsetsOf f.1 g j ups).any (fun u => u.reg != 0 && (u.row, u.col) == e)
  let v := upsetAccs g.acc hit ((jobCells f.1 g j).zip (segmentAccs f.2 bad f.1 g j (accOf f.1 j))) f.2
  let d := markDrained f.1 j
  let d := { d with mx := { d.mx with
    accs := d.mx.accs.filter (fun a => !(a.band == j.band && a.col == j.col && a.part == j.part))
      ++ [⟨j.band, j.col, j.part, v.1⟩] } }
  let e := if tileDone d j then combineTile d g j bad v.2 else (d, v.2)
  engIdle j.bay j.me (noteBusy d.step (settleGemm e.1 e.2))

/-- Whether the drain of a job waits for its epilogue's accesses at the controllers (R220, R224). -/
def drainHeld (s : State) (d : Desc) (j : TileJob) : Bool :=
  let g := gemmOf d
  let D := tensorEntry s d.ctx g.d
  accessHeld s .epiRead (drainReads s d g j)
    || (tileDone (markDrained d j) j && accessHeld s .epiWrite (elemRuns D (tBase s D (dStag d)) (tilePositions s d g j)))

/-- TILE_JOB_DRAIN (R137, R142 to R147, R156 to R158, R246): the tile job named, with the faults its cells have met and the
Steam mismatch reported. -/
def execTileJobDrain (r : DescRef) (pass band col part seg : BitVec 32) (upsets : List GroupUpset)
    (steam : Option SteamReport) (s : State) : Host.Outcome State Fault Refusal :=
  let s0 := match steam with | some x => steamFail x s | none => s
  match runningGemm s0 r with
  | none => .next s0
  | some d =>
    match d.mx.jobs.find? (fun j => j.issued && !j.drained && j.pass == pass.toNat && j.band == band.toNat
        && j.col == col.toNat && j.part == part.toNat && j.seg == seg.toNat) with
    | none => .next s0
    | some j => if drainHeld s0 d j then .next s0 else .next (prefetch (drainJob d j upsets s0))

/-! ### The statistics fold (R121, R143) -/

/-- The row statistics of one row (R121, R143): the maximum of the tiles' partial maxima, and the sum of its values in D; both
unknown when an element could not be written (R237). -/
def rowStat (vals maxes : List (Option FV)) : Option FV × Option FV :=
  match fvMaxO maxes with
  | none => (none, none)
  | some m => (some m,
      (vals.map (·.map rnd32)).foldl (fv2 (fun a v => rnd32 (plusZero (fvAdd a v)))) (some fvZero))

/-- A row band's statistics are folded into STAT, its data passing the vector stages of bay SRAM (R121, R134, R143, R198). -/
def foldBand (d : Desc) (b : Nat) (s : State) : State :=
  let g := gemmOf d
  let D := tensorEntry s d.ctx g.d
  let S := tensorEntry s d.ctx g.stat
  let db := tBase s D (dStag d)
  let rows := (bandRows g b).zip (maskOf d b)
  let live := rows.filterMap (fun r => if r.2 then some r.1 else none)
  let pos := live.flatMap (fun i => (List.range g.n).map (i * D.d0 + ·))
  let r := readElems .epiRead D db pos s
  let c := if r.1.copySyn = [] then (r.1, [])
    else checkCopies (fun p => p / 4096 == 7) (fun w => pos.any (fun p => (elemWords D db p).contains w)) r.1
  let f := failWords d r.2 c.1
  let f := failCopies f.1 c.2 f.2
  let bad := r.2 ++ c.2.map (·.2)
  let out := (List.range rows.length).flatMap (fun k =>
    match rows[k]? with
    | some (i, true) =>
      let vals := (List.range g.n).map (fun c => elemGet f.2 bad D db (i * D.d0 + c))
      let st := rowStat vals ((f.1.mx.rowMax.filter (fun m => m.1 == b)).map (fun m => m.2.2.getD k none))
      [(2 * i, st.1), (2 * i + 1, st.2)]
    | _ => [])
  let w := writeElems .epiWrite S (tBase s S (dStag d)) out f.2
  let h := failWords f.1 w.2 w.1
  settleGemm { h.1 with mx := { h.1.mx with folded := h.1.mx.folded ++ [b],
                                            rowMax := h.1.mx.rowMax.filter (fun m => m.1 != b) } } h.2

/-- Whether a fold waits for its accesses at the controllers (R220, R224). -/
def foldHeld (s : State) (d : Desc) (b : Nat) : Bool :=
  let g := gemmOf d
  let D := tensorEntry s d.ctx g.d
  let S := tensorEntry s d.ctx g.stat
  accessHeld s .epiRead (elemRuns D (tBase s D (dStag d)) ((bandRows g b).flatMap (fun i => (List.range g.n).map (i * D.d0 + ·))))
    || accessHeld s .epiWrite (elemRuns S (tBase s S (dStag d)) ((bandRows g b).flatMap (fun i => [2 * i, 2 * i + 1])))

/-- STATISTICS_FOLD (R143): after every tile of the band has been written, and while no row engine is lent to Lint (R241). -/
def execStatisticsFold (r : DescRef) (band : BitVec 32) (s : State) : Host.Outcome State Fault Refusal :=
  match runningGemm s r with
  | none => .next s
  | some d =>
    let b := band.toNat
    if (unfolded d).contains b && d.mx.jobs.all (fun j => j.drained || j.band != b)
        && !s.lent.any (fun l => l.unit / 4096 == 2) && !foldHeld s d b then .next (foldBand d b s)
    else .next s

end Sys2Proof.Machine
end

