-- ==== Sys2Proof/Machine/Crypto.lean ====
section
/-!
DEFINITION. The published algorithms the rules name: SHA-512 (R250, R361, R468 to R472), HMAC and HKDF over it (R470), RSA (R468), and
the generation of an RSA key (R470). They are written from their standards, FIPS 180-4, RFC 2104, RFC 5869, RFC 8017, SP 800-90A and
FIPS 186-5 (PRESUMED, log 20 and 153).
-/
namespace Sys2Proof.Machine

/-- The 80 round constants of SHA-512. -/
def shaK : List Nat := [
   0x428A2F98D728AE22, 0x7137449123EF65CD, 0xB5C0FBCFEC4D3B2F, 0xE9B5DBA58189DBBC,
   0x3956C25BF348B538, 0x59F111F1B605D019, 0x923F82A4AF194F9B, 0xAB1C5ED5DA6D8118,
   0xD807AA98A3030242, 0x12835B0145706FBE, 0x243185BE4EE4B28C, 0x550C7DC3D5FFB4E2,
   0x72BE5D74F27B896F, 0x80DEB1FE3B1696B1, 0x9BDC06A725C71235, 0xC19BF174CF692694,
   0xE49B69C19EF14AD2, 0xEFBE4786384F25E3, 0x0FC19DC68B8CD5B5, 0x240CA1CC77AC9C65,
   0x2DE92C6F592B0275, 0x4A7484AA6EA6E483, 0x5CB0A9DCBD41FBD4, 0x76F988DA831153B5,
   0x983E5152EE66DFAB, 0xA831C66D2DB43210, 0xB00327C898FB213F, 0xBF597FC7BEEF0EE4,
   0xC6E00BF33DA88FC2, 0xD5A79147930AA725, 0x06CA6351E003826F, 0x142929670A0E6E70,
   0x27B70A8546D22FFC, 0x2E1B21385C26C926, 0x4D2C6DFC5AC42AED, 0x53380D139D95B3DF,
   0x650A73548BAF63DE, 0x766A0ABB3C77B2A8, 0x81C2C92E47EDAEE6, 0x92722C851482353B,
   0xA2BFE8A14CF10364, 0xA81A664BBC423001, 0xC24B8B70D0F89791, 0xC76C51A30654BE30,
   0xD192E819D6EF5218, 0xD69906245565A910, 0xF40E35855771202A, 0x106AA07032BBD1B8,
   0x19A4C116B8D2D0C8, 0x1E376C085141AB53, 0x2748774CDF8EEB99, 0x34B0BCB5E19B48A8,
   0x391C0CB3C5C95A63, 0x4ED8AA4AE3418ACB, 0x5B9CCA4F7763E373, 0x682E6FF3D6B2B8A3,
   0x748F82EE5DEFB2FC, 0x78A5636F43172F60, 0x84C87814A1F0AB72, 0x8CC702081A6439EC,
   0x90BEFFFA23631E28, 0xA4506CEBDE82BDE9, 0xBEF9A3F7B2C67915, 0xC67178F2E372532B,
   0xCA273ECEEA26619C, 0xD186B8C721C0C207, 0xEADA7DD6CDE0EB1E, 0xF57D4F7FEE6ED178,
   0x06F067AA72176FBA, 0x0A637DC5A2C898A6, 0x113F9804BEF90DAE, 0x1B710B35131C471B,
   0x28DB77F523047D84, 0x32CAAB7B40C72493, 0x3C9EBE0A15C9BEBC, 0x431D67C49C100D4C,
   0x4CC5D4BECB3E42B6, 0x597F299CFC657E2A, 0x5FCB6FAB3AD6FAEC, 0x6C44198C4A475817]

/-- The initial hash value of SHA-512. -/
def shaH0 : List Nat := [
   0x6A09E667F3BCC908, 0xBB67AE8584CAA73B, 0x3C6EF372FE94F82B, 0xA54FF53A5F1D36F1,
   0x510E527FADE682D1, 0x9B05688C2B3E6C1F, 0x1F83D9ABFB41BD6B, 0x5BE0CD19137E2179]

/-- Rotation of a 64-bit word to the right. -/
def rotr64 (x n : Nat) : Nat := (x >>> n) ||| ((x <<< (64 - n)) % 2 ^ 64)

/-- The message schedule: the last sixteen words, newest first, extended `n` times. -/
def shaSchedule : Nat → List Nat → List Nat
  | 0, w => w
  | n + 1, w =>
    let g := fun i => w.getD i 0
    let s0 := rotr64 (g 14) 1 ^^^ rotr64 (g 14) 8 ^^^ (g 14 >>> 7)
    let s1 := rotr64 (g 1) 19 ^^^ rotr64 (g 1) 61 ^^^ (g 1 >>> 6)
    shaSchedule n (((g 15 + s0 + g 6 + s1) % 2 ^ 64) :: w)

/-- One round of SHA-512 on the eight working words. -/
def shaRound (v : List Nat) (kw : Nat) : List Nat :=
  let g := fun i => v.getD i 0
  let s1 := rotr64 (g 4) 14 ^^^ rotr64 (g 4) 18 ^^^ rotr64 (g 4) 41
  let ch := (g 4 &&& g 5) ^^^ ((2 ^ 64 - 1 - g 4) &&& g 6)
  let t1 := g 7 + s1 + ch + kw
  let s0 := rotr64 (g 0) 28 ^^^ rotr64 (g 0) 34 ^^^ rotr64 (g 0) 39
  let maj := (g 0 &&& g 1) ^^^ (g 0 &&& g 2) ^^^ (g 1 &&& g 2)
  [(t1 + s0 + maj) % 2 ^ 64, g 0, g 1, g 2, (g 3 + t1) % 2 ^ 64, g 4, g 5, g 6]

/-- A big-endian number. -/
def beNat (bs : List Byte) : Nat := bs.foldl (fun a b => 256 * a + b.toNat) 0

/-- The `n` big-endian bytes of a number. -/
def beBytes (v n : Nat) : List Byte := (leBytes v n).reverse

/-- Words of eight bytes, big-endian. -/
def beWords : Nat → List Byte → List Nat
  | 0, _ => []
  | n + 1, bs => beNat (bs.take 8) :: beWords n (bs.drop 8)

/-- One block of 128 bytes compressed into the hash value. -/
def shaBlock (h : List Nat) (blk : List Byte) : List Nat :=
  let w := (shaSchedule 64 (beWords 16 blk).reverse).reverse
  let v := ((shaK.zip w).map (fun p => p.1 + p.2)).foldl shaRound h
  (h.zip v).map (fun p => (p.1 + p.2) % 2 ^ 64)

/-- Blocks of 128 bytes in turn. -/
def shaBlocks : Nat → List Nat → List Byte → List Nat
  | 0, h, _ => h
  | n + 1, h, bs => shaBlocks n (shaBlock h (bs.take 128)) (bs.drop 128)

/-- The padding of a message of `n` bytes. -/
def shaPad (n : Nat) : List Byte :=
  (0x80#8 : Byte) :: List.replicate ((239 - n % 128) % 128) 0#8 ++ beBytes (8 * n) 16

/-- SHA-512 of a byte string: 64 bytes. -/
def sha512 (m : List Byte) : List Byte :=
  let p := m ++ shaPad m.length
  (shaBlocks (p.length / 128) shaH0 p).flatMap (fun w => beBytes w 8)

/-- HMAC with SHA-512 (RFC 2104). -/
def hmac512 (key msg : List Byte) : List Byte :=
  let k0 := if 128 < key.length then sha512 key else key
  let k := k0 ++ List.replicate (128 - k0.length) 0#8
  sha512 (k.map (· ^^^ 0x5C#8) ++ sha512 (k.map (· ^^^ 0x36#8) ++ msg))

/-- HKDF blocks (RFC 5869, expand): `n` of them. -/
def hkdfBlocks (prk info : List Byte) : Nat → Nat → List Byte → List Byte
  | 0, _, _ => []
  | n + 1, i, t =>
    let t1 := hmac512 prk (t ++ info ++ [BitVec.ofNat 8 i])
    t1 ++ hkdfBlocks prk info n (i + 1) t1

/-- HKDF with SHA-512: `len` bytes. -/
def hkdf512 (salt ikm info : List Byte) (len : Nat) : List Byte :=
  (hkdfBlocks (hmac512 salt ikm) info ((len + 63) / 64) 1 []).take len

/-- `b ^ e` modulo `n`, one bit of `e` at a time over `k` bits. -/
def modPow (n : Nat) : Nat → Nat → Nat → Nat
  | 0, _, _ => 1 % n
  | k + 1, b, e =>
    let r := modPow n k (b * b % n) (e / 2)
    if e % 2 = 1 then b * r % n else r

/-- The DER prefix of a SHA-512 digest in a PKCS #1 v1.5 signature (RFC 8017). -/
def derSha512 : List Byte :=
  [0x30, 0x51, 0x30, 0x0D, 0x06, 0x09, 0x60, 0x86, 0x48, 0x01, 0x65, 0x03, 0x04, 0x02, 0x03, 0x05, 0x00, 0x04, 0x40]

/-- The encoded message of a PKCS #1 v1.5 signature over a message, `len` bytes long. -/
def pkcs1Encode (len : Nat) (msg : List Byte) : List Byte :=
  let t := derSha512 ++ sha512 msg
  [0x00#8, 0x01#8] ++ List.replicate (len - 3 - t.length) 0xFF#8 ++ [0x00#8] ++ t

/-! ### HMAC_DRBG and the generation of an RSA key (R470; PRESUMED, log 153) -/

/-- The working state of an HMAC_DRBG. -/
structure Drbg where
  key : List Byte
  v : List Byte
  deriving DecidableEq, Repr

/-- The update function of SP 800-90A, 10.1.2.2. -/
def drbgUpdate (data : List Byte) (d : Drbg) : Drbg :=
  let k := hmac512 d.key (d.v ++ [0#8] ++ data)
  let v := hmac512 k d.v
  if data = [] then ⟨k, v⟩
  else
    let k2 := hmac512 k (v ++ [1#8] ++ data)
    ⟨k2, hmac512 k2 v⟩

/-- An HMAC_DRBG instantiated with a seed, 10.1.2.3. -/
def drbgInit (seed : List Byte) : Drbg := drbgUpdate seed ⟨List.replicate 64 0#8, List.replicate 64 1#8⟩

/-- `n` blocks of output with the value left. -/
def drbgBlocks (key : List Byte) : Nat → List Byte → List Byte × List Byte
  | 0, v => ([], v)
  | n + 1, v =>
    let w := hmac512 key v
    let r := drbgBlocks key n w
    (w ++ r.1, r.2)

/-- `n` bytes of output as a big-endian number, 10.1.2.5. -/
def drbgNat (n : Nat) (d : Drbg) : Nat × Drbg :=
  let r := drbgBlocks d.key ((n + 63) / 64) d.v
  (beNat (r.1.take n), drbgUpdate [] { d with v := r.2 })

/-- The largest `a` up to a bound for which 2 to the `a` divides a number, and the odd part. -/
def evenPart : Nat → Nat → Nat × Nat
  | 0, m => (0, m)
  | k + 1, m =>
    if m % 2 = 1 then (0, m)
    else
      let r := evenPart k (m / 2)
      (r.1 + 1, r.2)

/-- Whether squaring `z` up to `k` times modulo `w` meets `w - 1`. -/
def meetsMinus (w : Nat) : Nat → Nat → Bool
  | 0, z => z == w - 1
  | k + 1, z => z == w - 1 || meetsMinus w k (z * z % w)

/-- Rounds of the Miller-Rabin test of FIPS 186-5, B.3.1, with bases from the generator; a base out of range is drawn again. -/
def millerRabin (w : Nat) : Nat → Nat → Drbg → Bool × Drbg
  | 0, rounds, d => (rounds == 0, d)
  | n + 1, rounds, d =>
    if rounds = 0 then (true, d)
    else
      let b := drbgNat 256 d
      if b.1 ≤ 1 ∨ w - 1 ≤ b.1 then millerRabin w n rounds b.2
      else
        let a := evenPart 2048 (w - 1)
        let z := modPow w 2048 b.1 a.2
        if z = 1 ∨ meetsMinus w (a.1 - 1) z then millerRabin w n (rounds - 1) b.2 else (false, b.2)

/-- A probable prime of 2,048 bits of FIPS 186-5, A.1.3, that passes a test: large enough, prime to 65,537 when 1 is taken off, and
found prime in four rounds. -/
def primeFrom (far : Nat → Bool) : Nat → Drbg → Option (Nat × Drbg)
  | 0, _ => none
  | n + 1, d =>
    let r := drbgNat 256 d
    let p := if r.1 % 2 = 1 then r.1 else r.1 + 1
    if p * p < 2 ^ 4095 ∨ !far p ∨ Nat.gcd (p - 1) 65537 ≠ 1 then primeFrom far n r.2
    else
      let t := millerRabin p 64 4 r.2
      if t.1 then some (p, t.2) else primeFrom far n t.2

/-- The private exponent that belongs to 65,537 modulo the least common multiple of both primes less 1. -/
def rsaExponent (p q : Nat) : Nat :=
  let l := Nat.lcm (p - 1) (q - 1)
  let k := (65537 - modPow 65537 17 (l % 65537) 65535) % 65537
  (1 + l * k) / 65537

/-- An RSA key of 4,096 bits with public exponent 65,537 from a generator, as modulus and private exponent, FIPS 186-5, A.1.3; none
where the standard answers failure. -/
def rsaGenerate : Nat → Drbg → Option (Nat × Nat)
  | 0, _ => none
  | n + 1, d =>
    match primeFrom (fun _ => true) 10240 d with
    | none => none
    | some (p, d) =>
      match primeFrom (fun q => decide (2 ^ 1948 < (p - q) + (q - p))) 20480 d with
      | none => none
      | some (q, d) =>
        let e := rsaExponent p q
        if e ≤ 2 ^ 2048 then rsaGenerate n d else some (p * q, e)

end Sys2Proof.Machine
end

