-- ==== Sys2Proof/Machine/Mover.lean ====
section
/-!
DEFINITION. The data movers (R391 to R395, R518): HOST_IN, HOST_OUT, LOCAL, their bursts, halts and completions.
-/
namespace Sys2Proof.Machine

/-- LENGTH of a MOVE (R85). -/
def mvLen (d : Desc) : Nat := bitsOf (dWord d 3) 0 40

/-- The device address of byte 0 of a MOVE at its word-2 end (R85). -/
def mvDev (s : State) (d : Desc) : Nat := ((moveRanges s d).getD 0 (0, 0, 0)).2.1

/-- The device address of byte 0 of a LOCAL's source (R85). -/
def mvSrc (s : State) (d : Desc) : Nat := ((moveRanges s d).getD 1 (0, 0, 0)).2.1

/-- The level at which R392 serves a burst: PRIO of its descriptor (R85), or 3 once it has aged. -/
def burstLevel (d : Desc) (off : Nat) : Nat := if d.dm.aged.contains off then 3 else bitsOf (dWord d 3) 40 2

/-- BURST_LOG2 (R391, R402). What a value outside 8 to 12 does is not stated: it is free (DESIGN CHOICE, log 14). -/
def burstLog2 (s : State) : Nat :=
  let n := rf s F.HIF_DM_ARB_BURST_LOG2
  if 8 ≤ n ∧ n ≤ 12 then n else Config.burstLog2 n

/-- The length of the burst at an offset (R391): at most 2^BURST_LOG2 bytes, none crossing 4 KiB of host memory. -/
def burstLen (s : State) (d : Desc) (off : Nat) : Nat :=
  let most := 2 ^ burstLog2 s
  let most := if dOp d = 3 then most else min most (4096 - (dWord d 1 + off) % 4096)
  min most (mvLen d - off)

/-- The MOVEs of a channel that have started and not ended. -/
def chanMoves (s : State) (chan : Nat) : List Desc :=
  s.inflight.filter (fun d => d.ring == 2 && dClass d == 4 && dmChan s d.ctx == chan && d.run == .running)

/-- The bursts that a channel has outstanding for its other MOVEs (R391). -/
def othersOut (s : State) (d : Desc) : Nat :=
  ((chanMoves s (dmChan s d.ctx)).filter (fun e => !(e.ctx == d.ctx && e.cnt == d.cnt))).foldl (fun a e => a + e.dm.outst.length) 0

/-- Whether a MOVE has issued its last burst (R391). -/
def issuedAll (d : Desc) : Bool := d.dm.redo == [] && decide (mvLen d ≤ d.dm.next)

/-- Whether a MOVE may issue a burst now: its channel has fewer than 4 outstanding (R391) and is not halted (R394), no fence of MEM
or HIF bars new requests (R443), and the host link is up where it is needed (R396). -/
def mayIssue (s : State) (d : Desc) : Bool :=
  decide (d.dm.outst.length + othersOut s d < 4) && !d.dm.stopped && rf s (F.DM_STAT_HALTED (dmChan s d.ctx)) != 1
    && d.fails == [] && s.memUp && s.hifUp && (dOp d == 3 || linkUp s)

/-- Bursts are issued: first those that are to be issued again, then the next in offset order (R391, R395). -/
def issueBursts : Nat → Desc → State → Desc
  | 0, d, _ => d
  | n + 1, d, s =>
    if !mayIssue s d || issuedAll d then d
    else match d.dm.redo with
      | b :: bs => issueBursts n { d with dm := { d.dm with redo := bs, outst := d.dm.outst ++ [b] } } s
      | [] =>
        let l := burstLen s d d.dm.next
        issueBursts n { d with dm := { d.dm with next := d.dm.next + l, outst := d.dm.outst ++ [(d.dm.next, l)] } } s

/-- The descriptor is stored, finished when every burst is done, or when it has failed and none is outstanding. -/
def settleMove (d : Desc) (s : State) : State :=
  if d.dm.outst = [] ∧ (issuedAll d ∨ d.fails ≠ []) then finish d s else setDesc d s

/-! ### The order of bursts on the host link (R392) -/

/-- The bursts of a running MOVE that wait for the host link. -/
def waitBursts (d : Desc) : List (Nat × Nat) :=
  if dOp d = 3 then [] else d.dm.outst.filter (fun o => !d.dm.sent.contains o.1)

/-- Whether the link serves a burst: one that it has begun and that is not complete. -/
def linkBusy (s : State) : Bool :=
  s.inflight.any (fun d => dClass d == 4 && dOp d != 3 && d.run == .running && d.dm.outst.any (fun o => d.dm.sent.contains o.1))

/-- The burst that a channel has waiting first, with its MOVE. -/
def headBurst (s : State) (chan : Nat) : Option (Desc × Nat × Nat) :=
  (chanMoves s chan).findSome? (fun d => (waitBursts d).head?.map (fun o => (d, o)))

/-- The burst that the link serves next: of the channels with the highest level, the next in turn (R392). -/
def nextBurst (s : State) : Option (Desc × Nat × Nat) :=
  let heads := (List.range 64).filterMap (fun i => headBurst s ((s.linkAt + 1 + i) % 64))
  heads.find? (fun h => heads.all (fun x => burstLevel x.1 x.2.1 ≤ burstLevel h.1 h.2.1))

/-- The link begins to serve the next burst. -/
def serveNext (s : State) : State :=
  match nextBurst s with
  | none => s
  | some (d, o, l) =>
    let c := dmChan s d.ctx
    emit (.burst c o l (burstLevel d o) (dOp d == 2))
      { setDesc { d with dm := { d.dm with sent := d.dm.sent ++ [o] } } s with linkAt := c }

/-- A link that serves no burst begins the next (R392): a burst goes out as soon as the one before it is complete. -/
def serveLink (s : State) : State := if linkUp s && !linkBusy s then serveNext s else s

/-- The link serves bursts in turn until the burst of a MOVE has its turn: it is complete, so those before it have gone out (R392; how
many are under way on the link at once is not stated: DEDUCED, log 126). -/
def serveUntil (ctx cnt off : Nat) : Nat → State → State
  | 0, s => s
  | n + 1, s =>
    if (findDesc s ctx 2 cnt).any (fun d => (waitBursts d).any (fun o => o.1 == off)) then serveUntil ctx cnt off n (serveNext s) else s

/-- Bursts that wait for the link. -/
def linkQueue (s : State) : Nat :=
  (s.inflight.filter (fun d => dClass d == 4 && d.run == .running)).foldl (fun a d => a + (waitBursts d).length) 0

/-- Every burst that waits goes out: the drain's writes into host slots come after them (R392). -/
def serveAll (s : State) : State := (List.range (linkQueue s)).foldl (fun s _ => serveNext s) s

/-- Running MOVEs issue the bursts that they may, in ring order, and the link goes on (R391, R392). -/
def kick (ds : List Desc) (s : State) : State := serveLink (ds.foldl (fun s d => settleMove (issueBursts 4 d s) s) s)

/-- The MOVEs under way issue the bursts that they may. -/
def kickMoves (s : State) : State := kick (s.inflight.filter (fun d => dClass d == 4 && d.run == .running)) s

/-- The MOVEs of one channel issue the bursts that they may. -/
def kickChan (chan : Nat) (s : State) : State := kick (chanMoves s chan) s

/-- The rank of a MOVE among the descriptors of its ring in the step: its count from the replay mark (R52) (DESIGN CHOICE, log 95). -/
def moveRank (s : State) (d : Desc) : Nat :=
  match d.step with
  | none => d.cnt
  | some n =>
    match (findStep s n).bind (fun r => r.mark.find? (fun m => m.1 == 2)) with
    | some m => (d.cnt + 2 ^ 32 - m.2) % 2 ^ 32
    | none => d.cnt

/-- The kept pieces of a HOST_IN, in offset order of record (R52). -/
def keptPieces (s : State) (d : Desc) : List Kept :=
  match d.step with
  | none => []
  | some n => s.kept.filter (fun k => !k.pipe && k.step == n && k.tag == moveRank s d && !k.absent)

/-- Whether a HOST_IN of a replayed step is served from the keep buffer: its bytes are held (R52). -/
def servedFromKeep (s : State) (d : Desc) : Bool :=
  match d.step.bind (findStep s) with
  | none => false
  | some r => r.replay && mvLen d != 0 && (keptPieces s d).foldl (fun a k => a + k.len) 0 == mvLen d

/-- Bytes of a copy that reach memory: those before the word of the first bad address (R237). -/
def beforeBad (src : Nat) (bad : List Nat) (n : Nat) : Nat :=
  bad.foldl (fun a w => min a (8 * w - src)) n

/-- One kept piece is read, checked and written to its place (R52); an uncorrectable word marks it absent, and neither it nor any
later word of the transfer is written (R237). -/
def copyKept (d : Desc) (k : Kept) (p : Desc × State) : Desc × State :=
  if p.1.fails ≠ [] then p
  else
    let r := readRange .keep k.addr k.len p.2
    let w := writeRange .hostMove (mvDev r.1 d + k.off) ((memRead r.1 k.addr k.len).take (beforeBad k.addr r.2 k.len)) r.1
    let f := failKept p.1 k r.2 w.1
    let f := failWords f.1 w.2 f.2
    if r.2 = [] then f
    else (f.1, { f.2 with kept := f.2.kept.map (fun x => if x = k then { x with absent := true } else x) })

/-- Of the burst of a copy agent at an offset, the bytes before the first word of the transfer that could not be corrected (R237). -/
def copyLen (d : Desc) (off len : Nat) : Nat :=
  match d.dm.badAt with
  | none => len
  | some b => min len (b - off)

/-- A burst of a copy agent has met words that cannot be corrected: nothing from the first of them on is written (R237). -/
def noteBad (off src : Nat) (bad : List Nat) (len : Nat) (d : Desc) : Desc :=
  if bad = [] then d
  else
    let b := off + beforeBad src bad len
    { d with dm := { d.dm with badAt := some (match d.dm.badAt with | none => b | some x => min x b) } }

/-- The part of a MOVE that a burst writes, as offset and length: a destination word that the MOVE covers whole is written once, by
the burst that holds its first byte, so that only the end words of the MOVE are merged (R216, R518). -/
def burstSpan (s : State) (d : Desc) (off len : Nat) : Nat × Nat :=
  let b := mvDev s d
  let up := fun o => if o = 0 then 0 else min (mvLen d) ((b + o + 7) / 8 * 8 - b)
  (up off, up (off + len) - up off)

/-- A LOCAL burst: source words checked; with equal offsets modulo 8 a copy that carries Tack, which nothing after a bad
word follows; with unequal offsets a producer, that leaves out each word that depends on a bad one, of this burst or of the next (R232, R518). -/
def localBurst (d : Desc) (off len : Nat) (s : State) : Desc × State :=
  let src := mvSrc s d + off
  let dst := mvDev s d + off
  let r := readRange .localMove src len s
  let s1 := r.1
  let bytes := memRead s1 src len
  if src % 8 = dst % 8 then
    let d := noteBad off src r.2 len d
    let w := writeRange .localMove dst (bytes.take (copyLen d off len)) s1
    failWords d (r.2 ++ w.2) w.1
  else
    let d0 := mvDev s d
    let dep := fun j => (List.range 8).any (fun i =>
      let b := 8 * (dst / 8 + j) + i
      d0 ≤ b && b < d0 + mvLen d && tackClassify (synGet s1 ((mvSrc s d + (b - d0)) / 8)) == .uncorrectable)
    let pieces := (List.range ((dst + len + 7) / 8 - dst / 8)).filter (fun j => !dep j)
    let w := pieces.foldl (fun (p : State × List Nat) j =>
      let lo := max dst (8 * (dst / 8 + j))
      let hi := min (dst + len) (8 * (dst / 8 + j) + 8)
      let q := writeRange .localMove lo ((bytes.drop (lo - dst)).take (hi - lo)) p.1
      (q.1, p.2 ++ q.2)) (s1, [])
    failWords d (r.2 ++ w.2) w.1

/-- The copy of a burst of a step input that is to be kept (R25). -/
def burstKept (s : State) (d : Desc) (off len : Nat) : Option Kept :=
  match d.step with
  | some n =>
    if dOp d = 1 && (tensorEntry s d.ctx (bitsOf (dWord d 2) 48 16)).stepInput && d.ctx == stepCtx s then
      some ⟨n, false, moveRank s d, 0, 0, off, 0, len, false, false, 0, 0, false⟩
    else none
  | none => none

/-- What a completed burst does: data in either direction, Tack made on entry and checked on leaving (R232, R237), and the
copy of a step input that is kept (R25). -/
def burstEffect (d : Desc) (off len : Nat) (s : State) : Desc × State :=
  let dev := mvDev s d + off
  match dOp d with
  | 1 =>
    let x := burstSpan s d off len
    let w := writeRange .hostMove (mvDev s d + x.1) (hostRead s (dWord d 1 + x.1) x.2) s
    failWords d w.2 (match burstKept s d off len with
      | some k => keepRecord k (hostRead s (dWord d 1 + off) len) w.1
      | none => w.1)
  | 2 =>
    let r := readRange .hostMove dev len s
    let d := noteBad off dev r.2 len d
    failWords d r.2 (hostWrite (dWord d 1 + off) (memRead r.1 dev (copyLen d off len)) r.1)
  | _ => localBurst d (burstSpan s d off len).1 (burstSpan s d off len).2 s

/-- Whether a burst's accesses wait at the controllers (R220, R224). -/
def burstHeld (s : State) (d : Desc) (off len : Nat) : Bool :=
  let x := burstSpan s d off len
  match dOp d with
  | 3 => accessHeld s .localMove (byteRun (mvSrc s d + x.1) x.2 ++ byteRun (mvDev s d + x.1) x.2)
  | 1 => accessHeld s .hostMove (byteRun (mvDev s d + x.1) x.2) || (burstKept s d off len).any (fun k => keepHeld k s)
  | _ => accessHeld s .hostMove (byteRun (mvDev s d + off) len)

/-- A burst is complete (R391): its effect, its bytes counted, and it is outstanding no longer. -/
def completeBurst (d : Desc) (off len : Nat) (s : State) : State :=
  let p := burstEffect d off len s
  settleMove { p.1 with dm := { p.1.dm with outst := p.1.dm.outst.filter (fun o => o.1 != off), sent := p.1.dm.sent.filter (· != off) } }
    (bump (F.DM_BYTES (dmChan s d.ctx)) len p.2)

/-- The running MOVE of a channel that has the burst at an offset outstanding. -/
def burstOwner (s : State) (chan off : Nat) : Option (Desc × Nat) :=
  match s.inflight.find? (fun d => d.ring == 2 && dmChan s d.ctx == chan && d.run == .running
      && d.dm.outst.any (fun o => o.1 == off)) with
  | none => none
  | some d => (d.dm.outst.find? (fun o => o.1 == off)).map (fun o => (d, o.2))

/-- A MOVE starts: the channel is not halted, the host link is up where it is needed, and the previous descriptor has issued its
last burst (R391). -/
def startMove (c cnt op : Nat) (s : State) : State :=
  match findDesc s c 2 cnt with
  | none => s
  | some d0 =>
    if rf s (F.DM_STAT_HALTED (dmChan s c)) = 1 ∨ (op ≠ 3 ∧ !linkUp s ∧ !(op = 1 ∧ servedFromKeep s d0))
        ∨ ¬ (earlierOf s d0).all (fun e => e.run == .finished || issuedAll e)
        ∨ (op = 1 ∧ servedFromKeep s d0 ∧ (accessHeld s .hostMove (byteRun (mvDev s d0) (mvLen d0))
          || (keptPieces s d0).any (fun k => accessHeld s .keep (byteRun k.addr k.len)))) then s
    else withStart s c 2 cnt 4 op (fun d s =>
      if op = 1 ∧ servedFromKeep s d then
        let p := (keptPieces s d).foldl (fun p k => copyKept d k p) (d, s)
        finish p.1 (setDesc p.1 p.2)
      else
        serveLink (settleMove (issueBursts 4 d s) s))

/-- HOST_IN (R85, R391, R52). -/
def execHostIn (r : DescRef) (s : State) : Host.Outcome State Fault Refusal := .next (startMove r.ctx.val r.cnt.toNat 1 s)
/-- HOST_OUT (R85, R391). -/
def execHostOut (r : DescRef) (s : State) : Host.Outcome State Fault Refusal := .next (startMove r.ctx.val r.cnt.toNat 2 s)
/-- LOCAL (R85, R391, R518). -/
def execMoveLocal (r : DescRef) (s : State) : Host.Outcome State Fault Refusal := .next (startMove r.ctx.val r.cnt.toNat 3 s)

/-- DM_BURST_COMPLETE (R391, R392): the bursts whose turn on the link came before it have gone out; the burst's effect, then the next
bursts of its channel. -/
def execDmBurstComplete (chan : Fin 64) (off : BitVec 40) (s : State) : Host.Outcome State Fault Refusal :=
  match burstOwner s chan.val off.toNat with
  | none => .next s
  | some (d, len) =>
    if burstHeld s d off.toNat len then .next s else
    let s1 := serveUntil d.ctx d.cnt off.toNat (linkQueue s) s
    .next (kickChan chan.val (completeBurst ((findDesc s1 d.ctx 2 d.cnt).getD d) off.toNat len s1))

/-- The code of a bus error (R401). -/
def busErrorCode : BusError → Nat
  | .ur => 1 | .ca => 2 | .timeout => 3 | .poisoned => 4 | .integrity => 5 | .linkDown => 6

/-- An outstanding burst is to be issued again: it is outstanding no longer. -/
def redoBurst (first : Bool) (off : Nat) (d : Desc) : Desc :=
  let mine := d.dm.outst.filter (fun o => o.1 == off)
  { d with dm := { d.dm with outst := d.dm.outst.filter (fun o => o.1 != off), sent := d.dm.sent.filter (· != off),
                             redo := if first then mine ++ d.dm.redo else d.dm.redo ++ mine } }

/-- An outstanding burst of a channel that halts (R394): it completes; but what a HOST_IN returns is discarded, so that it must be
issued again, as must every burst that was lost with the link (R396). One that waits at the controllers stays outstanding (DEDUCED,
log 96). -/
def haltBurst (lost : Bool) (ctx cnt off : Nat) (s : State) : State :=
  match findDesc s ctx 2 cnt with
  | none => s
  | some d =>
    match d.dm.outst.find? (fun o => o.1 == off) with
    | none => s
    | some o =>
      if dOp d = 1 ∨ (lost ∧ dOp d ≠ 3) then setDesc (redoBurst false off d) s
      else if burstHeld s d off o.2 then s
      else completeBurst d off o.2 s

/-- The error of a halt is latched, unless an earlier one is still latched (R394, R395). -/
def latchHalt (chan off kind : Nat) (d : Desc) (s : State) : State :=
  if rf s (F.DM_STAT_HALT_ERR chan) = 1 then s
  else
    let s := put (F.DM_ERR_HADDR chan) (dWord d 1 + off) (put (F.DM_ERR_DADDR_ADDR chan) (mvDev s d + off) s)
    put (F.DM_STAT_HALT_ERR chan) 1
      (put (F.DM_STAT_ERR_DIR chan) (if dOp d = 2 then 1 else 0) (put (F.DM_STAT_ERR_KIND chan) kind s))

/-- A channel halts on a burst (R394): nothing more is issued, its outstanding bursts complete, the error is latched, and a
CHECK_ERROR notice and the channel's vector are raised. The failing burst is the first to be issued again. -/
def haltChannel (chan off kind : Nat) (d : Desc) (s : State) : State :=
  let dev := mvDev s d + off
  let x := redoBurst true off d
  let s := setDesc { x with dm := { x.dm with stopped := true } } s
  let s := (chanMoves s chan).foldl (fun s e =>
    e.dm.outst.foldl (fun s o => haltBurst (kind == 6) e.ctx e.cnt o.1 s) s) s
  let s := put (F.DM_STAT_HALTED chan) 1 (latchHalt chan off kind d s)
  let s := checkError d.ctx 0 0 (pathMover chan) dev s
  raiseVec (rf s (F.DM_VEC_VEC chan)) s

/-- DM_HALT (R394): bursts on the host link only. -/
def execDmHalt (chan : Fin 64) (off : BitVec 40) (kind : BusError) (s : State) : Host.Outcome State Fault Refusal :=
  match burstOwner s chan.val off.toNat with
  | none => .next s
  | some (d, _) =>
    if dOp d = 3 then .next s else .next (serveLink (haltChannel chan.val off.toNat (busErrorCode kind) d s))

/-- The halted MOVE of a channel. -/
def haltedOf (s : State) (chan : Nat) : Option Desc :=
  s.inflight.find? (fun d => d.ring == 2 && dmChan s d.ctx == chan && d.run == .running && d.dm.stopped)

/-- A write of DMn.CTL with RESUME and ABORT (R395): ABORT alone when both are set, nothing when not halted. -/
def moverCtl (chan resume abort : Nat) (s : State) : State :=
  match haltedOf s chan with
  | none => s
  | some d =>
    if abort = 1 then kickChan chan (timeoutDesc d s)
    else if resume = 1 then
      kickChan chan (setDesc { d with dm := { d.dm with stopped := false } } (put (F.DM_STAT_HALTED chan) 0 s))
    else s

/-- DM_RESUME (R395). -/
def execDmResume (chan : Fin 64) (s : State) : Host.Outcome State Fault Refusal :=
  .next (byHost (R.DM_CTL chan.val) (moverCtl chan.val 1 0) s)
/-- DM_ABORT (R395). -/
def execDmAbort (chan : Fin 64) (s : State) : Host.Outcome State Fault Refusal :=
  .next (byHost (R.DM_CTL chan.val) (moverCtl chan.val 0 1) s)

/-- DESCRIPTOR_TIMEOUT (R72, R149): a channel goes on with its next descriptor (R395), and prefetch may follow (R202). -/
def execDescriptorTimeout (ctx : Fin 64) (ring : Fin 3) (cnt : BitVec 32) (s : State) :
    Host.Outcome State Fault Refusal :=
  match findDesc s ctx.val ring.val cnt.toNat with
  | none => .next s
  | some d =>
    if timerRuns s d then
      let t := noteIdle (prefetch (restEngines (timeoutDesc d s)))
      .next (if ring.val = 2 then kickChan (dmChan s ctx.val) t else t)
    else .next s

/-- DM_BURST_AGED (R392): the burst is served from now on as though at level 3. -/
def execDmBurstAged (chan : Fin 64) (off : BitVec 40) (s : State) : Host.Outcome State Fault Refusal :=
  match burstOwner s chan.val off.toNat with
  | none => .next s
  | some (d, _) => .next (setDesc { d with dm := { d.dm with aged := d.dm.aged ++ [off.toNat] } } s)

end Sys2Proof.Machine
end

