-- ==== Sys2Proof/Machine/Update.lean ====
section
/-!
DEFINITION. The optimiser update (R90, R128), the group records (R345) and the shard image (R343), shared by the own
update, the mirror update and image transfers.
-/
namespace Sys2Proof.Machine

/-- A group record read from its sixteen words (R345). -/
structure GroupRec where
  count : Nat
  kind : Nat
  w8fmt : Nat
  w8mxdim : Nat
  wOff : Nat
  w8Off : Nat
  pOff : Nat
  v1Off : Nat
  v2Off : Nat
  lr : Nat
  b1 : Nat
  b2 : Nat
  eps : Nat
  wd : Nat
  k1 : Nat
  k2 : Nat
  dim0 : Nat
  w8sOff : Nat
  deriving DecidableEq, Repr

/-- The fields of a group record (R345). -/
def groupOf (ws : List Word) : GroupRec :=
  let w := fun i => (ws.getD i 0).toNat
  { count := bitsOf (w 0) 0 40, kind := bitsOf (w 0) 40 4, w8fmt := bitsOf (w 0) 44 8, w8mxdim := bitsOf (w 0) 52 1,
    wOff := bitsOf (w 1) 0 48, w8Off := bitsOf (w 2) 0 48, pOff := bitsOf (w 3) 0 48, v1Off := bitsOf (w 4) 0 48,
    v2Off := bitsOf (w 5) 0 48, lr := bitsOf (w 6) 0 32, b1 := bitsOf (w 6) 32 32, b2 := bitsOf (w 7) 0 32,
    eps := bitsOf (w 7) 32 32, wd := bitsOf (w 8) 0 32, k1 := bitsOf (w 8) 32 32, k2 := bitsOf (w 9) 0 32,
    dim0 := bitsOf (w 9) 32 32, w8sOff := bitsOf (w 10) 0 48 }

/-- The device address of an image offset in the own ranges: the state range first, then the error-feedback range. -/
def ownAddr (s : State) (off : Nat) : Nat :=
  let sz := ff s F.SEAM_STATE_SIZE_BYTES
  if off < sz then ff s F.SEAM_STATE_BASE + off else ff s F.SEAM_EFB_BASE + (off - sz)

/-- The device address of an image offset in the mirror region. -/
def mirrorAddr (s : State) (off : Nat) : Nat := ff s F.SEAM_MIRROR_BASE + off

/-- The image offset of a device address of the own ranges. -/
def imageOff (s : State) (a : Nat) : Nat :=
  let sz := ff s F.SEAM_STATE_SIZE_BYTES
  if within (ff s F.SEAM_STATE_BASE) sz a 1 then a - ff s F.SEAM_STATE_BASE
  else a - ff s F.SEAM_EFB_BASE + sz

/-- The own image size (R346). -/
def imageSize (s : State) : Nat := ff s F.SEAM_STATE_SIZE_BYTES + ff s F.SEAM_EFB_SIZE_BYTES

/-- The group record of an accepted OPT_BIND (R344, R345), and after its sixteen words the device address of the gradient and the
offsets of the other versions of W, of W8 and of its scales (R43). Offsets of a VERSIONED tensor are those of the version of parity
`n mod 2` (R48). -/
def recordOf (s : State) (d : Desc) (n : Nat) : List Word :=
  let w := dWord d
  let h := fun i k => bitsOf (w i) (16 * k) 16
  let T := fun k => tensorEntry s d.ctx k
  let W := T (h 1 0)
  let W8 := T (h 2 1)
  let off := fun t => imageOff s (tBase s t (n % 4))
  let kind := bitsOf (w 2) 32 4
  let scales := fun m => if fmtBlocked (tFmt W8) then imageOff s (tScaleOf W8 (tBase s W8 m)) else 0
  ([ tCount W + kind * 2 ^ 40 + W8.fmtCode * 2 ^ 44 + W8.mxdim * 2 ^ 52,
     off W, off W8, off (T (h 1 1)), off (T (h 1 2)), off (T (h 1 3)),
     w 3, w 4, w 5, bitsOf (w 6) 0 32 + W.d0 * 2 ^ 32,
     scales (n % 4), 0, 0, 0, 0, 0, tBase s (T (h 2 0)) (n % 4),
     imageOff s (tBase s W ((n + 1) % 4)), imageOff s (tBase s W8 ((n + 1) % 4)), scales ((n + 1) % 4) ]).map (BitVec.ofNat 64)

/-- One element's new moments and master value (R90): V1, V2, P. -/
def optElem (g : GroupRec) (grad v1 v2 p : FV) : FV × FV × FV :=
  let lr := f32 g.lr
  let b1 := f32 g.b1
  let wd := f32 g.wd
  if g.kind = 0 then
    let one := f32 0x3F800000
    let b2 := f32 g.b2
    let v1 := f32Add (f32Mul b1 v1) (f32Mul (f32Sub one b1) grad)
    let v2 := f32Add (f32Mul b2 v2) (f32Mul (f32Sub one b2) (f32Mul grad grad))
    let u := f32Div (f32Mul v1 (f32 g.k1)) (f32Add (f32Sqrt (f32Mul v2 (f32 g.k2))) (f32 g.eps))
    (v1, v2, f32Sub p (f32Mul lr (f32Add u (f32Mul wd p))))
  else
    let v1 := f32Add (f32Mul b1 v1) grad
    (v1, v2, f32Sub p (f32Mul lr (f32Add v1 (f32Mul wd p))))

/-- The FP32 value stored at an address. -/
def memF32 (s : State) (a : Nat) : FV := f32 (memNat s a 4)

/-- The bit fields that rebuild W8 for elements `[st, st + n)` from the master values as they stand (R128): one conversion
per element, or per block of 32 along W8's MXDIM. -/
def w8Fields (s : State) (img : Nat → Nat) (g : GroupRec) (st n : Nat) : List (Nat × Nat × Nat) :=
  let f := (fmtOfCode g.w8fmt).getD .fp8E4M3
  let p := fun e => memF32 s (img (g.pOff + 4 * e))
  if fmtBlocked f then
    let blk := fun e => if g.w8mxdim = 0 then e / 32 else e / g.dim0 / 32 * g.dim0 + e % g.dim0
    let els := fun b => (List.range 32).map (fun k =>
      if g.w8mxdim = 0 then 32 * b + k else (b / g.dim0 * 32 + k) * g.dim0 + b % g.dim0)
    let bs := ((List.range n).map (fun i => blk (st + i))).eraseDups
    bs.flatMap (fun b =>
      let c := convertBlock f ((els b).map p)
      (8 * img (g.w8sOff + b), 8, c.1) :: ((els b).zip c.2).map (fun e => (8 * img (g.w8Off + e.1), 8, e.2)))
  else (List.range n).map (fun i => (8 * img (g.w8Off + st + i), 8, fpEncode f (p (st + i))))

/-- Elements `[st, st + n)` of a group updated (R90), each from its gradient; then W and W8 (R128). Answers the words that could not be
merged (R216). -/
def updateElems (img : Nat → Nat) (g : GroupRec) (grad : Nat → FV) (st n : Nat) (s : State) : State × List Nat :=
  let fs := (List.range n).flatMap (fun i =>
    let e := st + i
    let r := optElem g (grad e) (memF32 s (img (g.v1Off + 4 * e)))
      (if g.kind = 0 then memF32 s (img (g.v2Off + 4 * e)) else fvZero) (memF32 s (img (g.pOff + 4 * e)))
    [(8 * img (g.v1Off + 4 * e), 32, fpEncode .fp32 r.1), (8 * img (g.pOff + 4 * e), 32, fpEncode .fp32 r.2.2),
     (8 * img (g.wOff + 2 * e), 16, fpEncode .bf16 r.2.2)]
      ++ (if g.kind = 0 then [(8 * img (g.v2Off + 4 * e), 32, fpEncode .fp32 r.2.1)] else []))
  let a := storeFields fs s
  let b := storeFields (w8Fields a.1 img g st n) a.1
  (b.1, a.2 ++ b.2)

/-- The words that the update of elements `[st, st + n)` reads from the master copy and the moments. -/
def stateWords (img : Nat → Nat) (g : GroupRec) (st n w : Nat) : Bool :=
  inRange (img (g.pOff + 4 * st)) (4 * n) w || inRange (img (g.v1Off + 4 * st)) (4 * n) w
    || (g.kind == 0 && inRange (img (g.v2Off + 4 * st)) (4 * n) w)

/-- What the update of elements `[st, st + n)` reads of the master copy and the moments, as runs of bits (R90). -/
def blockReads (img : Nat → Nat) (g : GroupRec) (st n : Nat) : List (Nat × Nat) :=
  byteRun (img (g.pOff + 4 * st)) (4 * n) ++ byteRun (img (g.v1Off + 4 * st)) (4 * n)
    ++ (if g.kind = 0 then byteRun (img (g.v2Off + 4 * st)) (4 * n) else [])

/-- What the update of elements `[st, st + n)` writes: W8 with its scales, W, the master copy and the moments (R90, R128). -/
def blockWrites (img : Nat → Nat) (g : GroupRec) (st n : Nat) : List (Nat × Nat) :=
  blockReads img g st n ++ byteRun (img (g.wOff + 2 * st)) (2 * n) ++ byteRun (img (g.w8Off + st)) n
    ++ (if (fmtOfCode g.w8fmt).any fmtBlocked then byteRun (img (g.w8sOff + st / 32)) ((n + 31) / 32) else [])

/-- The blocks of an update (R51): 16,384 elements of one group each, in record order, as (record, first element, count). -/
def updateBlocks (recs : List (List Word)) : List (List Word × Nat × Nat) :=
  recs.flatMap (fun r =>
    let c := (groupOf r).count
    (List.range ((c + 16383) / 16384)).map (fun i => (r, 16384 * i, min 16384 (c - 16384 * i))))

end Sys2Proof.Machine
end

