-- ==== Sys2Proof/Machine/Seam.lean ====
section
/-!
DEFINITION. The Seam stream and the mirror (R41, R44, R343 to R351), image transfers (R352 to R356, R520), and what a failed
read of the state window answers (R374, R375).
-/
namespace Sys2Proof.Machine

/-! ### Window reads (R373 to R375) -/

/-- The failed-read response (R375) of the read at an address, with the notice's cause: 0 for a fenced memory domain. The notice gives the
unit and address of the word that failed. -/
def windowFail (addr word cause : Nat) (s : State) : State :=
  let s := emit (.windowFail addr (linkCxl s)) s
  let s := if rf s F.HIF_MEMERR_VALID = 1 then s else put F.HIF_MEMERR_VALID 1 (put F.HIF_MEMERR_ADDR addr s)
  raiseVec (rf s F.HIF_ERR_VEC_VEC) (checkError (stepCtx s) 0 cause (pathOf s word) word s)

/-- In overlap mode, the ranges of the weights that a step with these group records did not write, with those of the version that it
did: (address, length, address of the version written), for W, W8 and the scales of W8 (R43, R48). -/
def versionRanges (recs : List (List Word)) (s : State) : List (Nat × Nat × Nat) :=
  if rf s F.STEPCFG_CTL_OVERLAP = 0 then []
  else
    (recs.flatMap (fun r =>
      let g := groupOf r
      let other := fun i => (r[i]?).map (·.toNat)
      [(other 17, 2 * g.count, g.wOff), (other 18, g.count, g.w8Off), (other 19, g.count / 32, g.w8sOff)])).filterMap (fun r =>
        match r.1 with
        | some o => if o = r.2.2 then none else some (ownAddr s o, r.2.1, ownAddr s r.2.2)
        | none => none)

/-- Where a read of the window finds a byte: in overlap mode the state window presents the weight version written by the last
hemmed step, at the addresses of either version (R43; DEDUCED, log 131). `recs` are the records of the step whose update the read
follows. -/
def windowAddr (recs : List (List Word)) (s : State) (a : Nat) : Nat :=
  match (versionRanges recs s).find? (fun r => r.1 ≤ a && a < r.1 + r.2.1) with
  | some r => r.2.2 + (a - r.1)
  | none => a

/-- The traffic of host reads and writes through the window: HOST_MEM, in every mode (R372; R218 names reads through CXL.mem;
DEDUCED, log 142). -/
def windowTraffic : Traffic := .hostMem

/-- A window read of one line, or of one PCIe request, is served: the data, or the failed-read response for an uncorrectable word or
fenced memory (R372, R375). -/
def windowPart (recs : List (List Word)) (addr len : Nat) (s : State) : State :=
  if !s.memUp then windowFail addr addr 0 s
  else
    let as := (List.range len).map (fun i => windowAddr recs s (addr + i))
    let r := checkWords (fun w => as.any (fun a => a / 8 == w))
      (access windowTraffic false false (byteRun (windowAddr recs s addr) len) s)
    match r.2 with
    | [] => emit (.windowData addr (as.map (memGet r.1))) r.1
    | w :: _ => windowFail addr (8 * w) 0x11 r.1

/-- The parts of a window read that have a response of their own, as (address, length): in the CXL modes each line of 64 bytes
(R375). -/
def windowParts (s : State) (addr len : Nat) : List (Nat × Nat) :=
  if !linkCxl s then [(addr, len)]
  else
    let first := addr / 64
    (List.range ((addr + len + 63) / 64 - first)).map (fun i =>
      let lo := max addr (64 * (first + i))
      (lo, min (addr + len) (64 * (first + i) + 64) - lo))

/-- A window read is served, part by part (R372, R375). -/
def windowServe (recs : List (List Word)) (addr len : Nat) (s : State) : State :=
  (windowParts s addr len).foldl (fun s p => windowPart recs p.1 p.2 s) s

/-- A window read is answered as failed, part by part (R374, R375). -/
def windowRefuse (cause addr len : Nat) (s : State) : State :=
  (windowParts s addr len).foldl (fun s p => windowFail p.1 p.1 cause s) s

/-- Whether bytes lie in the state window (R372). -/
def inStateWindow (s : State) (a n : Nat) : Bool :=
  let hit := fun base size => decide (a < base + size ∧ base < a + n)
  hit (ff s F.SEAM_STATE_BASE) (ff s F.SEAM_STATE_SIZE_BYTES) || hit (ff s F.SEAM_EFB_BASE) (ff s F.SEAM_EFB_SIZE_BYTES)

/-- A hold of window reads ends, in whatever way: its duration is reported (R46). -/
def endHold (s : State) : State :=
  if !s.winHold then s
  else
    let ns := (nowNs s - s.holdSince) % 2 ^ 32
    put F.STEPSTAT_HOLD_NS_MAX (max ns (rf s F.STEPSTAT_HOLD_NS_MAX)) (put F.STEPSTAT_HOLD_NS_LAST ns { s with winHold := false })

/-- Held reads are released (R41 step 4): each returns the state that the update with these records has left (R43). -/
def releaseReads (recs : List (List Word)) (s : State) : State :=
  s.heldReads.foldl (fun s r => windowServe recs r.1 r.2 s) { endHold s with heldReads := [] }

/-- Held reads are answered as failed (R374). -/
def failReads (cause : Nat) (s : State) : State :=
  s.heldReads.foldl (fun s r => windowRefuse cause r.1 r.2 s) { endHold s with heldReads := [] }

/-! ### Outcomes -/

/-- The outcome known for a step and epoch: that of a live record, else the newest recorded; 0 for none (R35, R38). -/
def outcomeOf (s : State) (n e : Nat) : Nat :=
  match s.steps.find? (fun r => r.num == n && r.epoch == e) with
  | some r => match r.st with
    | .hemming => 1
    | .discarding | .stopped => 2
    | _ => 0
  | none => match s.outcomes.find? (fun o => o.1 == n && o.2.1 == e) with
    | some o => o.2.2
    | none => 0

/-- The job epoch of a hemmed step, 0 when none is recorded. -/
def epochOf (s : State) (n : Nat) : Nat :=
  match s.hemRecs.find? (fun h => h.num == n) with
  | some h => h.epoch
  | none => 0

/-! ### Packets (R348) -/

/-- A packet of a stream: its sub-kind, step and position. -/
def streamPkt (dst typ sub step pos : Nat) (payload : List Byte) (s : State) : State :=
  inject dst 3 typ 0 (sub + pos / 2 ^ 35 % 16 * 16 + step % 2 ^ 24 * 256) (pos % 2 ^ 35 / 8) payload 0 s

/-- BEGIN. -/
def sendBegin (dst typ step epoch groups bytes efb : Nat) (s : State) : State :=
  streamPkt dst typ 1 step 0 (leBytes step 8 ++ leBytes (epoch + groups * 2 ^ 32) 8 ++ leBytes bytes 8 ++ leBytes efb 8) s

/-- Group records, 31 to a packet. -/
def sendGroups (dst typ step : Nat) (recs : List (List Word)) (s : State) : State :=
  (List.range ((recs.length + 30) / 31)).foldl (fun s i =>
    streamPkt dst typ 2 step (31 * 128 * i) (((recs.drop (31 * i)).take 31).flatMap (fun r => wordBytes (r.take 16))) s) s

/-- DATA, at most 4,072 bytes to a packet. -/
def sendData (dst typ step pos : Nat) (bs : List Byte) (s : State) : State :=
  (List.range ((bs.length + 4071) / 4072)).foldl (fun s i =>
    streamPkt dst typ 3 step (pos + 4072 * i) ((bs.drop (4072 * i)).take 4072) s) s

/-- END. -/
def sendEnd (dst typ step total : Nat) (s : State) : State := streamPkt dst typ 5 step 0 (leBytes total 8) s

/-- ACK: 1 APPLIED, 2 DROPPED, 3 TORN. -/
def sendAck (dst typ step status : Nat) (s : State) : State :=
  streamPkt dst typ 6 step 0 (leBytes step 8 ++ leBytes status 8) s

/-! ### The mirror held here -/

/-- MIRROR_LOST (R95), naming a peer. -/
def mirrorLost (peer step : Nat) (s : State) : State :=
  postNotice (stepCtx s) (ofHemmed s step { kind := 0x15, detail := peer % 2 ^ 15 }) s

/-- The mirror becomes TORN: counted, reported, and ACK TORN to the owner (R351). -/
def mirrorTorn (step : Nat) (s : State) : State :=
  let own := ff s F.SEAM_PEER_MIRROR_OF
  let s := bump F.SEAM_TORN 1 (put F.SEAM_MSTAT_STATE 4 s)
  sendAck own 10 step 3 (mirrorLost own step s)

/-! ### The own state (R238) -/

/-- The own update or the Seam send has met an uncorrectable word (R238): notice, no later verdict, own state INVALID, held
reads failed. -/
def ownBroken (w : Nat) (s : State) : State :=
  let s := checkError (stepCtx s) 2 0x11 (pathOf s (8 * w)) (8 * w) s
  failReads 0x11 (put F.SEAM_OSTAT_OWN 2 { s with ownBad := true })

/-- MIRROR_CURRENT is recorded for a step (R41, R356). -/
def mirrorCurrent (n : Nat) (s : State) : State :=
  postNotice (stepCtx s) (ofHemmed s n { kind := 0x16 }) (put F.SEAM_OSTAT_MC_STEP n { s with mcValid := true })

/-! ### Image transfers: the sending side (R352, R354, R520) -/

/-- The bytes of an image that a transfer omits: those of each W8 and of its scales (R352). -/
def omitted (recs : List (List Word)) (off : Nat) : Bool :=
  recs.any (fun r =>
    let g := groupOf r
    let bl := match fmtOfCode g.w8fmt with | some f => fmtBlocked f | none => false
    within g.w8Off g.count off 1 || (bl && within g.w8sOff (g.count / 32) off 1))

/-- Whether a transfer leaves out the word of a byte: a position in a packet is a multiple of 8, so that a word is left out only
when all of it is omitted (R348, R352; DEDUCED, log 139). -/
def skipped (recs : List (List Word)) (off : Nat) : Bool := (List.range 8).all (fun i => omitted recs (8 * (off / 8) + i))

/-- Runs of offsets of a granule that are sent, as (offset, length), given which are omitted. -/
def runsOf (skip : Nat → Bool) (start : Nat) : Nat → List (Nat × Nat)
  | 0 => []
  | n + 1 =>
    let rs := runsOf skip start n
    let o := start + n
    if skip o then rs
    else match rs.getLast? with
      | some r => if r.1 + r.2 = o then rs.dropLast ++ [(r.1, r.2 + 1)] else rs ++ [(o, 1)]
      | none => [(o, 1)]

/-- The device address of a byte of the image a transfer sends: own ranges, the mirror, or a held slot. -/
def xferAddr (s : State) (x : Xfer) (off : Nat) : Nat :=
  let slot := 516 * 1024 + (ff s F.SEAM_MIRROR_SIZE_BYTES + 2047) / 2048 * 2048
  match x.kind with
  | 1 => ownAddr s off
  | 2 => mirrorAddr s off
  | _ => ff s F.SEAM_HOLD_BASE + x.slot * slot + 516 * 1024 + off

/-- The size of the image a transfer sends. -/
def xferSize (s : State) (x : Xfer) : Nat := if x.kind = 1 then imageSize s else ff s F.SEAM_MIRROR_SIZE_BYTES

/-- The group table a transfer sends: that of the own state, of the mirror, or the one in the slot. -/
def xferGroups (s : State) (x : Xfer) : List (List Word) :=
  match x.kind with
  | 1 => x.recs
  | 2 => s.mirrorGroups
  | _ =>
    let base := xferAddr s x 0 - 516 * 1024
    let n := bitsOf (memNat s (base + 56) 8) 0 16
    (List.range n).map (fun i => bytesWords 16 (memRead s (base + 4096 + 128 * i) 128))

/-- A transfer of a slot held here, as far as its addresses go. -/
def slotXfer (slot : Nat) : Xfer := ⟨3, slot, none, false, 0, []⟩

/-- The error-feedback bytes of the image a transfer sends (R348): those of the own image, of the mirror as its FILL gave them, or of
the slot's commit record. -/
def xferEfb (s : State) (x : Xfer) : Nat :=
  match x.kind with
  | 1 => ff s F.SEAM_EFB_SIZE_BYTES
  | 2 => s.mirrorEfb
  | _ => bitsOf (memNat s (xferAddr s x 0 - 516 * 1024 + 48) 8) 0 48

/-- The target of a transfer (R352). -/
def xferTarget (s : State) (x : Xfer) : Nat :=
  if x.kind = 1 then ff s F.SEAM_PEER_PARTNER else ff s F.SEAM_PEER_MIRROR_OF

/-- A transfer ends at its source with a result (R352). -/
def endXfer (result : Nat) (s : State) : State :=
  put F.SEAM_XFER_RESULT result (put F.SEAM_XFER_BUSY 0 { s with xfer := none })

/-- One granule of an image is sent; an odd granule goes to the relay when there is one (R354). -/
def sendGranule (x : Xfer) (skip : Nat → Bool) (g : Nat) (s : State) : State :=
  let dst := match x.relay with
    | some r => if g % 2 = 1 then r else xferTarget s x
    | none => xferTarget s x
  (runsOf skip (2048 * g) 2048).foldl (fun s r =>
    streamPkt dst 12 3 x.step r.1 (memRead s (xferAddr s x r.1) r.2) s) s

/-- What a transfer reads besides the image: a slot's commit record and group table. -/
def xferTable (s : State) (x : Xfer) : List (Nat × Nat) :=
  if x.kind = 3 then byteRun (xferAddr s x 0 - 516 * 1024) (4096 + 128 * (xferGroups s x).length) else []

/-- The image that a transfer reads, as runs of bits. -/
def xferImage (s : State) (x : Xfer) : List (Nat × Nat) :=
  let size := xferSize s x
  let m := min size (ff s F.SEAM_STATE_SIZE_BYTES)
  if x.kind = 1 then byteRun (xferAddr s x 0) m ++ byteRun (xferAddr s x m) (size - m) else byteRun (xferAddr s x 0) size

/-- A transfer stops at its source on an uncorrectable word, which is not sent: result 3 and a notice (R236, R237, R352; DEDUCED, log
28). -/
def xferStop (w : Nat) (s : State) : State := endXfer 3 (checkError (stepCtx s) 0 0x11 (pathOf s (8 * w)) (8 * w) s)

/-- BEGIN, group table, image in increasing offset order, END (R352), from checked words (R232). -/
def sendImage (x : Xfer) (s : State) : State :=
  let size := xferSize s x
  let dst := xferTarget s x
  let recs := xferGroups s x
  let skip := fun o => x.kind != 3 && skipped recs o
  let r := if s.syn = [] then (s, []) else
    checkWords (fun w => (List.range size).any (fun o => !skip o && xferAddr s x o / 8 == w)) s
  let efb := xferEfb r.1 x
  let s := sendGroups dst 12 x.step recs
    (sendBegin dst 12 x.step (epochOf r.1 x.step) recs.length (size - efb) efb r.1)
  match r.2 with
  | w :: _ => xferStop w s
  | [] =>
    let total := ((List.range size).filter (fun o => !skip o)).length + 128 * recs.length
    let s := (List.range (size / 2048)).foldl (fun s g => sendGranule x skip g s) s
    bump F.SEAM_XFER_BYTES total (sendEnd dst 12 x.step total { s with xfer := some { x with waiting := false } })

/-- A transfer begins, when the controllers take its reads (R220, R224): the table of a slot is checked before any of it is sent
(R232, R236). -/
def beginXfer (x : Xfer) (s : State) : State :=
  let table := xferTable s x
  let fs := table ++ xferImage s x
  if accessHeld s .restore fs then { s with xfer := some { x with waiting := true } }
  else
    let t := checkWords (fun w => table.any (fun g => inRange (g.1 / 8) (g.2 / 8) w)) (access .restore false false fs s)
    match t.2 with
    | w :: _ => xferStop w t.1
    | [] => sendImage x t.1

/-- An image transfer of kind FILL runs, so that an own update waits (R520). -/
def fillRuns (s : State) : Bool :=
  match s.xfer with | some x => x.kind == 1 && !x.waiting | none => false

/-- The step of the image a transfer sends: the last hemmed step, the mirror's, or the slot's. -/
def xferStep (s : State) (kind slot : Nat) : Nat :=
  match kind with
  | 1 => rf s F.STEPSTAT_LAST_HEM_STEP
  | 2 => rf s F.SEAM_MSTAT_STEP
  | _ => bitsOf (memNat s (xferAddr s (slotXfer slot) 0 - 516 * 1024 + 8) 8) 0 48

/-- A transfer is accepted: it begins now, or after the own update in progress (R520). -/
def acceptXfer (kind slot : Nat) (relay : Option Nat) (s : State) : State :=
  let x : Xfer := ⟨kind, slot, relay, kind = 1 ∧ s.upds ≠ [], xferStep s kind slot, s.groups⟩
  let s := put F.SEAM_XFER_BUSY 1 { s with xfer := some x }
  if x.waiting then s else beginXfer x s

/-- The device starts a FILL of its own accord (R351, R365): when it has a partner and valid state, and no transfer runs (DESIGN
CHOICE, log 98). -/
def autoFill (s : State) : State :=
  if s.xfer.isSome ∨ ff s F.SEAM_PEER_PARTNER_VALID = 0 ∨ rf s F.SEAM_OSTAT_OWN ≠ 0 then s
  else acceptXfer 1 0 none s

/-- A valid commit record (R362): MAGIC and CRC. -/
def recordValid (ws : List Word) : Bool :=
  (ws.getD 0 0).toNat == 0x4D425A434B505431 && (ws.getD 31 0).toNat == crc64 (wordBytes (ws.take 31))

/-- The address of the commit record of a slot held here. -/
def recordAddr (s : State) (slot : Nat) : Nat := xferAddr s (slotXfer slot) 0 - 516 * 1024

/-- The commit record of a slot held here; none of it where a word cannot be corrected (R236, R237). -/
def heldRecord (s : State) (slot : Nat) : List Word :=
  let a := recordAddr s slot
  if s.syn.any (fun e => inRange a 256 e.1 && tackClassify e.2 == .uncorrectable) then []
  else bytesWords 32 (memRead s a 256)

/-- The commit record of a slot is read and checked (R232). A word that cannot be corrected is counted and reported, and the slot has
no valid record (DEDUCED, log 28). -/
def readRecord (slot : Nat) (s : State) : State × List Word :=
  let r := readRange .restore (recordAddr s slot) 256 s
  (r.2.foldl (fun s w => checkError (stepCtx s) 0 0x11 (pathOf s (8 * w)) (8 * w) s) r.1, heldRecord r.1 slot)

/-- Whether the records of the slots held here cannot be read now (R220, R224). -/
def recordsHeld (s : State) : Bool := accessHeld s .restore (byteRun (recordAddr s 0) 256 ++ byteRun (recordAddr s 1) 256)

/-- Whether a transfer of a kind can be sent: none runs, and what it sends is there (R520). -/
def xferReady (s : State) (kind slot : Nat) : Bool :=
  rf s F.SEAM_XFER_BUSY == 0 &&
    (match kind with
     | 1 => ff s F.SEAM_PEER_PARTNER_VALID == 1 && rf s F.SEAM_OSTAT_OWN == 0
     | 2 => ff s F.SEAM_PEER_MIRROR_OF_VALID == 1 && rf s F.SEAM_MSTAT_STATE == 2
     | 3 => ff s F.SEAM_PEER_MIRROR_OF_VALID == 1 && recordValid (heldRecord s slot)
     | _ => false)

/-- Whether a write of XFER.START may start a transfer (R520). -/
def xferAllowed (s : State) (kind slot : Nat) : Bool := xferReady s kind slot && !s.restore.running

/-- A write of 1 to SEAM.XFER.START, with the fields of XFER as they stand after the write (R520); RESULT is cleared (DEDUCED, log
146). A write that needs the record of a slot waits while that cannot be read (DESIGN CHOICE, log 112). -/
def startXfer (src : Source) (s : State) : State :=
  let kind := rf s F.SEAM_XFER_KIND
  let slot := rf s F.SEAM_XFER_SLOT
  let held := kind = 3 ∧ recordsHeld s
  let s := if kind = 3 ∧ ¬ held then (readRecord slot s).1 else s
  if held then s
  else if xferAllowed s kind slot then
    acceptXfer kind slot (if rf s F.SEAM_XFER_RELAY_VALID = 1 then some (rf s F.SEAM_XFER_RELAY_ID) else none)
      (put F.SEAM_XFER_RESULT 0 s)
  else setupRefused src R.SEAM_XFER s

/-- The XFER fields a host writes with START (R352). -/
def setXfer (kind slot : Nat) (relay : Option (BitVec 14)) (s : State) : State :=
  let s := put F.SEAM_XFER_SLOT slot (put F.SEAM_XFER_KIND kind s)
  match relay with
  | some r => put F.SEAM_XFER_RELAY_VALID 1 (put F.SEAM_XFER_RELAY_ID r.toNat s)
  | none => put F.SEAM_XFER_RELAY_VALID 0 s

/-- FILL (R352, R520). -/
def execFill (relay : Option (BitVec 14)) (s : State) : Host.Outcome State Fault Refusal :=
  .next (byHost R.SEAM_XFER (fun s => unlessRefused R.SEAM_XFER s (startXfer .host (setXfer 1 0 relay s))) s)
/-- LOAD (R352, R520). -/
def execLoad (relay : Option (BitVec 14)) (s : State) : Host.Outcome State Fault Refusal :=
  .next (byHost R.SEAM_XFER (fun s => unlessRefused R.SEAM_XFER s (startXfer .host (setXfer 2 0 relay s))) s)
/-- SLOT (R352, R520). -/
def execSlot (slot : BitVec 1) (relay : Option (BitVec 14)) (s : State) : Host.Outcome State Fault Refusal :=
  .next (byHost R.SEAM_XFER (fun s => unlessRefused R.SEAM_XFER s (startXfer .host (setXfer 3 slot.toNat relay s))) s)

/-! ### The Seam send (R41, R349) -/

/-- The gradient ranges of a step's groups, in table order. -/
def gradRanges (recs : List (List Word)) : List (Nat × Nat) :=
  recs.map (fun r => ((r.getD 16 0).toNat, 2 * (groupOf r).count))

/-- The error-feedback pieces of a step: a write slot in packets of at most 4,064 bytes with their offset (log 29). -/
def efbPieces (efb : List (Nat × Nat)) : List (Nat × Nat) :=
  efb.flatMap (fun e => (List.range ((e.2 + 4063) / 4064)).map (fun i => (e.1 + 4064 * i, min 4064 (e.2 - 4064 * i))))

/-- Bytes before the first uncorrectable word in a list of ranges. -/
def cleanPrefix (bad : List Nat) : List (Nat × Nat) → Nat
  | [] => 0
  | r :: rs =>
    let m := bad.foldl (fun a w => if inRange r.1 r.2 w then min a (8 * w - r.1) else a) r.2
    if m < r.2 then m else r.2 + cleanPrefix bad rs

/-- What the Seam send of a hemmed step reads: the gradients of its groups, and the error-feedback pieces (R349). -/
def sendReads (u : UpdateRec) (s : State) : List (Nat × Nat) :=
  gradRanges u.records ++ (efbPieces u.efb).map (fun e => (ownAddr s e.1, e.2))

/-- Whether the Seam send waits at the controllers (R220). -/
def sendHeld (u : UpdateRec) (s : State) : Bool :=
  ff s F.SEAM_PEER_PARTNER_VALID == 1 && accessHeld s .seamSend ((sendReads u s).map (fun g => (8 * g.1, 8 * g.2)))

/-- The Seam send of a hemmed step (R349), with its total in END (DESIGN CHOICE, log 143); it stops before an uncorrectable word,
without END, and the own update with it (R238). -/
def seamSend (u : UpdateRec) (s : State) : State :=
  if ff s F.SEAM_PEER_PARTNER_VALID = 0 then s
  else
    let dst := ff s F.SEAM_PEER_PARTNER
    let gr := gradRanges u.records
    let ep := efbPieces u.efb
    let er := ep.map (fun e => (ownAddr s e.1, e.2))
    let r := checkWords (fun w => (sendReads u s).any (fun g => inRange g.1 g.2 w))
      (access .seamSend false false ((sendReads u s).map (fun g => (8 * g.1, 8 * g.2))) s)
    let bytes := gr.flatMap (fun g => memRead r.1 g.1 g.2)
    let efb := ep.foldl (fun a e => a + e.2) 0
    let table := 128 * u.records.length
    let total := table + bytes.length + efb
    let s := sendGroups dst 10 u.step u.records
      (sendBegin dst 10 u.step u.epoch u.records.length bytes.length efb r.1)
    let s := { s with seamTx := s.seamTx ++ [u.step] }
    let efbOut := fun n (s : State) => (ep.take n).foldl (fun s e =>
      streamPkt dst 10 4 u.step 0 (leBytes e.1 8 ++ memRead s (ownAddr s e.1) e.2) s) s
    match r.2 with
    | [] =>
      let s := efbOut ep.length (sendData dst 10 u.step 0 bytes s)
      bump F.SEAM_SEND_BYTES total (sendEnd dst 10 u.step total s)
    | w :: _ =>
      let g := cleanPrefix r.2 gr
      let s := sendData dst 10 u.step 0 (bytes.take g) s
      let k := (er.takeWhile (fun e => !r.2.any (fun w => inRange e.1 e.2 w))).length
      let sent := table + g + (if g < bytes.length then 0 else (ep.take k).foldl (fun a e => a + e.2) 0)
      ownBroken w (bump F.SEAM_SEND_BYTES sent (if g < bytes.length then s else efbOut k s))

/-- The oldest own update begins with its Seam send when nothing holds it back; the ns for which a press copy or a FILL held it back
are counted (R41, R359, R520; DESIGN CHOICE for the clock, log 145). -/
def kickUpdate (s : State) : State :=
  match s.upds with
  | [] => s
  | u :: us =>
    let u := if u.begun || !(fillRuns s || pressRuns s) then u else { u with waitFrom := some (u.waitFrom.getD (nowNs s)) }
    if fillRuns s || !s.memUp then { s with upds := u :: us }
    else
      let go := !u.sent && !sendHeld u s
      let s1 := if go then seamSend u s else s
      let u := { u with sent := u.sent || go }
      if u.begun || pressRuns s then { s1 with upds := u :: us }
      else
        let wait := match u.waitFrom with | some t => nowNs s - t | none => 0
        bump F.SEAM_PRESS_WAIT_NS wait { s1 with upds := { u with begun := true, waitFrom := none } :: us }

/-- What waits behind an own update that is complete: a FILL that waited for it begins, with the image that this update has left, or
else the next update (R520). -/
def afterUpdate (u : UpdateRec) (s : State) : State :=
  match s.xfer with
  | some x =>
    if x.waiting ∧ x.kind = 1 then
      let t := beginXfer { x with step := u.step, recs := u.records } s
      if fillRuns t then t else kickUpdate t
    else kickUpdate s
  | none => kickUpdate s

/-- What waited at the controllers is taken up: a transfer, and the Seam send of an own update (R220). -/
def kickHeld (s : State) : State :=
  kickUpdate (match s.xfer with
    | some x => if x.waiting ∧ (x.kind ≠ 1 ∨ s.upds = []) then beginXfer x s else s
    | none => s)

/-- A transfer's end at the source, and what waited for it. -/
def sourceDone (result : Nat) (s : State) : State := kickUpdate (endXfer result s)

/-! ### The Seam stream at the holder (R350, R351) -/

/-- Gradient bytes at a stream position are applied to the mirror (R350): elements of each group in turn. Answers whether a
word was met that cannot be read or merged. -/
def applyGrad (recs : List (List Word)) (pos : Nat) (bs : List Byte) (s : State) : State × Bool :=
  let img := mirrorAddr s
  let starts := (List.range recs.length).map (fun i =>
    ((gradRanges (recs.take i)).foldl (fun a g => a + g.2) 0, recs.getD i []))
  starts.foldl (fun p e =>
    let g := groupOf e.2
    let lo := max pos e.1
    let hi := min (pos + bs.length) (e.1 + 2 * g.count)
    if hi ≤ lo ∨ p.2 then p
    else
      let st := (lo - e.1) / 2
      let n := (hi - lo) / 2
      let r := checkWords (stateWords img g st n) (access .mirror true false (blockReads img g st n) p.1)
      if r.2 ≠ [] then (r.1, true)
      else
        let grad := fun i => fpDecode .bf16 (leNat ((bs.drop (e.1 + 2 * i - pos)).take 2))
        let w := updateElems img g grad st n (access .mirror true true (blockWrites img g st n) r.1)
        (w.1, w.2 != [])) (s, false)

/-- A packet of a Seam stream is consumed by the holder. -/
def seamConsume (pkt : StreamPkt) (s : State) : State :=
  match pkt, s.seamRx with
  | .opening n e g b f, _ =>
    let n := n.toNat
    let own := ff s F.SEAM_PEER_MIRROR_OF
    let rx : SeamRx := ⟨n, e.toNat, g.toNat, [], b.toNat, f.toNat, 0, false, true⟩
    if outcomeOf s n e.toNat = 2 then sendAck own 10 n 2 { s with seamRx := some rx }
    else if rf s F.SEAM_MSTAT_STATE = 2 ∧ rf s F.SEAM_MSTAT_STEP + 1 = n then
      put F.SEAM_MSTAT_STATE 3 { s with seamRx := some { rx with dropping := false } }
    else mirrorTorn n { s with seamRx := some rx }
  | _, none => bump F.SEAM_XFER_DROP 1 s
  | .group rs, some rx => { s with seamRx := some { rx with recs := rx.recs ++ rs } }
  | .data pos bs, some rx =>
    let rx := { rx with got := rx.got + bs.length }
    if rx.dropping then { s with seamRx := some rx }
    else
      let r := applyGrad rx.recs pos.toNat bs s
      let s := bump F.SEAM_MIRROR_BYTES bs.length { r.1 with seamRx := some { rx with dropping := r.2 } }
      if r.2 then mirrorTorn rx.step s else s
  | .efb off bs, some rx =>
    let rx := { rx with got := rx.got + bs.length }
    if rx.dropping then { s with seamRx := some rx }
    else
      let w := writeRange .mirror (mirrorAddr s off.toNat) bs s
      let s := bump F.SEAM_MIRROR_BYTES bs.length { w.1 with seamRx := some { rx with dropping := w.2 != [] } }
      if w.2 ≠ [] then mirrorTorn rx.step s else s
  | .closing n, some rx =>
    { s with seamRx := if rx.dropping then none
        else some { rx with ended := rx.got + 128 * rx.recs.length == n.toNat } }
  | .ack _ _, _ => s
  | .record _, _ => s

/-- Whether the mirror can be written now: no thermal trip waits for a fence, and regulator MIRROR issues (R220, R224). -/
def mirrorHeld (s : State) : Bool := accessHeld s .mirror (byteRun (ff s F.SEAM_MIRROR_BASE) (ff s F.SEAM_MIRROR_SIZE_BYTES))

/-- Whether the device may begin to consume a packet of a stream: it has an outcome for the step and epoch of a BEGIN, and data
can be written (R44, R351). -/
def seamReady (s : State) : StreamPkt → Bool
  | .opening n e _ _ _ => outcomeOf s n.toNat e.toNat != 0
  | .data _ _ => !mirrorHeld s
  | .efb _ _ => !mirrorHeld s
  | _ => true

/-- Waiting SEAM packets are consumed in order, up to a BEGIN that must still wait; each then leaves the receive buffer (R351). -/
def drainSeam : Nat → State → State
  | 0, s => s
  | k + 1, s =>
    match s.seamWait with
    | [] => s
    | p :: ps =>
      if seamReady s p.2 then drainSeam k (freeSeam 0 (seamConsume p.2 { s with seamWait := ps })) else s

/-- A SEAM packet of a stream arrives (R348, R351): dropped and counted where its cells failed the check after the port (R237), and
unless it comes from MIRROR_OF; then consumed, or kept waiting. -/
def seamIn (src : Nat) (bad : Bool) (pkt : StreamPkt) (s : State) : State :=
  if bad && consumerUp s 10 then
    endpointDrop pathDevice (if fromOwner s src && s.seamWait.length < s.seamHeld.length then skipSeam s else s)
  else if !consumerUp s 10 then (if fromOwner s src && s.seamWait.length < s.seamHeld.length then skipSeam (bump F.ROUTE_LOCAL_DROP 1 s) else s)
  else if !fromOwner s src then bump F.SEAM_XFER_DROP 1 s
  else drainSeam (s.seamWait.length + 1) { s with seamWait := s.seamWait ++ [(src, pkt)] }

/-- SEAM_BEGIN (R348, R350, R351). -/
def execSeamBegin (src : BitVec 14) (bad : Bool) (step : BitVec 48) (epoch : BitVec 32) (groups : BitVec 16) (bytes efb : BitVec 48)
    (s : State) : Host.Outcome State Fault Refusal :=
  .next (seamIn src.toNat bad (.opening step epoch groups bytes efb) s)
/-- SEAM_GROUP (R348, R349). -/
def execSeamGroup (src : BitVec 14) (bad : Bool) (records : List (List Word)) (s : State) : Host.Outcome State Fault Refusal :=
  .next (seamIn src.toNat bad (.group records) s)
/-- SEAM_DATA (R348, R350). -/
def execSeamData (src : BitVec 14) (bad : Bool) (pos : BitVec 48) (bytes : List Byte) (s : State) :
    Host.Outcome State Fault Refusal := .next (seamIn src.toNat bad (.data pos bytes) s)
/-- SEAM_EFB (R348, R350). -/
def execSeamEfb (src : BitVec 14) (bad : Bool) (off : BitVec 48) (bytes : List Byte) (s : State) :
    Host.Outcome State Fault Refusal := .next (seamIn src.toNat bad (.efb off bytes) s)
/-- SEAM_END (R348, R350). -/
def execSeamEnd (src : BitVec 14) (bad : Bool) (total : BitVec 64) (s : State) : Host.Outcome State Fault Refusal :=
  .next (seamIn src.toNat bad (.closing total) s)

/-- SEAM_STREAM_RELEASE (R351): waiting packets are consumed once the outcome is recorded. -/
def execSeamStreamRelease (s : State) : Host.Outcome State Fault Refusal :=
  if consumerUp s 10 then .next (drainSeam s.seamWait.length s) else .next s

/-- MIRROR_UPDATE_COMPLETE (R350): every write is made, so the mirror is CURRENT and ACK APPLIED is sent. -/
def execMirrorUpdateComplete (s : State) : Host.Outcome State Fault Refusal :=
  match s.seamRx with
  | none => .next s
  | some rx =>
    if rx.ended && !rx.dropping && consumerUp s 10 then
      .next (sendAck (ff s F.SEAM_PEER_MIRROR_OF) 10 rx.step 1
        (put F.SEAM_MSTAT_STEP rx.step (put F.SEAM_MSTAT_STATE 2
          { s with seamRx := none, mirrorGroups := rx.recs.map (·.take 16) })))
    else .next s

/-- The incoming transfer of a kind: a FILL, or a LOAD or SLOT; one of each may come in at once (R352). -/
def loadOf (s : State) (kind : Nat) : Option LoadRx := if kind = 1 then s.fillRx else s.loadRx

/-- It is replaced. -/
def setLoad (kind : Nat) (l : Option LoadRx) (s : State) : State :=
  if kind = 1 then { s with fillRx := l } else { s with loadRx := l }

/-- What an incoming transfer that does not complete leaves: a mirror that is TORN, or own state that is INVALID (R352, R355). -/
def loadBroken (l : LoadRx) (s : State) : State :=
  if l.kind = 1 then bump F.SEAM_TORN 1 (put F.SEAM_MSTAT_STATE 4 s) else put F.SEAM_OSTAT_OWN 2 s

/-- SEAM_STREAM_TIMEOUT (R351): a stream that is being consumed has stopped. The same timer ends an image transfer at
either end: result 4 at the source, and the target left as by any transfer that does not complete (R355), a LOAD or SLOT before a FILL
(DEDUCED, log 99). -/
def execSeamStreamTimeout (s : State) : Host.Outcome State Fault Refusal :=
  match s.seamRx with
  | some rx =>
    if rx.ended then .next s
    else if rx.dropping then .next { s with seamRx := none }
    else .next (mirrorTorn rx.step { s with seamRx := none })
  | none => match s.loadRx, s.fillRx with
    | some l, _ | none, some l => .next (setLoad l.kind none (loadBroken l s))
    | none, none => match s.xfer with
      | some x => if x.waiting then .next s else .next (sourceDone 4 s)
      | none => .next s

/-- The owner learns what became of a Seam stream (R41 step 5, R351). -/
def seamAck (step status : Nat) (s : State) : State :=
  if !s.seamTx.contains step then s
  else
    let s := { s with seamTx := s.seamTx.filter (· != step) }
    match status with
    | 1 => mirrorCurrent step s
    | 2 => mirrorLost (ff s F.SEAM_PEER_PARTNER) step s
    | 3 => autoFill s
    | _ => s

/-- The holder no longer answers for an owner's streams: an ACK from another peer is dropped and counted (R348). -/
def seamAckIn (after : State → State) (src step status : Nat) (s : State) : State :=
  if fromPartner s src then after (seamAck step status s)
  else if fromOwner s src then s
  else bump F.SEAM_XFER_DROP 1 s

/-! ### Image transfers: the receiving side (R352, R355) -/

/-- The device address of a byte of the image a transfer fills. -/
def loadAddr (s : State) (l : LoadRx) (off : Nat) : Nat := if l.kind = 1 then mirrorAddr s off else ownAddr s off

/-- An incoming transfer stops on an uncorrectable word (R352): ACK TORN, mirror TORN or own state INVALID. -/
def loadTorn (l : LoadRx) (s : State) : State :=
  sendAck l.src 12 l.step 3 (loadBroken l (setLoad l.kind none s))

/-- Whether a transfer of a kind from a peer is accepted (R352) (DEDUCED, log 108). -/
def loadAllowed (s : State) (src kind : Nat) : Bool :=
  if kind = 1 then fromOwner s src
  else (kind == 2 || kind == 3) && fromPartner s src && rf s F.SEAM_ACCEPT_OWN == 1 && s.steps == []

/-- A restoring device asks for a SLOT transfer, with the slot's number plus 1, or with 0 ends the one that runs as though
its target had been lost (R365, R366). The form of the request is the model's: a RECORD packet among LOAD packets (DESIGN
CHOICE, log 32). -/
def slotRequest (src w : Nat) (s : State) : State :=
  if !fromOwner s src then bump F.SEAM_XFER_DROP 1 s
  else if w = 0 then
    match s.xfer with
    | some x => if x.kind = 3 then sourceDone 2 s else s
    | none => s
  else
    let s := (readRecord (w - 1) s).1
    if xferReady s 3 (w - 1) then acceptXfer 3 (w - 1) none s else bump F.SEAM_XFER_DROP 1 s

/-- A LOAD packet arrives (R352). The kind of a transfer does not stand in its packets; the command gives it (log 30). Image bytes
may come from a relay, which the target does not know by name (R354; DEDUCED, log 139). -/
def loadIn (src kind : Nat) (pkt : StreamPkt) (s : State) : State :=
  match pkt, loadOf s kind with
  | .ack step status, _ =>
    match s.xfer with
    | none => s
    | some x =>
      if src ≠ xferTarget s x ∨ step.toNat ≠ x.step then bump F.SEAM_XFER_DROP 1 s
      else match status.toNat with
        | 1 =>
          let s1 := if x.kind = 1 then mirrorCurrent x.step s else s
          sourceDone 1 s1
        | 2 => sourceDone 5 s
        | 3 => sourceDone 3 s
        | _ => s
  | .opening n e g b f, none =>
    let size := if kind = 1 then ff s F.SEAM_MIRROR_SIZE_BYTES else imageSize s
    if !loadAllowed s src kind then bump F.SEAM_XFER_DROP 1 s
    else if b.toNat + f.toNat ≠ size then
      sendAck src 12 n.toNat 2 (bump F.SEAM_XFER_DROP 1 s)
    else
      let l : LoadRx := ⟨kind, src, n.toNat, e.toNat, g.toNat, [], size, f.toNat, 0, false, 0, []⟩
      let s := setLoad kind (some l) s
      if kind = 1 then put F.SEAM_MSTAT_STATE 1 s else put F.SEAM_OSTAT_OWN 1 { s with pushed := [] }
  | .opening _ _ _ _ _, some _ => bump F.SEAM_XFER_DROP 1 s
  | .efb _ _, _ => bump F.SEAM_XFER_DROP 1 s
  | .record ws, _ => slotRequest src (ws.headD 0).toNat s
  | _, none => bump F.SEAM_XFER_DROP 1 s
  | .group rs, some l =>
    if src ≠ l.src ∨ !loadAllowed s src l.kind then bump F.SEAM_XFER_DROP 1 s
    else bump F.SEAM_XFER_BYTES (128 * rs.length) (setLoad kind (some { l with recs := l.recs ++ rs }) s)
  | .data pos bs, some l =>
    if l.total < pos.toNat + bs.length ∨ !loadAllowed s l.src l.kind then bump F.SEAM_XFER_DROP 1 s
    else
      let sz := ff s F.SEAM_STATE_SIZE_BYTES
      let m := if l.kind = 1 ∨ sz ≤ pos.toNat then bs.length else min bs.length (sz - pos.toNat)
      let w := writeRange .restore (loadAddr s l pos.toNat) (bs.take m) s
      let w2 := writeRange .restore (loadAddr s l (pos.toNat + m)) (bs.drop m) w.1
      let s := bump F.SEAM_XFER_BYTES bs.length w2.1
      if w.2 ++ w2.2 ≠ [] then loadTorn l s
      else setLoad kind (some { l with got := l.got + bs.length,
                                       chunks := if l.kind = 3 then l.chunks ++ [(pos.toNat, bs)] else l.chunks }) s
  | .closing n, some l =>
    if src ≠ l.src ∨ !loadAllowed s src l.kind then bump F.SEAM_XFER_DROP 1 s
    else setLoad kind (some { l with ended := true, sum := n.toNat }) s

/-- Whether everything an incoming transfer sends has come: END, and as many bytes as it says (DESIGN CHOICE, log 143); those of a
relay may come after it (R352, R354). -/
def loadWhole (l : LoadRx) : Bool := l.ended && l.got + 128 * l.recs.length == l.sum

/-- Whether own state cannot be reached by a restore now (R220, R224). -/
def ownHeld (s : State) : Bool :=
  accessHeld s .restore (byteRun (ff s F.SEAM_STATE_BASE) (ff s F.SEAM_STATE_SIZE_BYTES)
    ++ byteRun (ff s F.SEAM_EFB_BASE) (ff s F.SEAM_EFB_SIZE_BYTES))

/-- Whether the image that a transfer of a kind fills cannot be reached now (R220, R224). -/
def imageHeld (s : State) (kind : Nat) : Bool :=
  if kind = 1 then accessHeld s .restore (byteRun (ff s F.SEAM_MIRROR_BASE) (ff s F.SEAM_MIRROR_SIZE_BYTES)) else ownHeld s

/-- Whether what a LOAD packet needs of memory cannot be reached now (R220, R224). -/
def loadHeld (s : State) (kind : Nat) : StreamPkt → Bool
  | .data _ _ => imageHeld s kind
  | .record _ => recordsHeld s
  | _ => false

/-- LOAD_PACKET_RECEIVE (R352): a packet waits while the image cannot be reached (R220, R224); one whose cells failed the check after
the port is dropped (R237). -/
def execLoadPacketReceive (src : BitVec 14) (kind : BitVec 2) (bad : Bool) (pkt : StreamPkt) (s : State) :
    Host.Outcome State Fault Refusal :=
  if !consumerUp s 12 then .next s
  else if bad then .next (endpointDrop pathDevice s)
  else if loadHeld s kind.toNat pkt then .next s
  else .next (loadIn src.toNat kind.toNat pkt s)

/-- Each omitted W8 is rebuilt from its P (R128, R352); answers the uncorrectable words met. -/
def rebuildW8 (img : Nat → Nat) (recs : List (List Word)) (s : State) : State × List Nat :=
  recs.foldl (fun p r =>
    let g := groupOf r
    let c := readRange .restore (img g.pOff) (4 * g.count) p.1
    if c.2 ≠ [] then (c.1, p.2 ++ c.2)
    else
      let fs := w8Fields c.1 img g 0 g.count
      let w := storeFields fs (access .restore true true (fs.map (fun f => (f.1, f.2.1))) c.1)
      (w.1, p.2 ++ w.2)) (s, [])

/-- Own state becomes the hemmed state of a step (R355, R356): the step after it counts as discarded, so that it opens with
or without REPLAY. -/
def setHemmed (h : HemRec) (recs : List (List Word)) (s : State) : State :=
  let s := put F.STEPSTAT_LAST_HEM_VALID 1 (put F.STEPSTAT_LAST_HEM_STEP h.num (put F.SEAM_OSTAT_OWN 0 s))
  { s with lastDisc := [h.num + 1], groups := recs, hemRecs := [h], ownBad := false, mcValid := false }

/-- An incoming transfer whose bytes are all written is complete: W8 rebuilt, the mirror CURRENT or own state valid, ACK APPLIED (R352,
R355). After a LOAD the partner's mirror counts as current for the step (DEDUCED, log 31). -/
def loadDone (l : LoadRx) (s : State) : State :=
  let r := if l.kind = 3 then (s, []) else rebuildW8 (loadAddr s l) l.recs s
  if r.2 ≠ [] then loadTorn l r.1
  else
    let s1 := setLoad l.kind none r.1
    sendAck l.src 12 l.step 1
      (if l.kind = 1 then
        put F.SEAM_MSTAT_STEP l.step (put F.SEAM_MSTAT_STATE 2 { s1 with mirrorGroups := l.recs, mirrorEfb := l.efb })
      else if l.kind = 2 then mirrorCurrent l.step (setHemmed ⟨l.step, l.epoch, 0, 0⟩ l.recs s1)
      else setHemmed ⟨l.step, l.epoch, 0, 0⟩ l.recs s1)

/-- An incoming transfer of a kind is completed when it may be. A SLOT transfer of a restore ends under RESTORE_COMPLETE. -/
def finishLoad (kind : Nat) (s : State) : State :=
  match loadOf s kind with
  | none => s
  | some l => if !loadWhole l || (s.restore.running && l.kind == 3) || imageHeld s kind then s else loadDone l s

/-- IMAGE_TRANSFER_COMPLETE (R352, R355): a FILL and a LOAD or SLOT do not wait for each other. -/
def execImageTransferComplete (s : State) : Host.Outcome State Fault Refusal := .next (finishLoad 2 (finishLoad 1 s))

/-- A job start (R356): accepted only when nothing is live or running. -/
def jobStart (src : Source) (s : State) : State :=
  if s.steps ≠ [] ∨ s.xfer.isSome ∨ s.loadRx.isSome ∨ s.fillRx.isSome ∨ pressRuns s ∨ s.drain.isSome ∨ s.restore.running then
    setupRefused src R.SEAM_JOB_START s
  else { setHemmed ⟨rf s F.SEAM_JOB_START_STEP, 0, 0, 0⟩ [] s with lastDisc := [] }

/-- JOB_START (R356). -/
def execJobStart (step : BitVec 48) (s : State) : Host.Outcome State Fault Refusal :=
  .next (byHost R.SEAM_JOB_START (fun s => unlessRefused R.SEAM_JOB_START s (jobStart .host (put F.SEAM_JOB_START_STEP step.toNat s))) s)

end Sys2Proof.Machine
end

