-- ==== Sys2Proof/Machine/Ckpt.lean ====
section
/-!
DEFINITION. Checkpoints: the triggers and the press copy (R358, R359), the drain and its slots (R360 to R363), and restore
(R364 to R367).
-/
namespace Sys2Proof.Machine

/-! ### Triggers and the press copy (R358, R359) -/

/-- Whether HEM of step `n` now calls for a press copy (R358). A timer deadline is met when a whole period of Bobbin time
has passed since the last HEM (DEDUCED, log 33). -/
def pressDue (s : State) (n : Nat) : Bool :=
  let every := rf s F.SEAM_CKPT_EVERY_STEPS
  let period := rf s F.SEAM_CKPT_PERIOD_S * 1000000000
  (every != 0 && n % every == 0) || (period != 0 && s.ckptLast / period < nowNs s / period) || s.ckptNow

/-- The trigger of a hem point (R358): taken, or counted as skipped while a drain, or the copy before it, is in
progress (for the copy: DESIGN CHOICE, log 138). -/
def pressTrigger (n : Nat) (s : State) : Bool × State :=
  let due := pressDue s n
  let s := { s with ckptLast := nowNs s }
  if !due then (false, s)
  else if s.drain.isSome || pressRuns s then (false, bump F.SEAM_CKPT_SKIPPED 1 s)
  else (true, { s with ckptNow := false })

/-- A part of the image is copied, each word checked (R232); answers the uncorrectable words. -/
def copyPart (src dst n : Nat) (s : State) : State × List Nat :=
  let r := readRange .press src n s
  match r.2 with
  | [] => ((writeRange .press dst (memRead r.1 src n) r.1).1, [])
  | b => (r.1, b)

/-- The press copy stops on an uncorrectable word (R237). -/
def pressFail (w : Nat) (s : State) : State :=
  let s := checkError (stepCtx s) 0 0x11 (pathOf s (8 * w)) (8 * w) s
  kickUpdate { s with press := none }

/-- The error-feedback part is copied, unless the controllers hold it back (R220, R224, R359). -/
def pressEfb (p : Press) (s : State) : State :=
  let n := ff s F.SEAM_EFB_SIZE_BYTES
  let dst := ff s F.SEAM_PRESS_BASE + ff s F.SEAM_STATE_SIZE_BYTES
  if accessHeld s .press (byteRun (ff s F.SEAM_EFB_BASE) n ++ byteRun dst n) then { s with press := some p }
  else
    let r := copyPart (ff s F.SEAM_EFB_BASE) dst n s
    match r.2 with
    | [] => { r.1 with press := some { p with efb := true } }
    | w :: _ => pressFail w r.1

/-- The press copy of a step begins with its error-feedback part (R359), which the model copies at once (DESIGN CHOICE, log 110). -/
def pressStart (u : UpdateRec) (s : State) : State :=
  pressEfb ⟨u.step, u.epoch, u.cursor0, u.cursor1, u.key, u.records.map (·.take 16), u.hemAt, true, false⟩
    (put F.SEAM_CKSTAT_PRESS_VALID 0 s)

/-- CKPT_NOW (R358): the next hem point takes a press copy. -/
def ckptNow (s : State) : State := { s with ckptNow := true }

/-- CKPT_NOW (R358). -/
def execCkptNow (s : State) : Host.Outcome State Fault Refusal :=
  .next (byHost R.SEAM_CKPT_CTL ckptNow s)

/-! ### Slots and commit records (R360 to R362) -/

/-- The size of a slot for an image (R360). -/
def slotSize (image : Nat) : Nat := 516 * 1024 + (image + 2047) / 2048 * 2048

/-- The slot a drain writes, given the records of slots A and B (R361): one without a valid
record, else the lower SEQ; slot A where neither has one (DESIGN CHOICE, log 138). -/
def drainSlot (a b : List Word) : Nat :=
  if !recordValid a then 0 else if !recordValid b then 1
  else if (a.getD 4 0).toNat ≤ (b.getD 4 0).toNat then 0 else 1

/-- The host address of a host slot. -/
def hostSlot (s : State) (slot : Nat) : Nat :=
  if slot = 0 then rf s F.SEAM_HOST_SLOT_A else rf s F.SEAM_HOST_SLOT_B

/-- The commit record of a host slot. -/
def hostRecord (s : State) (slot : Nat) : List Word := hostWords s (hostSlot s slot) 32

/-- Bytes of a group table. -/
def tableBytes (recs : List (List Word)) : List Byte := recs.flatMap (fun r => wordBytes (r.take 16))

/-- The digest of a checkpoint (R361). -/
def ckptDigest (recs : List (List Word)) (image : List Byte) : List Byte := sha512 (tableBytes recs ++ image)

/-- The commit record of a press copy (R362). -/
def commitRecord (s : State) (p : Press) (seq : Nat) (digest : List Byte) : List Word :=
  let rev := rf s (F.CTX_CFG_FENEX_REV (stepCtx s))
  let head : List Word := ([ 0x4D425A434B505431, p.step + rev % 16 * 2 ^ 48 + rf s F.STEPCFG_CTL_OVERLAP * 2 ^ 52,
    p.epoch + selfId s * 2 ^ 32, (inForce s R.ROUTE_SHAPE).toNat % 2 ^ 24, seq,
    ff s F.SEAM_STATE_SIZE_BYTES, ff s F.SEAM_EFB_SIZE_BYTES, p.groups.length, p.cursor0.toNat, p.cursor1.toNat,
    p.key % 2 ^ 64, p.key / 2 ^ 64, p.hemAt, 0, 0, 0 ].map (BitVec.ofNat 64))
    ++ bytesWords 8 digest ++ List.replicate 7 0
  head ++ [BitVec.ofNat 64 (crc64 (wordBytes head))]

/-! ### The drain (R361, R363) -/

/-- The press region. -/
def pressBase (s : State) : Nat := ff s F.SEAM_PRESS_BASE

/-- A drain ends when no destination is left. -/
def drainEnd (s : State) : State :=
  match s.drain with
  | some d => if d.partner = none ∧ d.hostSlot = none then put F.SEAM_CKSTAT_DRAIN_BUSY 0 { s with drain := none } else s
  | none => s

/-- A destination is abandoned with a result (R363): the partner's, or the host's. -/
def abandon (partner : Bool) (result : Nat) (s : State) : State :=
  match s.drain with
  | none => s
  | some d =>
    if partner then
      if d.partner = none then s
      else drainEnd (put F.SEAM_CKSTAT_RES_PARTNER result { s with drain := some { d with partner := none } })
    else if d.hostSlot = none then s
    else drainEnd (put F.SEAM_CKSTAT_RES_HOST result { s with drain := some { d with hostSlot := none } })

/-- A host slot is written (R361): its commit record zeroed, the group table filled with zeros, the image. -/
def writeHostSlot (slot : Nat) (table image : List Byte) (s : State) : State :=
  let a := hostSlot s slot
  let s := hostPoke a (List.replicate 4096 0) s
  let s := hostPoke (a + 4096) (table ++ List.replicate (512 * 1024 - table.length) 0) s
  hostPoke (a + 516 * 1024) image s

/-- The drain reads the press copy (R361): what it reads feeds every destination. An uncorrectable word abandons every destination after
the bytes before it (R237, R363). A host destination without a link is abandoned with HOST; with one, the slot is written after the
bursts that wait (R392). -/
def runDrain (p : Press) (d : Drain) (s : State) : State :=
  let n := imageSize s
  let r := readRange .drain (pressBase s) n s
  let all := memRead r.1 (pressBase s) n
  let image := match r.2 with | [] => all | w :: _ => all.take (8 * w - pressBase s)
  let dst := ff s F.SEAM_PEER_PARTNER
  let efb := ff s F.SEAM_EFB_SIZE_BYTES
  let part := d.partner.isSome
  let s := { r.1 with drain := some { d with begun := true, digest := ckptDigest p.groups all } }
  let s := if part then
      sendData dst 11 p.step 0 image (sendGroups dst 11 p.step p.groups
        (sendBegin dst 11 p.step p.epoch p.groups.length (n - efb) efb s)) else s
  let s := match d.hostSlot with
    | some k => if linkUp s then writeHostSlot k (tableBytes p.groups) image (serveAll s) else s
    | none => s
  let s := bump F.SEAM_DRAIN_BYTES (128 * p.groups.length + image.length) s
  match r.2 with
  | w :: _ => abandon true 2 (abandon false 2 (checkError (stepCtx s) 0 0x11 (pathOf s (8 * w)) (8 * w) s))
  | [] =>
    let s := if part then sendEnd dst 11 p.step (128 * p.groups.length + n) s else s
    if d.hostSlot.isSome && !linkUp s then abandon false 4 s else s

/-- The drain of a press copy begins, when the controllers take its reads (R220, R224, R361). The slot at the partner is chosen by the
holder, which has the records (DESIGN CHOICE, log 34). -/
def startDrain (p : Press) (s : State) : State :=
  let dest := rf s F.SEAM_CKPT_DEST
  let part := decide (dest % 2 = 1) && ff s F.SEAM_PEER_PARTNER_VALID == 1
  let hst := decide (dest / 2 = 1)
  if !part && !hst then s
  else
    let slot := drainSlot (hostRecord s 0) (hostRecord s 1)
    let d : Drain := ⟨if part then some 0 else none, if hst then some slot else none, false, []⟩
    let s := put F.SEAM_CKSTAT_DRAIN_BUSY 1 { s with drain := some d }
    if accessHeld s .drain (byteRun (pressBase s) (imageSize s)) then s else runDrain p d s

/-- PRESS_COPY_COMPLETE (R359, R361): the state range is copied, and the error-feedback part where it has waited; the copy is held, and
what waited for it goes on. -/
def execPressCopyComplete (s : State) : Host.Outcome State Fault Refusal :=
  match s.press with
  | none => .next s
  | some p =>
    let n := ff s F.SEAM_STATE_SIZE_BYTES
    if !p.running || !memDrains s
        || accessHeld s .press (byteRun (ff s F.SEAM_STATE_BASE) n ++ byteRun (pressBase s) n) then .next s
    else
      let s := if p.efb then s else pressEfb p s
      match s.press with
      | none => .next s
      | some p =>
        if !p.efb then .next s
        else
          let r := copyPart (ff s F.SEAM_STATE_BASE) (pressBase s) n s
          match r.2 with
          | w :: _ => .next (pressFail w r.1)
          | [] =>
            let p := { p with running := false }
            let s1 := put F.SEAM_CKSTAT_PRESS_VALID 1 (put F.SEAM_CKSTAT_PRESS_STEP p.step { r.1 with press := some p })
            .next (startDrain p (kickUpdate s1))

/-- The commit record is written at each destination left, with the digest of what was drained (R361, R362). -/
def drainCommit (p : Press) (d : Drain) (s : State) : State :=
  let seq := rf s F.SEAM_CK_SEQ + 1
  let ws := commitRecord s p seq d.digest
  let s1 := match d.partner with
    | some _ => put F.SEAM_CKSTAT_RES_PARTNER 1
        (streamPkt (ff s F.SEAM_PEER_PARTNER) 11 7 p.step 0 (wordBytes ws) s)
    | none => s
  let s2 := match d.hostSlot with
    | some k => put F.SEAM_CKSTAT_RES_HOST 1 (hostWrite (hostSlot s k) (wordBytes ws) (serveAll s1))
    | none => s1
  put F.SEAM_CKSTAT_DRAIN_BUSY 0 (put F.SEAM_CK_SEQ seq { s2 with drain := none })

/-- DRAIN_COMPLETE (R361, R362): once every byte is acknowledged, by the partner with its ACK, the commit records are written. A drain that
has waited at the controllers begins instead. -/
def execDrainComplete (s : State) : Host.Outcome State Fault Refusal :=
  match s.drain, s.press with
  | some d, some p =>
    if !d.begun then
      (if accessHeld s .drain (byteRun (pressBase s) (imageSize s)) then .next s else .next (runDrain p d s))
    else if d.partner = some 0 then .next s
    else .next (drainCommit p d s)
  | _, _ => .next s

/-- The holder answers a drain (R361): with APPLIED it has every byte; otherwise it has no slot, and the destination is abandoned with
PEER (DESIGN CHOICE for the result, log 34). -/
def drainAck (step status : Nat) (s : State) : State :=
  match s.drain, s.press with
  | some d, some p =>
    if d.partner ≠ some 0 ∨ !d.begun ∨ p.step % 2 ^ 48 ≠ step then s
    else if status = 1 then { s with drain := some { d with partner := some 1 } }
    else abandon true 3 s
  | _, _ => s

/-- The MEM domain is fenced (R363): the press copy is lost and every destination is abandoned with RESET. -/
def pressLost (s : State) : State :=
  put F.SEAM_CKSTAT_PRESS_VALID 0 { (abandon true 5 (abandon false 5 s)) with press := none }

/-- A word of the press copy that the drain reads has become bad: counted and reported, and every destination is abandoned, since
what is read feeds each of them (R237, R361, R363). -/
def drainCheck (s : State) : State :=
  let r := readRange .drain (pressBase s) (imageSize s) s
  match r.2 with
  | [] => s
  | w :: _ => abandon true 2 (abandon false 2 (checkError (stepCtx r.1) 0 0x11 (pathOf r.1 (8 * w)) (8 * w) r.1))

/-- DRAIN_ABANDON (R363): PEER for the partner destination, HOST for the host's, RESET for either; CHECK where a word of the press
copy is bad. -/
def execDrainAbandon (partner : Bool) (result : BitVec 3) (s : State) : Host.Outcome State Fault Refusal :=
  let k := result.toNat
  if s.drain = none then .next s
  else if k = 2 then (if accessHeld s .drain (byteRun (pressBase s) (imageSize s)) then .next s else .next (drainCheck s))
  else if k = 5 ∨ (k = 3 ∧ partner) ∨ (k = 4 ∧ !partner) then .next (abandon partner k s)
  else .next s

/-! ### The holder of checkpoints (R348, R360) -/

/-- The address of a slot held for the owner of the mirror. -/
def heldSlot (s : State) (slot : Nat) : Nat :=
  ff s F.SEAM_HOLD_BASE + slot * slotSize (ff s F.SEAM_MIRROR_SIZE_BYTES)

/-- Bytes of a checkpoint are written into the slot being received; a word that cannot be merged ends it, and ACK TORN is
sent. -/
def ckptStore (rx : CkptRx) (src a n : Nat) (bs : List Byte) (s : State) : State :=
  let w := writeRange .drain a bs s
  if w.2 = [] then { w.1 with ckptRx := some { rx with got := rx.got + n } }
  else sendAck src 11 rx.step 3 { w.1 with ckptRx := none }

/-- A CKPT packet reaches a holder (R348, R360, R361). -/
def ckptIn (src : Nat) (pkt : StreamPkt) (s : State) : State :=
  let own := fromOwner s src
  match pkt, s.ckptRx with
  | .ack step status, _ =>
    if fromPartner s src then drainAck step.toNat status.toNat s else if own then s else bump F.SEAM_XFER_DROP 1 s
  | .record _, none => if own || fromPartner s src then s else bump F.SEAM_XFER_DROP 1 s
  | .opening n _ _ _ _, _ =>
    if !own then bump F.SEAM_XFER_DROP 1 s
    else
      let a := readRecord 0 s
      let b := readRecord 1 a.1
      let k := drainSlot a.2 b.2
      let s := (writeRange .drain (heldSlot s k) (List.replicate (516 * 1024) 0) b.1).1
      { s with ckptRx := some ⟨k, 0, n.toNat⟩ }
  | _, none => bump F.SEAM_XFER_DROP 1 s
  | .group rs, some rx =>
    if !own then bump F.SEAM_XFER_DROP 1 s
    else ckptStore rx src (heldSlot s rx.slot + 4096 + rx.got) (128 * rs.length) (tableBytes rs) s
  | .data pos bs, some rx =>
    if !own || ff s F.SEAM_MIRROR_SIZE_BYTES < pos.toNat + bs.length then bump F.SEAM_XFER_DROP 1 s
    else ckptStore rx src (heldSlot s rx.slot + 516 * 1024 + pos.toNat) bs.length bs s
  | .closing _, some rx => if !own then bump F.SEAM_XFER_DROP 1 s else sendAck src 11 rx.step 1 s
  | .record ws, some rx =>
    if !own then (if fromPartner s src then s else bump F.SEAM_XFER_DROP 1 s)
    else { (writeRange .drain (heldSlot s rx.slot) (wordBytes (ws.take 32)) s).1 with ckptRx := none }
  | .efb _ _, some _ => bump F.SEAM_XFER_DROP 1 s

/-- Whether the slots held here cannot be reached now (R220, R224). -/
def slotsHeld (s : State) : Bool :=
  accessHeld s .drain (byteRun (ff s F.SEAM_HOLD_BASE) (2 * slotSize (ff s F.SEAM_MIRROR_SIZE_BYTES)))

/-- Whether what a CKPT packet needs of memory cannot be reached now (R220, R224). -/
def ckptHeld (s : State) : StreamPkt → Bool
  | .ack _ _ => false
  | .opening _ _ _ _ _ => slotsHeld s || recordsHeld s
  | _ => slotsHeld s

/-- CKPT_PACKET_RECEIVE (R348, R360, R361): a packet waits while the slots cannot be reached (R220, R224); one whose cells failed the check
after the port is dropped (R237). -/
def execCkptPacketReceive (src : BitVec 14) (bad : Bool) (pkt : StreamPkt) (s : State) : Host.Outcome State Fault Refusal :=
  if !consumerUp s 11 then .next s
  else if bad then .next (endpointDrop pathDevice s)
  else if ckptHeld s pkt then .next s
  else .next (ckptIn src.toNat pkt s)

/-! ### Restore (R364 to R366) -/

/-- Whether a slot counts as valid for this device (R364). -/
def slotValid (s : State) (ws : List Word) : Bool :=
  let w := fun i => (ws.getD i 0).toNat
  recordValid ws && bitsOf (w 2) 32 14 == selfId s && bitsOf (w 3) 0 24 == (inForce s R.ROUTE_SHAPE).toNat % 2 ^ 24
    && bitsOf (w 5) 0 48 == ff s F.SEAM_STATE_SIZE_BYTES && bitsOf (w 6) 0 48 == ff s F.SEAM_EFB_SIZE_BYTES
    && bitsOf (w 1) 48 4 == rf s (F.CTX_CFG_FENEX_REV (stepCtx s)) && bitsOf (w 1) 52 1 == rf s F.STEPCFG_CTL_OVERLAP

/-- The step of a commit record. -/
def recordStep (ws : List Word) : Nat := bitsOf (ws.getD 1 0).toNat 0 48

/-- The record of a slot in RSLOT order: partner A, partner B, host A, host B. -/
def slotRecord (s : State) (k : Nat) : List Word :=
  match s.restore.records.find? (fun r => r.1 == k) with
  | some r => r.2
  | none => []

/-- The prepare ends (R364): the slots are shown, a slot that is not valid with step 0 (DESIGN CHOICE, log 138), and the result is
ACCEPT or REFUSE. -/
def decideRestore (s : State) : State :=
  let s := (List.range 4).foldl (fun s k =>
    let ws := slotRecord s k
    let ok := slotValid s ws
    put (F.SEAM_RSLOT_VALID k) ok.toNat (put (F.SEAM_RSLOT_STEP k) (if ok then recordStep ws else 0) s)) s
  let k := rf s F.SEAM_RESTORE_SOURCE
  let ws := slotRecord s k
  let r := s.restore
  if slotValid s ws && recordStep ws == rf s F.SEAM_RESTORE_STEP then
    let s := putReg R.SEAM_RCURSOR0 (ws.getD 8 0) (putReg R.SEAM_RCURSOR1 (ws.getD 9 0) s)
    let s := putReg R.SEAM_RKEY0 (ws.getD 10 0) (putReg R.SEAM_RKEY1 (ws.getD 11 0) s)
    put F.SEAM_RSTAT_RESULT 2 { s with restore := { r with asked := false, accepted := some k } }
  else put F.SEAM_RSTAT_RESULT 3 { s with restore := { r with asked := false, accepted := none } }

/-- A write of RESTORE.CMD = PREPARE (R364): nothing while a step is live or a restore runs. The partner is asked for its
records and the prepare ends when they come; without a partner it ends at once. -/
def restorePrepare (s : State) : State :=
  if s.steps ≠ [] ∨ s.restore.running then s
  else
    let hs := if linkUp s then [(2, hostRecord s 0), (3, hostRecord s 1)] else []
    let ask := ff s F.SEAM_PEER_PARTNER_VALID == 1
    let s := put F.SEAM_RSTAT_RESULT 1 { s with restore := ⟨ask, none, false, hs⟩ }
    if ask then streamPkt (ff s F.SEAM_PEER_PARTNER) 10 7 0 0 (leBytes 0 8) s else decideRestore s

/-- RESTORE_PREPARE (R364). -/
def execRestorePrepare (source : BitVec 2) (step : BitVec 48) (s : State) : Host.Outcome State Fault Refusal :=
  .next (byHost R.SEAM_RESTORE (fun s =>
    restorePrepare (put F.SEAM_RESTORE_STEP step.toNat (put F.SEAM_RESTORE_SOURCE source.toNat s))) s)

/-- A RECORD packet arrives (R348, R364): a request, one word, from the owner of the mirror is answered with both slots'
records; a record from the partner, 32 words, answers this device's own request, slot A first. -/
def recordIn (src : Nat) (ws : List Word) (s : State) : State :=
  if fromPartner s src && s.restore.asked && ws.length == 32 then
    let k := (s.restore.records.filter (fun r => r.1 < 2)).length
    let s := { s with restore := { s.restore with records := s.restore.records ++ [(k, ws)] } }
    if k = 1 then decideRestore s else s
  else if fromOwner s src && ws.length != 32 then
    [0, 1].foldl (fun s k =>
      let r := readRecord k s
      streamPkt src 10 7 0 (256 * k) (wordBytes (if r.2 = [] then List.replicate 32 0 else r.2)) r.1) s
  else if fromOwner s src || fromPartner s src then s
  else bump F.SEAM_XFER_DROP 1 s

/-- SEAM_RECORD (R348, R364): a request waits while the slots cannot be read (R220, R224). -/
def execSeamRecord (src : BitVec 14) (bad : Bool) (words : List Word) (s : State) : Host.Outcome State Fault Refusal :=
  if !consumerUp s 11 then .next s
  else if bad then .next (endpointDrop pathDevice s)
  else if words.length ≠ 32 ∧ recordsHeld s then .next s
  else .next (recordIn src.toNat words s)

/-- A write of RESTORE.CMD = COMMIT (R365): ignored without ACCEPT or while a step is live. -/
def restoreCommit (s : State) : State :=
  match s.restore.accepted with
  | none => s
  | some k =>
    if rf s F.SEAM_RSTAT_RESULT ≠ 2 ∨ s.steps ≠ [] ∨ s.restore.running then s
    else
      let s := put F.SEAM_OSTAT_OWN 1 (put F.SEAM_RSTAT_RESULT 1 { s with restore := { s.restore with running := true }, pushed := [] })
      if k < 2 then streamPkt (ff s F.SEAM_PEER_PARTNER) 12 7 0 0 (leBytes (k + 1) 8) s else s

/-- RESTORE_COMMIT (R365). -/
def execRestoreCommit (s : State) : Host.Outcome State Fault Refusal :=
  .next (byHost R.SEAM_RESTORE restoreCommit s)

/-- The image that chunks received by position make up. -/
def imageOf (chunks : List (Nat × List Byte)) (n : Nat) : List Byte :=
  (List.range n).map (fun o => match chunks.find? (fun c => c.1 ≤ o && o < c.1 + c.2.length) with
    | some c => c.2.getD (o - c.1) 0
    | none => 0)

/-- The end of a restore (R365): on a matching digest of the bytes received the restored step is the last hemmed step and a FILL
starts. -/
def restoreEnd (ws : List Word) (recs : List (List Word)) (image : List Byte) (s : State) : State :=
  let s := { s with restore := { s.restore with running := false, accepted := none } }
  if bytesWords 8 (ckptDigest recs image) = (ws.drop 16).take 8 then
    autoFill (put F.SEAM_RSTAT_RESULT 5
      (setHemmed ⟨recordStep ws, bitsOf (ws.getD 2 0).toNat 0 32, ws.getD 8 0, ws.getD 9 0⟩ recs s))
  else put F.SEAM_RSTAT_RESULT 4 (put F.SEAM_OSTAT_OWN 2 s)

/-- RESTORE_COMPLETE (R365): from a partner slot when the SLOT transfer has ended, from a host slot by reads through the
host link. -/
def execRestoreComplete (s : State) : Host.Outcome State Fault Refusal :=
  match s.restore.accepted with
  | none => .next s
  | some k =>
    let ws := slotRecord s k
    if !s.restore.running then .next s
    else if k < 2 then
      match s.loadRx with
      | none => .next s
      | some l =>
        if loadWhole l && l.kind == 3 then
          .next (restoreEnd ws l.recs (imageOf l.chunks l.total) (sendAck l.src 12 l.step 1 { s with loadRx := none }))
        else .next s
    else if !linkUp s ∨ ownHeld s then .next s
    else
      let a := hostSlot s (k - 2)
      let n := bitsOf (ws.getD 7 0).toNat 0 16
      let recs := (List.range n).map (fun i => hostWords s (a + 4096 + 128 * i) 16)
      let sz := ff s F.SEAM_STATE_SIZE_BYTES
      let image := hostRead s (a + 516 * 1024) (imageSize s)
      let s1 := (writeRange .restore (ff s F.SEAM_STATE_BASE) (image.take sz) s).1
      let s2 := (writeRange .restore (ff s F.SEAM_EFB_BASE) (image.drop sz) s1).1
      .next (restoreEnd ws recs image s2)

/-- A write of RESTORE.CMD = ABORT (R366). -/
def restoreAbort (s : State) : State :=
  let res := rf s F.SEAM_RSTAT_RESULT
  if s.restore.running then
    let own := match s.restore.accepted with | some k => decide (k < 2) | none => false
    let s := if own then streamPkt (ff s F.SEAM_PEER_PARTNER) 12 7 0 0 (leBytes 0 8) s else s
    put F.SEAM_RSTAT_RESULT 0 (put F.STEPSTAT_LAST_HEM_VALID 0 (put F.SEAM_OSTAT_OWN 2
      { s with restore := ⟨false, none, false, []⟩, loadRx := none }))
  else if res = 2 ∨ res = 3 then
    let s := putReg R.SEAM_RCURSOR0 0 (putReg R.SEAM_RCURSOR1 0 (putReg R.SEAM_RKEY0 0 (putReg R.SEAM_RKEY1 0 s)))
    put F.SEAM_RSTAT_RESULT 0 { s with restore := ⟨false, none, false, []⟩ }
  else s

/-- RESTORE_ABORT (R366). -/
def execRestoreAbort (s : State) : Host.Outcome State Fault Refusal :=
  .next (byHost R.SEAM_RESTORE restoreAbort s)

end Sys2Proof.Machine
end

