-- ==== Sys2Proof/Machine/Steps.lean ====
section
/-!
DEFINITION. The life of a step (R15 to R55): opening and closing, the hem vote, the hem point with the own update, discard,
and the step timing record (R337).
-/
namespace Sys2Proof.Machine

/-! ### The vote (R33 to R35) -/

/-- Two vote values combined (R33): the higher severity, the lower FIRST_ID and the cause that came with it. -/
def voteMerge (a b : Vote) : Vote :=
  ⟨max a.sev b.sev, min a.firstId b.firstId, if b.firstId < a.firstId then b.cause else a.cause⟩

/-- Hops of a value on the ring of an axis, in each direction. -/
def voteHops (s : State) (a : Nat) : Nat := axisSize s a / 2

/-- Cells received on an axis in a direction. -/
def voteGot (r : StepRec) (axis dirn : Nat) : Nat := smGet (fun _ => 0) r.got (2 * axis + dirn)

/-- The running value of a step leaves in a direction (R33, R283); none does while CMP is fenced or resets (R304). -/
def sendVote (r : StepRec) (axis dirn : Nat) (s : State) : State :=
  if !s.cmpUp then s
  else inject (neighbour s axis (dirn == 1)) 0 4 (r.num % 4) 0 0
    (leBytes (r.num + r.vote.sev * 2 ^ 48) 8 ++ leBytes (r.epoch + r.vote.firstId * 2 ^ 32 + r.vote.cause * 2 ^ 47) 8) 0 s

/-- A step's vote enters an axis: its value leaves in both directions, and once more for each cell that came before and
has still to travel on. -/
def enterAxis (a n : Nat) (s : State) : State :=
  match findStep s n with
  | none => s
  | some r =>
    let r := { r with axis := a }
    let s := setStep r s
    if 4 ≤ a ∨ voteHops s a = 0 then s
    else [0, 1].foldl (fun s dirn =>
      (List.range (1 + min (voteGot r a dirn) (voteHops s a - 1))).foldl (fun s _ => sendVote r a dirn s) s) s

/-- The vote of a step moves on over every axis whose reduction is complete. -/
def voteRun : Nat → Nat → State → State
  | 0, _, s => s
  | k + 1, n, s =>
    match findStep s n with
    | none => s
    | some r =>
      if 4 ≤ r.axis then s
      else if voteHops s r.axis ≤ voteGot r r.axis 0 ∧ voteHops s r.axis ≤ voteGot r r.axis 1 then
        voteRun k n (enterAxis (r.axis + 1) n s)
      else s

/-- A cell is combined into a VOTING step's value, and travels on while it has not gone half the ring. -/
def voteCell (axis dirn : Nat) (v : Vote) (n : Nat) (s : State) : State :=
  match findStep s n with
  | none => s
  | some r =>
    let g := voteGot r axis dirn + 1
    let r := { r with vote := voteMerge r.vote v, got := smSet (fun _ => 0) r.got (2 * axis + dirn) g }
    let s := setStep r s
    let s := if r.axis = axis ∧ g < voteHops s axis then sendVote r axis dirn s else s
    voteRun 5 n s

/-- A step contributes its verdict (R29, R33, R34): the cells held for it are combined. After R238 the device contributes
none. -/
def contribute (n : Nat) (s : State) : State :=
  match findStep s n with
  | none => s
  | some r =>
    if s.ownBad then s
    else
      let v : Vote := ⟨r.sev, if r.sev = 0 then 0x7FFF else selfId s, r.cause⟩
      let s := enterAxis 0 n (writeStepRecord n (setStep { r with st := .voting, vote := v, contribAt := nowNs s, early := [] } s))
      voteRun 5 n (r.early.foldl (fun s e => voteCell (e.1 / 2) (e.1 % 2) e.2 n s) s)

/-- The force-closing of an OPEN or CLOSING step (R20, steps 3 and 4). -/
def forceClose (cause n : Nat) (s : State) : State :=
  match findStep s n with
  | none => s
  | some r =>
    if r.st = .opened ∨ r.st = .closing then
      contribute n (modStep n (fun x => { x with forced := true }) (raiseSev n 1 cause s))
    else s

/-- A vote cell is dropped and counted (R34). -/
def voteDrop (s : State) : State := bump F.STEPSTAT_VOTE_DROPS 1 s

/-- VOTE_CELL_RECEIVE (R34): along an axis, in the direction it travels (DESIGN CHOICE, log 91). -/
def execVoteCellReceive (axis : Fin 4) (plus bad : Bool) (cell : VoteCell) (s : State) : Host.Outcome State Fault Refusal :=
  let v : Vote := ⟨cell.sev.toNat, cell.firstId.toNat, cell.cause.toNat⟩
  if bad && consumerUp s 4 then .next (endpointDrop (pathColl axis.val) s)
  else match findStep s cell.step.toNat with
  | none => .next (voteDrop s)
  | some r =>
    if r.epoch ≠ cell.epoch.toNat ∨ r.sealed ∨ !consumerUp s 4 then .next (voteDrop s)
    else match r.st with
      | .voting => .next (voteCell axis.val plus.toNat v r.num s)
      | .opened | .closing => .next (setStep { r with early := r.early ++ [(2 * axis.val + plus.toNat, v)] } s)
      | _ => .next (voteDrop s)

/-! ### Opening and closing (R21 to R23, R29) -/

/-- Whether STEP_OPEN of step `n` is in sequence (R22, R23, R355, R447). In overlap mode CLOSING and every later state of the
live step allow it, those of a discard included; a step opened then is discarded with it (DESIGN CHOICE, log 35). -/
def openOk (s : State) (n : Nat) (replay : Bool) : Bool :=
  let hem := rf s F.STEPSTAT_LAST_HEM_STEP
  rf s F.STEPSTAT_LAST_HEM_VALID == 1 && rf s F.SEAM_OSTAT_OWN == 0 && (!replay || s.lastDisc.contains n) &&
    (match s.steps with
     | [] => n == hem + 1
     | [r] => rf s F.STEPCFG_CTL_OVERLAP == 1 && n == r.num + 1 && r.st != .opened
     | _ => false)

/-- Every counter of a bank of the step context is set to 0 (R67). -/
def clearBank (n : Nat) (s : State) : State :=
  { s with ctrs := smKeep (fun k => !(k / 512 == stepCtx s && k / 256 % 2 == n % 2)) s.ctrs }

/-- The ns in which the step context has held the compute units with no eligible compute descriptor (R337). -/
def idleTotal (s : State) : Nat :=
  s.idleNs + (match s.idleAt with | some t => nowNs s - t | none => 0)

/-- What STEP_OPEN records (R21), with the replay marks of what is already in flight for the step (R50), and the keep space
that copies of an earlier run still take (R28). -/
def openRec (d : Desc) (s : State) : StepRec :=
  let w := dWord d
  let n := bitsOf (w 1) 0 48
  let first := fun r => (s.inflight.find? (fun e => e.ctx == d.ctx && e.ring == r && dStag e == n % 4)).map (fun e => (r, e.cnt))
  { num := n, epoch := bitsOf (w 2) 0 32, replay := bitsOf (w 1) 48 1 == 1, budget := bitsOf (w 2) 32 32,
    cursor0 := BitVec.ofNat 64 (w 3), cursor1 := BitVec.ofNat 64 (w 4), key := w 5 + w 6 * 2 ^ 64,
    st := .opened, sev := 0, cause := 0, forced := false, vote := ⟨0, 0x7FFF, 0⟩, axis := 0, got := [], early := [],
    sealed := false, groupRecs := [], efbOffs := [], binds := [],
    mark := (0, d.cnt) :: ([1, 2].filterMap first)
    keepBytes := (s.kept.filter (fun k => k.step == n)).foldl (fun a k => a + k.len) 0, keepOver := false, closeProd := [],
    openedAt := nowNs s, contribAt := 0, busyAt := none, busyNs := 0, sendNs := 0, recvNs := 0, lags := [0, 0, 0, 0],
    late := none, locked := rf s F.BOBBIN_STAT_LOCKED == 1, idle0 := idleTotal s, taint := [] }

/-- Descriptors that waited for their step to open are checked; a refusal enters its verdict (R29, R96; DEDUCED, log 115). -/
def checkWaiting (d : Desc) (n : Nat) (s : State) : State :=
  (s.inflight.filter (fun e => e.ctx == d.ctx && e.step == some n && e.run == .fetched && !namesStep e)).foldl (fun s e =>
    match refuseCause collCause s e with
    | some k => retire e 2 k s
    | none => s) s

/-- A STEP_OPEN that starts (R21 to R23, R67, R87). -/
def openStep (d : Desc) (s : State) : State :=
  let n := bitsOf (dWord d 1) 0 48
  if !openOk s n (bitsOf (dWord d 1) 48 1 == 1) then retire d 2 0x03 s
  else
    let r := openRec d s
    let s := { s with
      steps := s.steps ++ [r], stoppedShown := []
      inflight := s.inflight.map (fun e => if e.ctx = d.ctx ∧ dStag e = n % 4 then { e with step := some n } else e)
      kept := s.kept.map (fun k => if k.step = n then { k with old := true } else k)
      lintFirst := match s.lintFirst with | some f => some f | none => some n
      lintRecs := s.lintRecs.map (fun x => { x with step := some (x.step.getD n) })
      lintOld := s.lintOld.map (fun x => { x with step := some (x.step.getD n) })
      lent := s.lent.map (fun x => { x with step := some (x.step.getD n), first := some (x.first.getD n) }) }
    checkWaiting d n (retire d 1 0 (writeStepRecord n (clearBank n s)))

/-- STEP_OPEN (R21 to R23). -/
def execStepOpen (r : DescRef) (s : State) : Host.Outcome State Fault Refusal :=
  .next (withStart s r.ctx.val 0 r.cnt.toNat 5 1 openStep)

/-- A STEP_CLOSE that starts (R19, R29): an OPEN step goes to CLOSING, and what is posted by now on the other rings must be
seen before its verdict. One of a step that is not OPEN is refused (DESIGN CHOICE, log 36). -/
def closeStep (d : Desc) (s : State) : State :=
  match d.step.bind (findStep s) with
  | none => retire d 2 0x02 s
  | some r =>
    if r.st ≠ .opened then retire d 2 0x03 s
    else modStep r.num (fun x =>
      { x with st := .closing, closeProd := [1, 2].map (fun k => (k, (ringRt s d.ctx k).prod)) }) s

/-- STEP_CLOSE (R19, R86). -/
def execStepClose (r : DescRef) (s : State) : Host.Outcome State Fault Refusal :=
  .next (withStart s r.ctx.val 0 r.cnt.toNat 5 2 closeStep)

/-- Whether a CLOSING step has nothing left to wait for (R29): every descriptor but its STEP_CLOSE has retired, and every
descriptor posted on the other rings before STEP_CLOSE has been fetched (DEDUCED, log 87). -/
def closeDone (s : State) (r : StepRec) : Bool :=
  s.inflight.all (fun e => !(e.ctx == stepCtx s && dStag e == r.num % 4) || (dClass e == 5 && 2 ≤ dOp e && dOp e ≤ 4))
    && r.closeProd.all (fun p => (((ringRt s (stepCtx s) p.1).cons + 2 ^ 32 - p.2) % 2 ^ 32) < 2 ^ 31)

/-- The mirror condition of a CLEAN verdict (R29). -/
def mirrorOk (s : State) : Bool := s.mcValid && rf s F.SEAM_OSTAT_MC_STEP == rf s F.STEPSTAT_LAST_HEM_STEP

/-- The STEP_CLOSE of a step retires with its own severity as RESULT (R73, R86). -/
def retireClose (r : StepRec) (s : State) : State :=
  match s.inflight.find? (fun e => e.ctx == stepCtx s && dClass e == 5 && dOp e == 2 && e.run == .running
      && dStag e == r.num % 4) with
  | none => s
  | some d => retire { d with result := r.sev } 1 0 s

/-- STEP_VERDICT_CONTRIBUTE (R19, R29). -/
def execStepVerdictContribute (step : BitVec 48) (s : State) : Host.Outcome State Fault Refusal :=
  match findStep s step.toNat with
  | none => .next s
  | some r =>
    if r.st ≠ .closing ∨ !closeDone s r ∨ s.ownBad ∨ !s.cmpUp then .next s
    else
      let s1 := if mirrorOk s then s else raiseSev r.num 1 0x15 s
      let s2 := retireClose ((findStep s1 r.num).getD r) s1
      .next (contribute r.num s2)

/-! ### The step timing record (R337) -/

/-- A lag in units of 256 ns, saturating (R337). -/
def lagUnits (ns : Nat) : Nat := min (ns / 256) 65535

/-- The step timing record of a step (R337). HOLD_NS is the time in which the step context has held the compute units with no
eligible compute descriptor since the step was opened (DEDUCED, log 127). -/
def timingRecord (r : StepRec) (outcome : Nat) (s : State) : State :=
  let lg := rf s F.COLL_REPORT_CTL_ENTRIES_LOG2
  if lg = 0 then s
  else
    let lag := fun a => lagUnits (r.lags.getD a 0)
    let late := match r.late with | some l => l.1 + 2 ^ 14 | none => 0
    let ws := [ r.num + outcome * 2 ^ 48 + r.locked.toNat * 2 ^ 50, r.openedAt, r.contribAt, nowNs s,
      r.busyNs % 2 ^ 32 + (idleTotal s - r.idle0) % 2 ^ 32 * 2 ^ 32, r.sendNs % 2 ^ 32 + r.recvNs % 2 ^ 32 * 2 ^ 32,
      lag 0 + lag 1 * 2 ^ 16 + lag 2 * 2 ^ 32 + lag 3 * 2 ^ 48, late + s.reportSeq % 2 ^ 32 * 2 ^ 32 ]
    let a := rf s F.COLL_REPORT_BASE + 64 * (s.reportSeq % 2 ^ lg)
    hostWrite a (wordBytes (ws.map (BitVec.ofNat 64))) { s with reportSeq := (s.reportSeq + 1) % 2 ^ 32 }

/-! ### Outcomes (R35, R41, R49) -/

/-- The outcome fields of STEPSTAT (R35, R490) (DEDUCED, log 90). -/
def showOutcome (n outcome : Nat) (resolved : Bool) (v : Vote) (s : State) : State :=
  put F.STEPSTAT_VOTE_OUTCOME outcome (put F.STEPSTAT_VOTE_RESOLVED resolved.toNat
    (put F.STEPSTAT_VOTE_FIRST_ID v.firstId (put F.STEPSTAT_VOTE_CAUSE v.cause (put F.STEPSTAT_VOTE_STEP_STEP n s))))

/-- HEM is recorded for a step (R35, R41 steps 1 to 3): notice, window reads held, the own update due with the group table,
and the press copy's trigger. -/
def recordHem (n : Nat) (resolved : Bool) (s : State) : State :=
  match findStep s n with
  | none => s
  | some r =>
    let s := showOutcome n 1 resolved r.vote s
    let s := put F.STEPSTAT_LAST_HEM_VALID 1 (put F.STEPSTAT_LAST_HEM_STEP n s)
    let s := modStep n (fun x => { x with st := .hemming })
      { s with outcomes := (n, r.epoch, 1) :: s.outcomes, lastDisc := s.lastDisc.filter (· != n), winHold := true
               holdSince := if s.winHold then s.holdSince else nowNs s
               hemRecs := ⟨n, r.epoch, r.cursor0, r.cursor1⟩ :: s.hemRecs
               groups := r.groupRecs }
    let s := stepNotice r { kind := 0x10, firstId := r.vote.firstId, cause := r.vote.cause } s
    let s := if r.replay then releaseKeep n s else s
    let t := pressTrigger n s
    let s := timingRecord r 1 t.2
    let u : UpdateRec := ⟨n, r.epoch, r.groupRecs, r.efbOffs.map (fun x => (x.2.1, x.2.2)), 0, false, false, t.1, r.cursor0, r.cursor1, r.key, nowNs s, none⟩
    kickUpdate (writeStepRecord n { s with upds := s.upds ++ [u] })

/-- FAIL is recorded for live steps, with the vote of the one that failed: they are discarded, or stopped (R35, R49). -/
def failSteps (hit : List StepRec) (stop : Bool) (vote : Vote) (s : State) : State :=
  if hit = [] then s
  else restEngines (hit.foldl (fun s x =>
    let s := noteBusy (some x.num)
      (modStep x.num (fun y => { y with st := if stop then .stopped else .discarding, vote := vote })
        { s with outcomes := (x.num, x.epoch, 2) :: s.outcomes })
    writeStepRecord x.num (timingRecord ((findStep s x.num).getD x) (if stop then 3 else 2) s)) s)

/-- Whether a step is live with no outcome yet. -/
def undecided (x : StepRec) : Bool := x.st != .hemming && x.st != .discarding && x.st != .stopped

/-- FAIL is recorded for a step (R35, R39, R49): it is discarded, or stopped, and a later live step with it. R38 lets no outcome of a
sealed step arise but through VOTE_RESOLVE, and R49 discards both steps: a sealed later step is discarded too (DESIGN CHOICE, log 88). -/
def recordFail (n : Nat) (stop resolved : Bool) (s : State) : State :=
  match findStep s n with
  | none => s
  | some r =>
    let s := showOutcome n (if stop then 3 else 2) resolved r.vote s
    failSteps (s.steps.filter (fun x => x.num == n || (n < x.num && undecided x))) stop r.vote s

/-- The reduction of a VOTING step is complete on every axis, and every earlier live step has hemmed: one opened while an earlier step is
discarded does not pass it (log 35). -/
def voteDone (s : State) (r : StepRec) : Bool :=
  r.st == .voting && 4 ≤ r.axis && !r.sealed && s.steps.all (fun x => r.num ≤ x.num || x.st == .hemming)

/-- VOTE_COMPLETE (R35): severity 0 hems, 1 discards, 2 stops; the reserved 3 acts as STOP (DESIGN CHOICE, log 37). -/
def execVoteComplete (step : BitVec 48) (s : State) : Host.Outcome State Fault Refusal :=
  match findStep s step.toNat with
  | none => .next s
  | some r =>
    if !voteDone s r || !s.cmpUp then .next s
    else if r.vote.sev = 0 then .next (recordHem r.num false s)
    else .next (recordFail r.num (decide (2 ≤ r.vote.sev)) false s)

/-- A step enters UNRESOLVED with its notice (R37, R446). -/
def unresolve (r : StepRec) (s : State) : State :=
  stepNotice r { kind := 0x13 } (modStep r.num (fun x => { x with st := .unresolved }) s)

/-- VOTE_TIMEOUT (R37). -/
def execVoteTimeout (step : BitVec 48) (s : State) : Host.Outcome State Fault Refusal :=
  match findStep s step.toNat with
  | none => .next s
  | some r => if r.st = .voting then .next (unresolve r s) else .next s

/-- A fetched VOTE_SEAL or VOTE_RESOLVE (R88): executed ahead of any unretired descriptor, without regard to FENCE or
counters, or to its step tag (DESIGN CHOICE, log 38). -/
def voteCtl (s : State) (c cnt op : Nat) (f : Desc → State → State) : State :=
  match findDesc s c 0 cnt with
  | none => s
  | some d => if dClass d = 5 ∧ dOp d = op ∧ d.run = .fetched ∧ s.cmpUp then f d s else s

/-- A seal (R38): held and later cells of the live step and epoch are dropped and counted; RESULT is the outcome (DEDUCED, log 86). -/
def sealStep (d : Desc) (s : State) : State :=
  let n := bitsOf (dWord d 1) 0 48
  let e := bitsOf (dWord d 2) 0 32
  let res := outcomeOf s n e
  let s := match s.steps.find? (fun r => r.num == n && r.epoch == e) with
    | none => s
    | some r => writeStepRecord n (setStep { r with sealed := true, early := [] } (bump F.STEPSTAT_VOTE_DROPS r.early.length s))
  retire { d with result := res } 1 0 s

/-- VOTE_SEAL (R38). -/
def execVoteSeal (r : DescRef) (s : State) : Host.Outcome State Fault Refusal :=
  .next (voteCtl s r.ctx.val r.cnt.toNat 3 sealStep)

/-- A resolution (R39, R40): refused with VOTE_CONFLICT against a recorded outcome of the other kind; applied to a VOTING
or UNRESOLVED step; without effect otherwise (DESIGN CHOICE, log 39). -/
def resolveStep (d : Desc) (s : State) : State :=
  let n := bitsOf (dWord d 1) 0 48
  let e := bitsOf (dWord d 2) 0 32
  let hem := bitsOf (dWord d 2) 32 1 == 1
  let known := outcomeOf s n e
  if (known = 1 ∧ !hem) ∨ (known = 2 ∧ hem) then retire d 2 0x04 s
  else
    let s := match s.steps.find? (fun r => r.num == n && r.epoch == e) with
      | none => s
      | some r =>
        if r.st = .voting ∨ r.st = .unresolved then
          if hem then recordHem n true s else recordFail n false true s
        else s
    retire d 1 0 s

/-- VOTE_RESOLVE (R39, R40). -/
def execVoteResolve (r : DescRef) (s : State) : Host.Outcome State Fault Refusal :=
  .next (voteCtl s r.ctx.val r.cnt.toNat 4 resolveStep)

/-! ### The own update (R41, R42, R51) -/

/-- The blocks of an update from a block number on are run: each reads its gradient, master copy and moments, and is
written whole and recorded in the progress words (R51). Answers the number of the first block not written, and the uncorrectable word
that stopped it. -/
def runBlocks : List (List Word × Nat × Nat) → Nat → State → State × Nat × Option Nat
  | [], k, s => (s, k, none)
  | b :: bs, k, s =>
    let g := groupOf b.1
    let ga := (b.1.getD 16 0).toNat + 2 * b.2.1
    let r := checkWords (fun w => inRange ga (2 * b.2.2) w || stateWords (ownAddr s) g b.2.1 b.2.2 w)
      (access .update true false (byteRun ga (2 * b.2.2) ++ blockReads (ownAddr s) g b.2.1 b.2.2) s)
    match r.2 with
    | w :: _ => (r.1, k, some w)
    | [] =>
      let grad := fun i => fpDecode .bf16 (memNat r.1 ((b.1.getD 16 0).toNat + 2 * i) 2)
      let u := updateElems (ownAddr s) g grad b.2.1 b.2.2 (access .update true true (blockWrites (ownAddr s) g b.2.1 b.2.2) r.1)
      match u.2 with
      | w :: _ => (u.1, k, some w)
      | [] => runBlocks bs (k + 1) (writeRecord progressBase u.1)

/-- What hangs on a live step goes with it: its record, held VERIFY packets, SENDs without VERIFY, and its directory
records (R17, R183, R284). Trainings that waited for no live step start (R275). -/
def dropStep (n : Nat) (s : State) : State :=
  retrainDue { s with
    steps := s.steps.filter (fun r => r.num != n)
    verifies := s.verifies.filter (fun v => v.step != n)
    sends := s.sends.filter (fun x => x.step != n)
    side := s.side.filter (fun x => x.step != some n)
    collIdx := smSet (fun _ => 0) s.collIdx (64 + n % 4) 0 }

/-- Whether the update of a step's groups writes into a range: the master copy and the moments, and W, W8 and its scales of the version
it writes (R48, R90, R203). -/
def updateHits (s : State) (recs : List (List Word)) (a n : Nat) : Bool :=
  recs.any (fun r =>
    let g := groupOf r
    let hit := fun off len => let b := ownAddr s off; decide (a < b + len ∧ b < a + n)
    hit g.wOff (2 * g.count) || hit g.w8Off g.count || hit g.pOff (4 * g.count) || hit g.v1Off (4 * g.count)
      || (g.kind == 0 && hit g.v2Off (4 * g.count))
      || ((fmtOfCode g.w8fmt).any fmtBlocked && hit g.w8sOff (g.count / 32)))

/-- The own update of a step is complete (R41 step 4): held reads are released, keep space is freed, the step is no longer
live, and a press copy or a FILL that waited begins. In overlap mode reads may have come after the HEM of the next step too:
the rule does not say which update ends their hold, and every held read is released here, before the next update writes; reads
are held again from now while that one is due (DESIGN CHOICE, log 117). -/
def updateDone (u : UpdateRec) (s : State) : State :=
  let s := releaseReads u.records s
  let us := s.upds.drop 1
  let s := dropCopies (updateHits s u.records) s
  let s := dropStep u.step (releaseKeep u.step { s with upds := us, winHold := us != [], holdSince := nowNs s })
  let s := if u.press then pressStart u s else s
  afterUpdate u s

/-- OWN_UPDATE_COMPLETE (R41, R238): the oldest update that has begun runs from its first block not written to its end. -/
def execOwnUpdateComplete (step : BitVec 48) (s : State) : Host.Outcome State Fault Refusal :=
  match s.upds with
  | [] => .next s
  | u :: us =>
    if u.step ≠ step.toNat ∨ !u.begun ∨ !u.sent ∨ s.ownBad ∨ fillRuns s ∨ pressRuns s ∨ tripped s ∨ !s.memUp ∨ !s.cmpUp
        ∨ (updateBlocks u.records).any (fun b => accessHeld s .update (byteRun ((b.1.getD 16 0).toNat + 2 * b.2.1) (2 * b.2.2)
          ++ blockReads (ownAddr s) (groupOf b.1) b.2.1 b.2.2)) then
      .next s
    else
      let r := runBlocks ((updateBlocks u.records).drop u.progress) u.progress s
      match r.2.2 with
      | some w => .next (ownBroken w { r.1 with upds := { u with progress := r.2.1 } :: us })
      | none => .next (updateDone u r.1)

/-! ### Discard (R50, R54, R67, R75) -/

/-- The replay mark of a ring, as the slot index (R50, R94): that of the first descriptor of the step, or where the ring
stands when it has none. -/
def markIndex (s : State) (r : StepRec) (k : Nat) : Nat :=
  let cnt := match r.mark.find? (fun m => m.1 == k) with
    | some m => m.2
    | none => (ringRt s (stepCtx s) k).cons
  cnt % 2 ^ rf s (F.CTX_RING_CTL_LOG2 (stepCtx s) k)

/-- A ring goes back to the step's replay mark when that lies behind (R50, R75): the host rewrites it from there and posts
again (DEDUCED, log 83). -/
def rewindRing (r : StepRec) (k : Nat) (s : State) : State :=
  match r.mark.find? (fun m => m.1 == k) with
  | none => s
  | some m =>
    if ((ringRt s (stepCtx s) k).cons + 2 ^ 32 - m.2) % 2 ^ 32 < 2 ^ 31 then setRingRt (stepCtx s) k ⟨m.2, m.2, false, (ringRt s (stepCtx s) k).mb⟩ s
    else s

/-- The notice of a completed discard (R50, R54, R94). A STEP_STOPPED notice carries no replay mark (R94) (DEDUCED, log 89). -/
def discardNotice (r : StepRec) (s : State) : State :=
  let stop := r.st == .stopped
  let mk := fun k => if stop then 0 else markIndex s r k
  stepNotice r { kind := if stop then 0x12 else 0x11, sev := if stop then 2 else 1, firstId := r.vote.firstId,
                 cause := r.vote.cause, verified := verifiedCount s r.num, mark0 := mk 0, mark1 := mk 1, mark2 := mk 2 } s

/-- The discard of a step completes: its descriptors are written back DISCARDED, its counters are 0, the rings stand at the
replay mark, the notice is posted; a stopped step's keep space is released. A later step opened since then is discarded or stopped now (R49;
DESIGN CHOICE, log 35). -/
def discardStep (r : StepRec) (s : State) : State :=
  let mine := s.inflight.filter (fun d => d.ctx == stepCtx s && d.step == some r.num)
  let s := mine.foldl (fun s d => retire d 4 0 (clearHalt d s)) s
  let s := clearBank r.num s
  let s := discardNotice r s
  let s := [0, 1, 2].foldl (fun s k => rewindRing r k s) s
  let s := if r.st = .stopped then { releaseKeep r.num s with stoppedShown := s.stoppedShown ++ [r.num] } else s
  let s := dropCopies (fun _ _ => false) (dropStep r.num s)
  let disc := if s.lastDisc.contains r.num then s.lastDisc else s.lastDisc ++ [r.num]
  let s := { s with lastDisc := disc, readys := s.readys.filter (fun x => !(x.stag == r.num % 4 &&
      (x.p2p || x.tag % 64 == stepCtx s))) }
  let s := failSteps (s.steps.filter (fun x => r.num < x.num && undecided x)) (r.st == .stopped) r.vote s
  kickMoves (noteIdle (prefetch (if s.steps.any (fun x => x.st == .discarding || x.st == .stopped) then s
    else releaseFenceQ (sendFences s))))

/-- STEP_DISCARD_COMPLETE (R50, R54, R75, R317). -/
def execStepDiscardComplete (step : BitVec 48) (s : State) : Host.Outcome State Fault Refusal :=
  match findStep s step.toNat with
  | none => .next s
  | some r =>
    if (r.st = .discarding ∨ r.st = .stopped) ∧ s.cmpUp then .next (discardStep r s) else .next s

end Sys2Proof.Machine
end

