-- ==== Sys2Proof/Machine/Ctrl.lean ====
section
/-!
DEFINITION. The CTRL operations outside step control (R86, R89, R91, R92, R344), and the start waves and the Steam pre-ramp
of an announced release (R155, R336, R421).
-/
namespace Sys2Proof.Machine

/-- NOP (R86): retires at once; it may signal. -/
def execNop (r : DescRef) (s : State) : Host.Outcome State Fault Refusal :=
  .next (noteIdle (withStart s r.ctx.val 0 r.cnt.toNat 5 0 (fun d s => retire d 1 0 s)))

/-- The OPT_BIND descriptors that precede a descriptor in its step: those that have retired, and those in flight (R344). -/
def bindsBefore (d : Desc) (r : StepRec) (s : State) : Nat :=
  let before := fun c => c != d.cnt && decide ((d.cnt + 2 ^ 32 - c) % 2 ^ 32 < 2 ^ 31)
  (r.binds.filter before).length
    + (s.inflight.filter (fun e => e.ctx == d.ctx && e.step == d.step && dClass e == 5 && dOp e == 8 && before e.cnt)).length

/-- An OPT_BIND that starts (R89, R344): one group record more in an OPEN step, unless 4,096 or more precede it; later than STEP_CLOSE it
adds nothing (DEDUCED, log 75). -/
def bindStep (d : Desc) (s : State) : State :=
  match d.step.bind (findStep s) with
  | none => retire d 2 0x02 s
  | some r =>
    if 4095 < bindsBefore d r s then retire d 2 0x08 s
    else if r.st = .opened then
      retire d 1 0 (setStep { r with groupRecs := r.groupRecs ++ [recordOf s d r.num] } s)
    else retire d 1 0 s

/-- OPT_BIND (R89, R344, R345). -/
def execOptBind (r : DescRef) (s : State) : Host.Outcome State Fault Refusal :=
  .next (noteIdle (withStart s r.ctx.val 0 r.cnt.toNat 5 8 bindStep))

/-- The counter write of a CTR_SET (R91): on the step context in the bank of its step tag. -/
def ctrSetStep (d : Desc) (s : State) : State :=
  let w := dWord d 1
  retire d 1 0 (ctrPut (ctrKey s d.ctx (dStag d) (bitsOf w 0 8)) (bitsOf w 8 16) s)

/-- CTR_SET (R91). -/
def execCtrSet (r : DescRef) (s : State) : Host.Outcome State Fault Refusal :=
  .next (noteIdle (withStart s r.ctx.val 0 r.cnt.toNat 5 9 ctrSetStep))

/-- The engines of one wave that have no tile job begin Steam ops on every quad, where they may, leaving clock-gating (R153, R155,
R420, R421); the quads of the others are clocked again. -/
def steamWave (me : Nat) (s : State) : State :=
  (List.range 20).foldl (fun s b =>
    if onArray s b me (0, 4) = [] then engIdle b me s else setEng b me { engRt s b me with gated := 0 } s) s

/-- A BARRIER retires at Bobbin time `t` with a result (R91, R336): from then on its engines start in waves, and those that a wave
still holds run Steam ops (R155). -/
def releaseAt (d : Desc) (t result : Nat) (s : State) : State :=
  let s := { s with waveT := t, waveHeld := [1, 2, 3, 4, 5, 6, 7] }
  noteIdle (retire { d with result := result } 1 0 (s.waveHeld.foldl (fun s w => steamWave w s) s))

/-- A BARRIER that becomes eligible (R91): past its time it retires at once with RESULT 1; before it, it waits. -/
def barrierStep (d : Desc) (s : State) : State :=
  let t := dWord d 1
  if t < nowNs s then releaseAt d (nowNs s) 1 s
  else if t = nowNs s then releaseAt d t 0 s
  else s

/-- BARRIER (R91). -/
def execBarrier (r : DescRef) (s : State) : Host.Outcome State Fault Refusal :=
  .next (withStart s r.ctx.val 0 r.cnt.toNat 5 10 barrierStep)

/-- BARRIER_RELEASE (R91, R336): Bobbin time has reached the value of a waiting BARRIER. -/
def execBarrierRelease (r : DescRef) (s : State) : Host.Outcome State Fault Refusal :=
  match findDesc s r.ctx.val 0 r.cnt.toNat with
  | none => .next s
  | some d =>
    if dClass d = 5 ∧ dOp d = 10 ∧ d.run = .running ∧ dWord d 1 ≤ nowNs s then .next (releaseAt d (dWord d 1) 0 s)
    else .next s

/-- STEAM_PRE_RAMP_STEP (R421): the engines ME`k` of every bay that have no tile job begin Steam ops, where R153 and the
entry in force allow them. -/
def execSteamPreRampStep (k : Fin 8) (s : State) : Host.Outcome State Fault Refusal :=
  if !preRampDue s k.val || !s.cmpUp then .next s
  else .next (steamWave k.val s)

/-- START_WAVE_RELEASE (R155, R420): from 250 ns per wave after the release, an engine of the wave no longer holds its first
beat; in a restart of clock-gated engines those of the wave begin Steam ops, or their tile jobs. -/
def execStartWaveRelease (wave : Fin 8) (s : State) : Host.Outcome State Fault Refusal :=
  if s.waveT + 250 * wave.val ≤ nowNs s then
    let t := { s with waveHeld := s.waveHeld.filter (· != wave.val), waveDue := s.waveDue.filter (· != wave.val) }
    .next (if s.waveDue.contains wave.val && s.cmpUp then steamWave wave.val t else t)
  else .next s

/-- The bits of a code list, bit `c` set for code `c`. -/
def codeBits (p : Nat → Bool) (n : Nat) : Nat := ((List.range n).map (fun c => if p c then 2 ^ c else 0)).foldl (· + ·) 0

/-- The capability record under a revision (R92): what the device accepts under it (R97; DEDUCED below revision 3,
log 40). -/
def capsWords (rev : Nat) : List Word :=
  let ge := fun r => decide (r ≤ rev)
  let formats := codeBits (fun c => fmtDefined rev c) 16
  let epi := if rev = 1 then 0x07 else if rev = 2 then 0x0F else 0x1F
  let groups := if rev = 1 then 4 else 7
  let acc := if ge 3 then 7 else 5
  let comp := if rev = 1 then 0 else if rev = 2 then 1 else 3
  let w1 := formats + epi * 2 ^ 16 + groups * 2 ^ 32 + acc * 2 ^ 35 + comp * 2 ^ 38
  let w2 := (if rev = 1 then 1 else 64) + 64 * 2 ^ 8 + 256 * 2 ^ 16 + 65535 * 2 ^ 32 + 16 * 2 ^ 48
  let w3 := 16384 + 64 * 2 ^ 16 + 14 * 2 ^ 24 + 32768 * 2 ^ 32 + 20 * 2 ^ 48
  let w4 := 0x0002 + 0x007E * 2 ^ 16 + 0x00FE * 2 ^ 32 + 0x007E * 2 ^ 48
  let w5 := (if rev = 1 then 0x0E01 else 0x0F1F) + 0x0E * 2 ^ 16 + (if ge 3 then 0xFF else 0x1F) * 2 ^ 24
    + (if rev = 1 then 0 else 3) * 2 ^ 32
  [ 1 + 3 * 2 ^ 8 + 0x9160 * 2 ^ 16 + Config.stepping.toNat * 2 ^ 32, w1, w2, w3, w4, w5, 0, 0 ].map (BitVec.ofNat 64)

/-- A CAPS that starts (R92): the record is written before the descriptor retires. -/
def capsStep (d : Desc) (s : State) : State :=
  retire d 1 0 (hostWrite (dWord d 1) (wordBytes (capsWords (rf s (F.CTX_CFG_FENEX_REV d.ctx)))) s)

/-- CAPS (R92). -/
def execCaps (r : DescRef) (s : State) : Host.Outcome State Fault Refusal :=
  .next (noteIdle (withStart s r.ctx.val 0 r.cnt.toNat 5 11 capsStep))

end Sys2Proof.Machine
end

