-- ==== Sys2Proof/Machine/Elem.lean ====
section
/-!
DEFINITION. The elementwise operations (R82, R124 to R127, R165, R171 to R173, R514). A command runs its descriptor over
every element; the descriptor then waits for its retirement.
-/
namespace Sys2Proof.Machine

/-- What an ELEM descriptor works on: its tensors at the version of its step, PARAM, FUNC, and for DROPOUT the RNG key and
step number it draws with. -/
structure ElemCtx where
  in1 : Tensor
  in2 : Tensor
  outp : Tensor
  aux : Tensor
  b1 : Nat
  b2 : Nat
  bo : Nat
  ba : Nat
  count : Nat
  func : ActFunc
  gated : Bool
  param : FV
  strm : Nat
  origin : Nat
  key : Nat
  step : Nat
  deriving DecidableEq, Repr

/-- The work of an ELEM descriptor (R82), with the RNG key and step number of its step. -/
def elemCtx (s : State) (d : Desc) (key step : Nat) : ElemCtx :=
  let h := fun k => tensorEntry s d.ctx (bitsOf (dWord d 1) (16 * k) 16)
  let f := bitsOf (dWord d 2) 40 4
  { in1 := h 0, in2 := h 1, outp := h 2, aux := h 3,
    b1 := tBase s (h 0) (dStag d), b2 := tBase s (h 1) (dStag d), bo := tBase s (h 2) (dStag d),
    ba := tBase s (h 3) (dStag d), count := bitsOf (dWord d 2) 0 40, func := funcOf f,
    gated := (dOp d == 5 || dOp d == 6) && (f == 6 || f == 7), param := f32 (bitsOf (dWord d 3) 0 32),
    strm := bitsOf (dWord d 3) 32 32, origin := dWord d 4, key := key, step := step }

/-- The scale of a DROPOUT: fp32 of (1 / fp32 of (1 - PARAM)) (R126). -/
def dropScale (p : FV) : FV := f32Div (f32 0x3F800000) (f32Sub (f32 0x3F800000) p)

/-- Whether DROPOUT drops element `i` (R124 to R126). -/
def dropped (c : ElemCtx) (i : Nat) : Bool :=
  fvLt (uniformOf (randomWord c.key c.step c.strm ((c.origin + i) % 2 ^ 64))) c.param

/-- The value of one element, before its rounding to OUT, from the inputs it reads (R82, R126, R127, R171, R173); and the
gate written to AUX. -/
def elemOp (op : Nat) (c : ElemCtx) (i : Nat) (x y g : Option FV) : Option FV × Option FV :=
  match op with
  | 1 => (fv2 fvAdd x y, none)
  | 2 => (fv2 fvMul x y, none)
  | 3 => (x.map (fun a => fvMul a c.param), none)
  | 4 => (x, none)
  | 5 =>
    let r := x.map (fun a => actForward c.func c.param (rnd32 a))
    (r.map (·.1), if c.gated then r.map (·.2) else none)
  | 6 =>
    let gate := if c.gated then g else some fvZero
    match x, y, gate with
    | some a, some dy, some g => (some (fvMul (rnd32 dy) (actDeriv c.func c.param (rnd32 a) (rnd32 g))), none)
    | _, _, _ => (none, none)
  | _ => (if dropped c i then some fvZero else x.map (fun a => fvMul a (dropScale c.param)), none)

/-- A ROW or ELEM descriptor reads elements of tensors through the vector stages of bay SRAM (R198): the accesses, and the checks of
the words and of their copies (R234, R237). The words that cannot be corrected fail it. -/
def readVectors (d : Desc) (ts : List (Tensor × Nat × List Nat)) (s : State) : Desc × State × List Nat :=
  let r := ts.foldl (fun (p : State × List Nat) t =>
    let q := readElems .rowElem t.1 t.2.1 t.2.2 p.1
    (q.1, p.2 ++ q.2)) (s, [])
  let c := if r.1.copySyn = [] then (r.1, [])
    else checkCopies (fun p => p / 4096 == 7)
      (fun w => ts.any (fun t => t.2.2.any (fun p => (elemWords t.1 t.2.1 p).contains w))) r.1
  let f := failWords d r.2 c.1
  let g := failCopies f.1 c.2 f.2
  (g.1, g.2, r.2 ++ c.2.map (·.2))

/-- Whether an operation reads IN2 (R514). -/
def elemReads2 (op : Nat) : Bool := op == 1 || op == 2 || op == 6

/-- An ELEM descriptor runs (R127, R165, R234, R237): its inputs are checked, every element is formed and written with one
rounding, and what depends on an uncorrectable word is left as it was (DESIGN CHOICE for the moment of reading, log 110). -/
def elemRun (c : ElemCtx) (d : Desc) (s : State) : State :=
  let op := dOp d
  let ps := List.range c.count
  let ins := (c.in1, c.b1) :: (if elemReads2 op then [(c.in2, c.b2)] else [])
    ++ (if op = 6 ∧ c.gated then [(c.aux, c.ba)] else [])
  let f := readVectors d (ins.map (fun t => (t.1, t.2, ps))) s
  let bad := f.2.2
  let f := (f.1, f.2.1)
  let outs := ps.map (fun i =>
    let y := if elemReads2 op then elemGet f.2 bad c.in2 c.b2 i else some fvZero
    let g := if op = 6 ∧ c.gated then elemGet f.2 bad c.aux c.ba i else some fvZero
    (i, elemOp op c i (elemGet f.2 bad c.in1 c.b1 i) y g))
  let w := writeElems .rowElem c.outp c.bo (outs.map (fun o => (o.1, o.2.1))) f.2
  let f2 := failWords f.1 w.2 w.1
  let w2 := if op = 5 ∧ c.gated then writeElems .rowElem c.aux c.ba (outs.map (fun o => (o.1, o.2.2))) f2.2 else (f2.2, [])
  let f3 := failWords f2.1 w2.2 w2.1
  prefetch (finish f3.1 f3.2)

/-- An ELEM descriptor that draws no random value. -/
def elemStep (d : Desc) (s : State) : State := elemRun (elemCtx s d 0 0) d s

/-- A DROPOUT with the RNG key and number of its step (R124, R126). On a context without steps the spec gives no key and no
number: two free values (log 1) (DESIGN CHOICE, log 74). -/
def dropoutStep (d : Desc) (s : State) : State :=
  match d.step.bind (findStep s) with
  | some r => elemRun (elemCtx s d r.key r.num) d s
  | none =>
    let k := drawFree s
    let n := drawFree k.2
    elemRun (elemCtx n.2 d k.1 n.1) d n.2

/-- ADD (R127). -/
def execAdd (r : DescRef) (s : State) : Host.Outcome State Fault Refusal :=
  .next (withStart s r.ctx.val 0 r.cnt.toNat 2 1 elemStep)

/-- MUL (R127). -/
def execMul (r : DescRef) (s : State) : Host.Outcome State Fault Refusal :=
  .next (withStart s r.ctx.val 0 r.cnt.toNat 2 2 elemStep)

/-- SCALE (R127). -/
def execScale (r : DescRef) (s : State) : Host.Outcome State Fault Refusal :=
  .next (withStart s r.ctx.val 0 r.cnt.toNat 2 3 elemStep)

/-- CAST (R127). -/
def execCast (r : DescRef) (s : State) : Host.Outcome State Fault Refusal :=
  .next (withStart s r.ctx.val 0 r.cnt.toNat 2 4 elemStep)

/-- ACT (R171). -/
def execAct (r : DescRef) (s : State) : Host.Outcome State Fault Refusal :=
  .next (withStart s r.ctx.val 0 r.cnt.toNat 2 5 elemStep)

/-- ACT_BWD (R173). -/
def execActBwd (r : DescRef) (s : State) : Host.Outcome State Fault Refusal :=
  .next (withStart s r.ctx.val 0 r.cnt.toNat 2 6 elemStep)

/-- DROPOUT (R124 to R126). -/
def execDropout (r : DescRef) (s : State) : Host.Outcome State Fault Refusal :=
  .next (withStart s r.ctx.val 0 r.cnt.toNat 2 7 dropoutStep)

end Sys2Proof.Machine
end

