-- ==== Sys2Proof/Machine/Row.lean ====
section
/-!
DEFINITION. The row operations (R81, R165, R175 to R183): statistics, forward and backward algorithms, the gain and bias
gradients, and side memory.
-/
namespace Sys2Proof.Machine

/-- What a ROW descriptor works on (R81). The family is 1 NORM, 2 RMS or 3 SMAX. -/
structure RowCtx where
  fam : Nat
  bwd : Bool
  x : Tensor
  y : Tensor
  gain : Tensor
  bias : Tensor
  dy : Tensor
  dgain : Tensor
  dbias : Tensor
  stats : Tensor
  rows : Nat
  len : Nat
  causal : Bool
  eps : FV
  scale : FV
  offset : Int
  stag : Nat
  deriving DecidableEq, Repr

/-- The work of a ROW descriptor (R81). -/
def rowCtx (s : State) (d : Desc) : RowCtx :=
  let w := dWord d
  let t := fun i k => tensorEntry s d.ctx (bitsOf (w i) (16 * k) 16)
  { fam := if 4 ≤ dOp d then dOp d - 3 else dOp d, bwd := decide (4 ≤ dOp d),
    x := t 1 0, y := t 1 1, gain := t 1 2, bias := t 1 3, dy := t 2 0, dgain := t 2 1, dbias := t 2 2, stats := t 2 3,
    rows := bitsOf (w 3) 0 32, len := bitsOf (w 3) 32 24, causal := bitsOf (w 3) 56 1 == 1,
    eps := f32 (bitsOf (w 4) 0 32), scale := f32 (bitsOf (w 4) 32 32), offset := twos 32 (bitsOf (w 5) 15 32),
    stag := dStag d }

/-- Whether a handle names a tensor. -/
def named (t : Tensor) : Bool := t.handle != 0

/-- Element `i` of a tensor at the version in use, converted once to FP32 (R165). -/
def rowGet (s : State) (bad : List Nat) (c : RowCtx) (t : Tensor) (i : Nat) : Option FV :=
  (elemGet s bad t (tBase s t c.stag) i).map rnd32

/-- The elements of a row that take part (R177): all, or under CAUSAL those with `j ≤ i + OFFSET`. -/
def included (c : RowCtx) (r : Nat) : List Nat :=
  (List.range c.len).filter (fun j => c.fam != 3 || !c.causal || decide ((j : Int) ≤ ((r % c.x.d1 : Nat) : Int) + c.offset))

/-- All values known, or none. -/
def allKnown : List (Option FV) → Option (List FV)
  | [] => some []
  | none :: _ => none
  | some x :: xs => (allKnown xs).map (x :: ·)

/-- A sequential FP32 sum in increasing order from +0. -/
def f32Sum (xs : List FV) : FV := xs.foldl f32Add fvZero

/-- LEN converted to FP32. -/
def rowN (c : RowCtx) : FV := rnd32 (fvOfNat c.len)

/-- The maximum of a list (R121); minus infinity for none. -/
def fvMaxOf : List FV → FV
  | [] => .inf true
  | x :: xs => xs.foldl fvMax x

/-- The statistics of a row from its included elements (R177). -/
def rowStats (c : RowCtx) (xs : List FV) : FV × FV :=
  match c.fam with
  | 1 =>
    let mu := f32Div (f32Sum xs) (rowN c)
    let v := xs.foldl (fun v x => f32Add v (f32Mul (f32Sub x mu) (f32Sub x mu))) fvZero
    (mu, f32Rsqrt (f32Add (f32Div v (rowN c)) c.eps))
  | 2 =>
    let v := xs.foldl (fun v x => f32Add v (f32Mul x x)) fvZero
    (fvZero, f32Rsqrt (f32Add (f32Div v (rowN c)) c.eps))
  | _ =>
    match xs with
    | [] => (.inf true, fvZero)
    | _ =>
      let z := xs.map (fun x => f32Mul x c.scale)
      let m := fvMaxOf z
      (m, f32Div (f32 0x3F800000) (f32Sum (z.map (fun z => f32Exp (f32Sub z m)))))

/-- The normalised value of NORM and RMS (R177, R178). -/
def rowHat (c : RowCtx) (st : FV × FV) (x : FV) : FV :=
  if c.fam = 1 then f32Mul (f32Sub x st.1) st.2 else f32Mul x st.2

/-- One forward output (R177), with gain and bias where named. -/
def rowOut (c : RowCtx) (st : FV × FV) (x gain bias : FV) : FV :=
  if c.fam = 3 then f32Mul (f32Exp (f32Sub (f32Mul x c.scale) st.1)) st.2
  else
    let y := rowHat c st x
    let y := if named c.gain then f32Mul y gain else y
    if named c.bias then f32Add y bias else y

/-- The input gradients of a row from its included elements, output gradients and gains (R178). -/
def rowBack (c : RowCtx) (st : FV × FV) (xs dys gains : List FV) : List FV :=
  if c.fam = 3 then
    let t := f32Sum ((xs.zip dys).map (fun p => f32Mul p.1 p.2))
    (xs.zip dys).map (fun p => f32Mul (f32Mul p.1 (f32Sub p.2 t)) c.scale)
  else
    let xh := xs.map (rowHat c st)
    let gy := if named c.gain then (dys.zip gains).map (fun p => f32Mul p.1 p.2) else dys
    let mb := f32Div (f32Sum ((gy.zip xh).map (fun p => f32Mul p.1 p.2))) (rowN c)
    if c.fam = 1 then
      let ma := f32Div (f32Sum gy) (rowN c)
      (gy.zip xh).map (fun p => f32Mul st.2 (f32Sub (f32Sub p.1 ma) (f32Mul p.2 mb)))
    else (gy.zip xh).map (fun p => f32Mul st.2 (f32Sub p.1 (f32Mul p.2 mb)))

/-! ### Side memory (R180 to R183) -/

/-- The bay and entry of a row, when it uses one (R175, R180). -/
def sideEntry (slot r : Nat) : Option (Nat × Nat) :=
  let b := r / 64
  let e := slot + 64 * (b / 20) + r % 64
  if e ≤ 32767 then some (b % 20, e) else none

/-- The record of a bay that supplies a ROW descriptor's statistics (R182). The equal fields of the second case are taken as all
that R181 lists but the STATS handle, which names no source of the values (DESIGN CHOICE, log 122). -/
def sideHit (s : State) (d : Desc) (bay : Nat) : Bool :=
  let w := dWord d
  let fam := if 4 ≤ dOp d then dOp d - 3 else dOp d
  let par := if fam = 3 then bitsOf (w 4) 32 32 else bitsOf (w 4) 0 32
  let stats := bitsOf (w 2) 48 16
  s.side.any (fun r => r.bay == bay && r.ctx == d.ctx && r.stag == dStag d && r.op == fam && r.slot == bitsOf (w 5) 0 15
    && r.rows == bitsOf (w 3) 0 32 && r.len == bitsOf (w 3) 32 24 && r.par == par
    && (if 4 ≤ dOp d ∧ stats ≠ 0 then r.stats == stats
        else r.inp == bitsOf (w 1) 0 16 && r.causal == bitsOf (w 3) 56 1 && r.offset == bitsOf (w 5) 15 32))

/-- A side-memory entry as a pair of statistics (R180). -/
def sideRead (s : State) (bay e : Nat) : FV × FV :=
  let w := (smGet (fun _ => (0 : Word)) s.sideMem (32768 * bay + e)).toNat
  (f32 (bitsOf w 0 32), f32 (bitsOf w 32 32))

/-- A pair of statistics as a side-memory entry. -/
def sideWord (st : FV × FV) : Word := BitVec.ofNat 64 (fpEncode .fp32 st.1 + fpEncode .fp32 st.2 * 2 ^ 32)

/-- The side-memory entry that supplies the statistics of a row, by its key (R182). -/
def sideSource (s : State) (d : Desc) (r : Nat) : Option Nat :=
  match sideEntry (bitsOf (dWord d 5) 0 15) r with
  | some p => if sideHit s d p.1 then some (32768 * p.1 + p.2) else none
  | none => none

/-- Side-memory entries are read and checked (R180, R232, R234): those that cannot be corrected. -/
def checkSide (keys : List Nat) (s : State) : State × List Nat :=
  ((s.sideSyn.map (·.1)).filter keys.contains).foldl (fun p k =>
    let u := pathSide (k / 32768)
    let count := fun s : State => { bump F.TACK_CORR_SRAM 1 s with
      sideSyn := smSet (fun _ => 0) s.sideSyn k 0
      ceCount := smSet (fun _ => 0) s.ceCount u (smGet (fun _ => 0) s.ceCount u + 1) }
    match tackClassify (smGet (fun _ => 0) p.1.sideSyn k) with
    | .clean => p
    | .checkBit => (count p.1, p.2)
    | .dataBit i =>
      let w := smGet (fun _ => (0 : Word)) p.1.sideMem k ^^^ BitVec.ofNat 64 (2 ^ i)
      (count { p.1 with sideMem := smSet (fun _ => (0 : Word)) p.1.sideMem k w }, p.2)
    | .uncorrectable => (latchUnit u (bump F.TACK_UNCORR_SRAM 1 p.1), p.2 ++ [k])) (s, [])

/-- The side-memory entries that supply a descriptor's statistics are checked; a bad one fails it (R237). Side memory has no device
address: the notice names 0 (DESIGN CHOICE, log 122). -/
def readSide (d : Desc) (keys : List Nat) (s : State) : Desc × State × List Nat :=
  let r := checkSide keys s
  let f := r.2.foldl (fun (p : Desc × State) k =>
    ({ p.1 with fails := p.1.fails ++ [0x11] }, failNotice p.1 0x11 (pathSide (k / 32768)) 0 p.2)) (d, r.1)
  (f.1, f.2, r.2)

/-- The statistics of a row by their source (R178, R182): side memory, STATS, or the row itself. -/
def statsOf (s : State) (bad badSide : List Nat) (c : RowCtx) (d : Desc) (r : Nat) (xs : Option (List FV)) : Option (FV × FV) :=
  match sideSource s d r with
  | some k => if badSide.contains k then none else some (sideRead s (k / 32768) (k % 32768))
  | none =>
    if c.bwd && named c.stats then
      match rowGet s bad c c.stats (2 * r), rowGet s bad c c.stats (2 * r + 1) with
      | some a, some b => some (a, b)
      | _, _ => none
    else xs.map (rowStats c)

/-- The statistics of forward rows enter side memory with new Tack; a record of a row engine whose range is written there goes
(R180, R183). A descriptor that takes its statistics from a record writes nothing else into its range, and is not counted as writing
it: the rule does not say (DESIGN CHOICE, log 122). -/
def sideWrite (d : Desc) (sts : List (Nat × Option (FV × FV))) (s : State) : State :=
  let slot := bitsOf (dWord d 5) 0 15
  let put1 := fun (m : List (Nat × Word)) (p : Nat × Option (FV × FV)) =>
    match sideEntry slot p.1, p.2 with
    | some e, some st => smSet (fun _ => 0) m (32768 * e.1 + e.2) (sideWord st)
    | _, _ => m
  let fresh := sts.filterMap (fun p => if p.2.isNone then none
    else (sideEntry slot p.1).map (fun e => 32768 * e.1 + e.2))
  let clash := fun r : SideRec => spansMeet (sideSpan d r.bay) (sideOn r.slot r.rows r.bay) && !sideHit s d r.bay
  { s with sideMem := sts.foldl put1 s.sideMem, side := s.side.filter (fun r => !clash r),
           sideSyn := smKeep (fun k => !fresh.contains k) s.sideSyn }

/-! ### Running -/

/-- Every tensor a ROW descriptor reads, with the positions it reads of each. -/
def rowReads (c : RowCtx) (allSide : Bool) : List (Tensor × List Nat) :=
  let body := (List.range c.rows).flatMap (fun r => (included c r).map (r * c.len + ·))
  let vec := List.range c.len
  let opt := fun (t : Tensor) (ps : List Nat) => if named t then [(t, ps)] else []
  [(c.x, body)] ++ opt c.gain vec ++ (if c.bwd then
      [(c.dy, body)] ++ opt c.dgain vec ++ opt c.dbias vec
        ++ (if c.fam = 3 || allSide then [] else opt c.stats (List.range (2 * c.rows)))
    else opt c.bias vec)

/-- One row: its statistics, and its outputs by position (R177, R178). Excluded elements are +0. -/
def rowOne (s : State) (bad badSide : List Nat) (c : RowCtx) (d : Desc) (r : Nat) :
    Option (FV × FV) × List (Nat × Option FV) :=
  let js := included c r
  let get := fun t => js.map (fun j => rowGet s bad c t (r * c.len + j))
  let xs := allKnown (get c.x)
  let st := statsOf s bad badSide c d r xs
  let vec := fun t => js.map (fun j => if named t then rowGet s bad c t j else some fvZero)
  let vals : List (Option FV) :=
    if c.bwd then
      let st := if c.fam = 3 then some (fvZero, fvZero) else st
      match st, xs, allKnown (get c.dy), allKnown (vec c.gain) with
      | some st, some xs, some dys, some gs => (rowBack c st xs dys gs).map some
      | _, _, _, _ => js.map (fun _ => none)
    else
      ((get c.x).zip ((vec c.gain).zip (vec c.bias))).map (fun p =>
        match st, p.1, p.2.1, p.2.2 with
        | some st, some x, some g, some b => some (rowOut c st x g b)
        | _, _, _, _ => none)
  let got := js.zip vals
  (st, (List.range c.len).map (fun j => (r * c.len + j, match got.find? (fun p => p.1 == j) with
    | some p => p.2
    | none => some fvZero)))

/-- The term of a 64-row block for a column of DGAIN or DBIAS: exact, then one rounding (R179). -/
def blockTerm (s : State) (bad : List Nat) (c : RowCtx) (sts : List (Nat × Option (FV × FV))) (hat : Bool) (b j : Nat) :
    Option FV :=
  let rows := (List.range 64).map (64 * b + ·) |>.filter (· < c.rows)
  let terms := rows.map (fun r =>
    let dy := rowGet s bad c c.dy (r * c.len + j)
    if !hat then dy
    else match dy, rowGet s bad c c.x (r * c.len + j), (sts.find? (fun p => p.1 == r)).bind (·.2) with
      | some dy, some x, some st => some (fvMul dy (rowHat c st x))
      | _, _, _ => none)
  (allKnown terms).map (fun ts => rnd32 (fvSum ts))

/-- The new contents of DGAIN or DBIAS (R179): its contents and one term per block, in increasing block number. -/
def vecGrad (s : State) (bad : List Nat) (c : RowCtx) (sts : List (Nat × Option (FV × FV))) (hat : Bool) (t : Tensor) :
    List (Nat × Option FV) :=
  (List.range c.len).map (fun j =>
    (j, (List.range ((c.rows + 63) / 64)).foldl (fun a b => fv2 f32Add a (blockTerm s bad c sts hat b j))
      (rowGet s bad c t j)))

/-- A ROW descriptor runs. -/
def rowStep (d : Desc) (s : State) : State :=
  let c := rowCtx s d
  let allSide := (List.range c.rows).all (fun r => match sideEntry (bitsOf (dWord d 5) 0 15) r with
    | some p => sideHit s d p.1
    | none => false)
  let f := readVectors d ((rowReads c allSide).map (fun p => (p.1, tBase s p.1 c.stag, p.2))) s
  let bad := f.2.2
  let f := readSide f.1 ((List.range c.rows).filterMap (sideSource s d)) f.2.1
  let badSide := f.2.2
  let f := (f.1, f.2.1)
  let res := (List.range c.rows).map (fun i => (i, rowOne f.2 bad badSide c d i))
  let sts := res.map (fun p => (p.1, p.2.1))
  let outs := res.flatMap (fun p => p.2.2)
  let grads := if c.bwd then
      (if named c.dgain then [(c.dgain, vecGrad f.2 bad c sts true c.dgain)] else [])
        ++ (if named c.dbias then [(c.dbias, vecGrad f.2 bad c sts false c.dbias)] else [])
    else []
  let stat := if !c.bwd && named c.stats then
      [(c.stats, sts.flatMap (fun p => [(2 * p.1, p.2.map (·.1)), (2 * p.1 + 1, p.2.map (·.2))]))]
    else []
  let s1 := if c.bwd then f.2 else sideWrite d sts f.2
  let w := ((c.y, outs) :: grads ++ stat).foldl (fun (p : Desc × State) e =>
    let x := writeElems .rowElem e.1 (tBase p.2 e.1 c.stag) e.2 p.2
    failWords p.1 x.2 x.1) (f.1, s1)
  prefetch (finish w.1 w.2)

/-- NORM_FWD (R177). -/
def execNormFwd (r : DescRef) (s : State) : Host.Outcome State Fault Refusal :=
  .next (withStart s r.ctx.val 0 r.cnt.toNat 1 1 rowStep)

/-- RMS_FWD (R177). -/
def execRmsFwd (r : DescRef) (s : State) : Host.Outcome State Fault Refusal :=
  .next (withStart s r.ctx.val 0 r.cnt.toNat 1 2 rowStep)

/-- SMAX_FWD (R177). -/
def execSmaxFwd (r : DescRef) (s : State) : Host.Outcome State Fault Refusal :=
  .next (withStart s r.ctx.val 0 r.cnt.toNat 1 3 rowStep)

/-- NORM_BWD (R178, R179). -/
def execNormBwd (r : DescRef) (s : State) : Host.Outcome State Fault Refusal :=
  .next (withStart s r.ctx.val 0 r.cnt.toNat 1 4 rowStep)

/-- RMS_BWD (R178, R179). -/
def execRmsBwd (r : DescRef) (s : State) : Host.Outcome State Fault Refusal :=
  .next (withStart s r.ctx.val 0 r.cnt.toNat 1 5 rowStep)

/-- SMAX_BWD (R178). -/
def execSmaxBwd (r : DescRef) (s : State) : Host.Outcome State Fault Refusal :=
  .next (withStart s r.ctx.val 0 r.cnt.toNat 1 6 rowStep)

end Sys2Proof.Machine
end

