-- ==== Sys2Proof/Machine/Store.lean ====
section
/-!
DEFINITION. Shadowed fields and their commits (R190, R191, R221, R346, R491 to R494), the patrol scrubber and the correction
threshold (R217, R235), the traffic generator (R227, R228), and the device memory window (R371 to R376).
-/
namespace Sys2Proof.Machine

/-! ### GROUP_COMMIT (R491 to R494) -/

/-- The shadows of registers are put in force together (R493). -/
def commitRegs (as : List Nat) (s : State) : State := as.foldl (fun s a => putForce a (rdReg s a) s) s

/-- The shadowed bits of a register. -/
def shadowMask (a : Nat) : Nat := match regRow? a with | some r => r.shadow | none => 0

/-- A register's shadow reloaded from the values in force; its other fields stay (R493). -/
def reloadShadow (a : Nat) (s : State) : State :=
  let m := shadowMask a
  putReg a (BitVec.ofNat 64 ((rdReg s a).toNat - ((rdReg s a).toNat &&& m) + ((inForce s a).toNat &&& m))) s

/-- A commit that fails: every shadow of the block reloaded, and the error flag with the address of GROUP_COMMIT (R493). -/
def discardCommit (cause : Nat) (src : Source) (addr : Nat) (as : List Nat) (s : State) : State :=
  setupError cause src addr (as.foldl (fun s a => reloadShadow a s) s)

/-- The shadowed registers of SSTORE. -/
def sstoreRegs : List Nat := (List.range 16).map R.SSTORE_PCFG
/-- The shadowed registers of HBM. -/
def hbmRegs : List Nat := (List.range 16).map R.HBM_REG
/-- The shadowed registers of SEAM. -/
def seamRegs : List Nat :=
  [R.SEAM_STATE_BASE, R.SEAM_EFB_BASE, R.SEAM_MIRROR_BASE, R.SEAM_PRESS_BASE, R.SEAM_HOLD_BASE, R.SEAM_STATE_SIZE,
   R.SEAM_EFB_SIZE, R.SEAM_PEER, R.SEAM_MIRROR_SIZE]

/-! ### Shared-store partitions (R190, R191) -/

/-- Whether a partition with a committed change is quiet (R191). -/
def partQuiet (s : State) (p : Nat) (v : Word) : Bool :=
  let om := ff s (F.SSTORE_PCFG_MODE p)
  let oo := ff s (F.SSTORE_PCFG_OWNER p)
  let nm := bitsOf v.toNat 0 2
  let no := bitsOf v.toNat 2 6
  let cache := om == nm || (om != 0 && nm != 0) || s.cache == []
  let staging := om == nm || (om != 2 && nm != 2) || (gemmOrder s).all (fun d => heldPasses d == [])
  let owner := om != 1 || (nm == 1 && no == oo) || s.inflight.all (fun d => d.ctx != oo)
  cache && staging && owner

/-- A partition's range reads 0 with valid Tack (R191, R194). -/
def clearPart (p : Nat) (s : State) : State :=
  let lo := 0xF00000000000 + p * 0x1000000
  { s with mem := smKeep (fun a => !(lo ≤ a && a < lo + 0x1000000)) s.mem
           syn := smKeep (fun w => !(lo / 8 ≤ w && w < (lo + 0x1000000) / 8)) s.syn }

/-- A committed change is applied to a partition when it is quiet (R191). -/
def applyPart (p : Nat) (s : State) : State :=
  match s.partPend.find? (fun e => e.1 == p) with
  | none => s
  | some e =>
    if !partQuiet s p e.2 then s
    else
      let om := ff s (F.SSTORE_PCFG_MODE p)
      let nm := bitsOf e.2.toNat 0 2
      let s := { s with partPend := s.partPend.filter (fun x => x.1 != p)
                        pushed := if (om == 2) != (nm == 2) then [] else s.pushed }
      let s := putForce (R.SSTORE_PCFG p) e.2 s
      let s := if om ≠ 1 ∧ nm = 1 then clearPart p s else s
      put F.SSTORE_PSTAT_PENDING (rf s F.SSTORE_PSTAT_PENDING - 2 ^ p) s

/-- A write of 1 to SSTORE.GROUP_COMMIT (R190, R191, R493, R494). -/
def commitSstore (src : Source) (s : State) : State :=
  let modes := (List.range 16).map (fun p => rf s (F.SSTORE_PCFG_MODE p))
  if rf s F.SSTORE_PSTAT_PENDING ≠ 0 then discardCommit 3 src R.SSTORE_GROUP_COMMIT sstoreRegs s
  else if modes.contains 3 || !modes.contains 2 then discardCommit 2 src R.SSTORE_GROUP_COMMIT sstoreRegs s
  else
    let change := (List.range 16).filter (fun p => rdReg s (R.SSTORE_PCFG p) != inForce s (R.SSTORE_PCFG p))
    let stag := change.any (fun p => (ff s (F.SSTORE_PCFG_MODE p) == 2) != (rf s (F.SSTORE_PCFG_MODE p) == 2))
    let s := { s with partPend := change.map (fun p => (p, rdReg s (R.SSTORE_PCFG p)))
                      pushed := if stag then [] else s.pushed }
    let s := put F.SSTORE_PSTAT_PENDING (change.foldl (fun a p => a + 2 ^ p) 0) s
    change.foldl (fun s p => applyPart p s) s

/-- GROUP_COMMIT_SSTORE (R190, R191, R493). -/
def execGroupCommitSstore (s : State) : Host.Outcome State Fault Refusal :=
  .next (byHost R.SSTORE_GROUP_COMMIT (commitSstore .host) s)

/-- PARTITION_QUIET_APPLY (R191): where a change into or out of CACHE waits, the cache partitions are written back and invalidated;
the change is applied when the partition is quiet. -/
def execPartitionQuietApply (p : Fin 16) (s : State) : Host.Outcome State Fault Refusal :=
  .next (applyPart p.val (if cacheChanging s then flushCache s else s))

/-- A write of 1 to HBM.GROUP_COMMIT (R221): no rule discards it; the model applies it at once (DESIGN CHOICE, log 42), and what waited at
the controllers goes on (R220). -/
def commitHbm (s : State) : State := kickHeld (commitRegs hbmRegs s)

/-- GROUP_COMMIT_HBM (R221, R493). -/
def execGroupCommitHbm (s : State) : Host.Outcome State Fault Refusal :=
  .next (byHost R.HBM_GROUP_COMMIT commitHbm s)

/-! ### The SEAM commit (R346) -/

/-- The regions of a SEAM set as (base, size). -/
def seamRegions (s : State) : List (Nat × Nat) :=
  let st := rf s F.SEAM_STATE_SIZE_BYTES
  let ef := rf s F.SEAM_EFB_SIZE_BYTES
  let mi := rf s F.SEAM_MIRROR_SIZE_BYTES
  [(rf s F.SEAM_STATE_BASE, st), (rf s F.SEAM_EFB_BASE, ef), (rf s F.SEAM_MIRROR_BASE, mi),
   (rf s F.SEAM_PRESS_BASE, st + ef), (rf s F.SEAM_HOLD_BASE, 2 * slotSize mi)]

/-- Whether no two regions of a list overlap. -/
def disjoint : List (Nat × Nat) → Bool
  | [] => true
  | r :: rs => rs.all (fun q => r.2 == 0 || q.2 == 0 || r.1 + r.2 ≤ q.1 || q.1 + q.2 ≤ r.1) && disjoint rs

/-- Whether a SEAM set may be put in force (R346). -/
def seamSetOk (s : State) : Bool :=
  s.steps == [] && s.xfer.isNone && s.loadRx.isNone && s.fillRx.isNone && !pressRuns s && s.drain.isNone
    && rf s F.SEAM_STATE_SIZE_BYTES % 2048 == 0 && rf s F.SEAM_EFB_SIZE_BYTES % 2048 == 0
    && rf s F.SEAM_MIRROR_SIZE_BYTES % 2048 == 0
    && disjoint (seamRegions s) && (seamRegions s).all (fun r => inHbm r.1 r.2)

/-- A write of 1 to SEAM.GROUP_COMMIT (R346, R493). -/
def commitSeam (src : Source) (s : State) : State :=
  if seamSetOk s then bondForms (bonded s) (commitRegs seamRegs s) else discardCommit 2 src R.SEAM_GROUP_COMMIT seamRegs s

/-- GROUP_COMMIT_SEAM (R346, R493). -/
def execGroupCommitSeam (s : State) : Host.Outcome State Fault Refusal :=
  .next (byHost R.SEAM_GROUP_COMMIT (commitSeam .host) s)

/-! ### Patrol scrub and the correction threshold (R217, R235) -/

/-- A word of HBM itself is read and checked (R214, R215, R217): where a cache line lies above it, the word beneath a dirty line; the
word beneath a clean one was found correct when the line was filled. Answers whether it is uncorrectable. -/
def scrubWord (w : Nat) (s : State) : Bool × State :=
  match s.cache.find? (fun c => c.line == w / 64) with
  | none => let r := checkWord w (s, []); (r.2 != [], r.1)
  | some c =>
    let syn := smGet (fun _ => 0) c.underSyn w
    let keep := fun (m : List Host.Cell) (s : State) => { s with cache := s.cache.map (fun x => if x.line = c.line then
      { c with under := m, underSyn := smSet (fun _ => 0) c.underSyn w 0 } else x) }
    let corrected := fun (s : State) =>
      let p := pathOfAddr (8 * w)
      { bump F.HBM_CORR 1 s with ceCount := smSet (fun _ => 0) s.ceCount p (smGet (fun _ => 0) s.ceCount p + 1) }
    if !c.dirty then (false, s)
    else
      match tackClassify syn with
      | .clean => (false, s)
      | .checkBit => (false, corrected (keep c.under s))
      | .dataBit i =>
        let a := 8 * w + i / 8
        (false, corrected (keep (smSet memDefault c.under a (smGet memDefault c.under a ^^^ BitVec.ofNat 8 (2 ^ (i % 8)))) s))
      | .uncorrectable =>
        let s := bump F.HBM_UNCORR 1 s
        let s := if rf s F.HBM_UNCORR_ADDR_VALID = 1 then s
          else put F.HBM_UNCORR_ADDR_VALID 1 (put F.HBM_UNCORR_ADDR_ADDR (8 * w) s)
        (true, latchUnit (pathOfAddr (8 * w)) s)

/-- PATROL_SCRUB (R217): the scrubber reads and checks its next word of HBM, in increasing address, 64 bytes a burst under regulator
SCRUB. It reads the HBM word whatever the cache holds above it. -/
def execPatrolScrub (s : State) : Host.Outcome State Fault Refusal :=
  let w := s.scrubAt
  if rf s F.HBM_SCRUB_PERIOD = 0 ∨ !s.memUp ∨ tripped s
      ∨ regHeld s 13 (64 * (w / 8)) then .next s
  else
    let s1 := if w % 8 = 0 then bump (F.HBM_REGBYTES 13) 64 { s with qfullReqs := s.qfullReqs + 1 } else s
    let r := scrubWord w { s1 with scrubAt := (w + 1) % (0x00C000000000 / 8) }
    if r.1 then .next (checkError (stepCtx s) 0 0x11 (pathOfAddr (8 * w)) (8 * w) r.2) else .next r.2

/-- CE_THRESHOLD_SECOND (R235): a second of counting ends; one notice for each unit that reached the threshold (DEDUCED, log 76). -/
def execCeThresholdSecond (s : State) : Host.Outcome State Fault Refusal :=
  let t := rf s F.TACK_CE_THRESH_COUNT
  let hot := if t = 0 then [] else s.ceCount.filter (fun e => t ≤ e.2)
  .next (hot.foldl (fun s e => checkError (stepCtx s) 0 0 e.1 0 s) { s with ceCount := [] })

/-! ### The traffic generator (R227, R228) -/

/-- The device address of a local channel address (R208). -/
def channelAddr (stack chan la : Nat) : Nat :=
  let l := la / 2048
  let c := stack + 8 * chan
  (256 * l + (c ^^^ l % 256 ^^^ l / 256 % 256)) * 2048 + la % 2048

/-- The selected channels. -/
def tgChannels (s : State) : List (Nat × Nat) :=
  (List.range 8).flatMap (fun h =>
    ((List.range 32).filter (fun c => bitsOf (rf s (F.HBM_TG_MASK_CHANNELS h)) c 1 == 1)).map (fun c => (h, c)))

/-- The span of a run in bytes (R228): 0 stands for the whole channel, and no span is longer than one. Codes 1 to 10, which the
field's range leaves out, give their power of two all the same (DESIGN CHOICE, log 77). -/
def tgSpan (s : State) : Nat :=
  let l := rf s F.HBM_TG_CFG_SPAN_LOG2
  if l = 0 then 3 * 2 ^ 30 else min (2 ^ l) (3 * 2 ^ 30)

/-- A run begins as its registers stand (R227, R229): the record of the last run is cleared. -/
def tgBegin (s : State) : State :=
  let run : TgRun := ⟨rf s F.HBM_TG_CFG_DIR, rf s F.HBM_TG_CFG_PATTERN, rf s F.HBM_TG_CFG_ORDER, rf s F.HBM_TG_CFG_SEED,
    tgSpan s, tgChannels s⟩
  let s := (List.range 8).foldl (fun s h => put (F.HBM_TG_FAIL_CHANNELS h) 0 s) s
  put F.HBM_TG_CTL_BUSY 1 (put F.HBM_TG_ERRCNT 0 (putReg R.HBM_TG_FIRST 0 { s with tgBusy := true, tgRun := some run }))

/-- A write of 1 to HBM.TG_CTL.START, ARM as it stood before the write (R227, R482). One that is accepted while a run is BUSY begins
anew, with the record cleared and one run going (DESIGN CHOICE, log 77). -/
def tgStart (src : Source) (armed : Bool) (s : State) : State :=
  let ringsOff := (List.range 64).all (fun c => (List.range 4).all (fun r => !ringOn s c r))
  if armed && (ringsOff || rf s F.HBM_TG_CFG_DIR == 1) then tgBegin s else setupRefused src R.HBM_TG_CTL s

/-- TG_START (R227). -/
def execTgStart (s : State) : Host.Outcome State Fault Refusal :=
  .next (byHost R.HBM_TG_CTL (fun s => tgStart .host (rf s F.HBM_TG_CTL_ARM == 1) s) s)

/-- The next `n` bits of PRBS31, polynomial x^31 + x^28 + 1, and the register after them (R228; PRESUMED, log 161). -/
def prbsBits : Nat → Nat → Nat → Nat × Nat
  | 0, r, acc => (acc, r)
  | n + 1, r, acc =>
    let b := (bitsOf r 30 1 + bitsOf r 27 1) % 2
    prbsBits n (r * 2 % 2 ^ 31 + b) (acc * 2 + b)

/-- The PRBS31 word with a number, from a register (R228). -/
def prbsWord : Nat → Nat → Nat
  | 0, r => (prbsBits 64 r 0).1
  | n + 1, r => prbsWord n (prbsBits 64 r 0).2

/-- The data of a word of a run: its pattern at a local address of a channel (R228), seeded by SEED xor the channel number: the PRBS
register starts from it, address halves are taken xor it, the walking one starts at its bit, and its lowest bit chooses the value
that comes first in patterns 3 and 4. How the seed enters is not stated; reserved patterns give a free value (DESIGN CHOICE, log
77). -/
def tgWord (r : TgRun) (stack chan la : Nat) : Nat :=
  let seed := (r.seed ^^^ (stack + 8 * chan)) % 2 ^ 32
  let w := la / 8
  let second := (w + seed) % 2 == 1
  match r.pattern with
  | 0 => prbsWord w (if seed % 2 ^ 31 = 0 then 2 ^ 31 - 1 else seed % 2 ^ 31)
  | 1 => (la ^^^ seed) % 2 ^ 32 * (2 ^ 32 + 1)
  | 2 => 2 ^ ((w + seed) % 64)
  | 3 => if second then 0xAAAAAAAAAAAAAAAA else 0x5555555555555555
  | 4 => if second then 2 ^ 64 - 1 else 0
  | p => Config.tgData p (r.seed ^^^ (stack + 8 * chan)) w % 2 ^ 64

/-- The first `8 n` bytes of a channel hold what the generator wrote, with valid Tack (R227, R228). -/
def tgFill (r : TgRun) (stack chan : Nat) : Nat → State → State
  | 0, s => s
  | n + 1, s =>
    let a := channelAddr stack chan (8 * n)
    tgFill r stack chan n (synPut (a / 8) 0 (memWrite a (leBytes (tgWord r stack chan (8 * n)) 8) s))

/-- A local address of a channel's HBM, by device word: stack, channel and address (R208). -/
def channelOf (w : Nat) : Nat × Nat × Nat :=
  let sc := hbmStackChannel (8 * w)
  (sc.1, sc.2, (8 * w) / 2048 / 256 * 2048 + (8 * w) % 2048)

/-- Whether a place of a channel lies in a run. -/
def tgCovers (r : TgRun) (x : Nat × Nat × Nat) : Bool := r.chans.contains (x.1, x.2.1) && decide (x.2.2 < r.span)

/-- The place of a word in the order of a run (R228): in ORDER 2 as in ORDER 0, since by R208 granules in increasing order rotate
over the 64 banks (DEDUCED, log 162). -/
def tgRank (r : TgRun) (x : Nat × Nat × Nat) : Nat :=
  if r.order = 0 ∨ r.order = 2 then x.2.2 else Config.tgRank r.order x.2.2

/-- The failing words of a run with the first one in its order at the front (R228, R229); of several channels that fail there, any
order is as good (DESIGN CHOICE, log 77). -/
def tgFirst (r : TgRun) : List (Nat × Nat × Nat) → List (Nat × Nat × Nat)
  | [] => []
  | x :: xs =>
    match tgFirst r xs with
    | [] => [x]
    | y :: ys => if tgRank r y < tgRank r x then y :: x :: ys else x :: y :: ys

/-- A word that a run found different holds neither the pattern nor surely valid Tack: free values (log 1). -/
def tgSpoil (x : Nat × Nat × Nat) (s : State) : State :=
  let a := channelAddr x.1 x.2.1 (x.2.2 / 8 * 8)
  let f := drawFree s
  synPut (a / 8) (f.1 / 2 ^ 64 % 256) (memWrite a (leBytes (f.1 % 2 ^ 64) 8) f.2)

/-- Cache lines over a span that a run overwrites are gone (DESIGN CHOICE, log 77). -/
def tgUncache (r : TgRun) (s : State) : State :=
  let hit := fun c : CacheLine => tgCovers r (channelOf (64 * c.line))
  { (s.cache.filter hit).foldl (fun s c => dropLine c s) s with cache := s.cache.filter (fun c => !hit c) }

/-- A failing word is recorded (R229). -/
def tgFail (f : Nat × Nat × Nat) (s : State) : State :=
  let s := bump F.HBM_TG_ERRCNT 1 (put (F.HBM_TG_FAIL_CHANNELS f.1) (rf s (F.HBM_TG_FAIL_CHANNELS f.1) ||| 2 ^ f.2.1) s)
  if rf s F.HBM_TG_FIRST_VALID = 1 then s
  else put F.HBM_TG_FIRST_VALID 1 (put F.HBM_TG_FIRST_LOCAL f.2.2 (put F.HBM_TG_FIRST_CHAN (f.1 + 8 * f.2.1) s))

/-- The uncorrectable words that a read-only run finds, after it has read and checked every word of HBM that it covers (R214, R215,
R228): beneath a dirty line, the word that HBM holds. -/
def tgCheck (r : TgRun) (s : State) : State × List (Nat × Nat × Nat) :=
  let beneath := fun w => s.cache.any (fun c => c.dirty && c.line == w / 64)
  let c := checkWords (fun w => !onDie w && !beneath w && tgCovers r (channelOf w)) s
  let under := (s.cache.flatMap (·.underSyn)).filterMap (fun e =>
    if tgCovers r (channelOf e.1) && tackClassify e.2 == .uncorrectable then some (channelOf e.1) else none)
  (bump (F.HBM_REGBYTES 13) (r.span * r.chans.length) c.1, c.2.map channelOf ++ under)

/-- Whether a run waits for its regulator on a stack it covers: SCRUB for DIR 1, else OTHER (R218, R220, R228). -/
def tgHeld (s : State) (r : TgRun) : Bool :=
  r.dir < 3 && r.chans.any (fun c => regStops s (if r.dir = 1 then 13 else 15) c.1)

/-- A run ends (R228, R229): DIR 0 and 2 have overwritten the span, and DIR 1 has checked the Tack of every word of it. `fails` are
the words that DIR 0 read back different, as the stacks gave them. -/
def tgEnd (r : TgRun) (fails : List (Nat × Nat × Nat)) (s : State) : State :=
  let found := if r.dir = 0 then fails.filter (tgCovers r) else []
  let c :=
    if r.dir = 0 ∨ r.dir = 2 then
      (found.foldl (fun s x => tgSpoil x s) (r.chans.foldl (fun s c => tgFill r c.1 c.2 (r.span / 8) s) (tgUncache r s)), found)
    else if r.dir = 1 then tgCheck r s else (s, [])
  let c := (if r.dir = 0 ∨ r.dir = 2 then
    bump (F.HBM_REGBYTES 15) (r.span * r.chans.length * (if r.dir = 0 then 2 else 1)) c.1 else c.1, c.2)
  put F.HBM_TG_CTL_BUSY 0 ((tgFirst r c.2).foldl (fun s f => tgFail f s) { c.1 with tgBusy := false, tgRun := none })

/-- TG_RUN_COMPLETE (R228, R229). -/
def execTgRunComplete (fails : List (Fin 8 × Fin 32 × BitVec 32)) (s : State) : Host.Outcome State Fault Refusal :=
  match s.tgRun with
  | none => .next s
  | some r =>
    if !s.tgBusy || tripped s || tgHeld s r then .next s
    else .next (tgEnd r (fails.map (fun f => (f.1.val, f.2.1.val, f.2.2.toNat))) s)

/-! ### The device memory window (R371 to R376) -/

/-- The first address beyond the window (R371). -/
def windowEnd : Nat := 0x00BFC0000000

/-- WINDOW_READ (R371 to R375). One that the controllers hold back stays with the host (R220, R224). -/
def execWindowRead (addr : BitVec 48) (len : BitVec 12) (s : State) : Host.Outcome State Fault Refusal :=
  let a := addr.toNat
  let n := len.toNat
  if !linkUp s || n == 0 then .next s
  else if windowEnd < a + n then (if linkCxl s then .next s else .next (emit (.windowUr a) s))
  else if accessHeld s windowTraffic (byteRun a n) then .next s
  else if inStateWindow s a n then
    if s.ownBad then .next (windowRefuse 0x11 a n s)
    else if s.winHold then .next (bump F.HIF_WIN_RD_HELD 1 { s with heldReads := s.heldReads ++ [(a, n)] })
    else .next (windowServe s.groups a n s)
  else .next (windowServe s.groups a n s)

/-- Whether a host write that reaches the state window is discarded (R376). -/
def windowLocked (s : State) : Bool :=
  s.steps != [] || pressRuns s || s.xfer.isSome || s.loadRx.isSome || s.fillRx.isSome || s.restore.running

/-- WINDOW_WRITE (R371, R376): a word covered in part that cannot be corrected stays as it is, and the indication that answers the
merge is dropped, since no response to a host write carries one: it is counted and nothing else (DESIGN CHOICE, log 79). In a PCIe
mode an access beyond the window is answered as unsupported; fenced memory takes no
write (DESIGN CHOICE, log 79). -/
def execWindowWrite (addr : BitVec 48) (bytes : List Byte) (s : State) : Host.Outcome State Fault Refusal :=
  let a := addr.toNat
  let n := bytes.length
  if !linkUp s || n == 0 then .next s
  else if windowEnd < a + n then (if linkCxl s then .next s else .next (emit (.windowUr a) s))
  else if inStateWindow s a n && windowLocked s then
    .next (setupRefused .host R.HIF_WIN_WR_DROP (bump F.HIF_WIN_WR_DROP 1 s))
  else if !s.memUp ∨ accessHeld s windowTraffic (byteRun a n) then .next s
  else .next (writeRange windowTraffic a bytes (dropCopies (fun b m => decide (b < a + n ∧ a < b + m)) s)).1

end Sys2Proof.Machine
end

