-- ==== Sys2Proof/Machine/Route.lean ====
section
/-!
DEFINITION. Arriving head cells (R283, R293, R302, R304, R354), credits (R289), discovery (R301, R302), READY (R303), drain
rounds (R298, R299), and the commit of ROUTE (R279, R296).
-/
namespace Sys2Proof.Machine

/-! ### LINK notices (R277) -/

/-- A LINK notice (R277). -/
def linkNotice (n event gen width lanes value sev cause : Nat) (s : State) : State :=
  postNotice (stepCtx s) (aboutNow s
    { kind := 0x20, sev := sev, cause := cause,
      detail := n + event * 2 ^ 4 + gen * 2 ^ 9 + width * 2 ^ 11 + lanes * 2 ^ 16 + value % 2 ^ 32 * 2 ^ 32 }) s

/-- A LINK notice of a port with its generation and width in use. -/
def portNotice (n event lanes value : Nat) (s : State) : State :=
  linkNotice n event (rf s (F.UBVOR_PSTAT_GEN n)) (rf s (F.UBVOR_PSTAT_WIDTH n)) lanes value 0 0 s

/-! ### Discovery (R301, R302) -/

/-- A DISCOVER packet is recorded and the port is classified (R301, R302). -/
def discoverIn (n id valid port epoch : Nat) (s : State) : State :=
  let s := put (F.ROUTE_NBR_PEER_EPOCH n) epoch (put (F.ROUTE_NBR_PEER_PORT n) port
    (put (F.ROUTE_NBR_PEER_ASSIGNED n) valid (put (F.ROUTE_NBR_PEER_ID n) id s)))
  classify n (setPortRt n { portRt s n with discovered := true } s)

/-- DISCOVER_RECEIVE (R301, R302). -/
def execDiscoverReceive (port : Fin 12) (id : BitVec 14) (valid : Bool) (peerPort : BitVec 4) (epoch : BitVec 1)
    (s : State) : Host.Outcome State Fault Refusal :=
  if !portUp s port.val then .next s
  else .next (discoverIn port.val id.toNat valid.toNat peerPort.toNat epoch.toNat s)

/-- DISCOVER_PERIOD (R301). -/
def execDiscoverPeriod (port : Fin 12) (s : State) : Host.Outcome State Fault Refusal :=
  .next (sendDiscover port.val s)

/-- ROUTE.TSTAT.READY (R303). -/
def ready (s : State) : Bool :=
  assigned s && (activeBit s).isSome
    && (List.range 12).all (fun n => rf s (F.ROUTE_NBR_STATE n) != 4 && rf s (F.ROUTE_NBR_STATE n) != 3)

/-! ### Head cells (R283, R293) -/

/-- Whether a packet for this device is of the step context and waits behind its sender's fence, so that it keeps its places in the
receive buffer (R317). -/
def waitsFence (s : State) (p : Packet) : Bool :=
  let mine := if p.typ = 7 then bitsOf (leNat (p.payload.take 8)) 0 4 != 3
      && (bitsOf (leNat (p.payload.take 8)) 4 1 == 1 || bitsOf (leNat (p.payload.take 8)) 32 6 == stepCtx s)
    else !(p.payload == [] && p.offset == 0xFFFFFFFF#32)
      && (p.typ == 9 || (p.typ == 8 && p.tag.toNat % 64 == stepCtx s))
  mine && consumerUp s p.typ.toNat && !s.fenceNeed.contains (p.src.toNat, p.tclass.toNat)
    && 0 < fencesAhead s p.src.toNat p.tclass.toNat

/-- A packet for this device (R293 item 2): consumed; dropped and counted when its consumer's domain is fenced (R304); and a
transfer packet that the device relays goes on to its target, with itself as SRC (R354). What the packet does at its
endpoint is the command of its type (DESIGN CHOICE for the target, log 73). -/
def deliver (here : Nat) (inp : Nat × Nat) (relayTo : Option (BitVec 14)) (p : Packet) (s : State) : State :=
  let s := if waitsSeam s p then
      setArr here .seam (some inp) p
        { s with seamHeld := s.seamHeld ++ [⟨inp.1, inp.2, cellsHere here (some inp) p, p.epochBit⟩] }
    else if waitsFence s p then
      let k := fencesAhead s p.src.toNat p.tclass.toNat
      setArr here (.kept k) (some inp) p
        { s with fenceHeld := s.fenceHeld ++ [⟨inp.1, inp.2, cellsHere here (some inp) p, k, some p.epochBit⟩] }
    else endCells here (some inp) p (consume p s)
  match relayTo with
  | some t =>
    if p.typ = 12 then
      inject t.toNat p.tclass.toNat 12 p.stag.toNat p.tag.toNat p.offset.toNat p.payload
        (if p.abort then p.abortCause.toNat else 0) s
    else s
  | none => if consumerUp s p.typ.toNat then s else bump F.ROUTE_LOCAL_DROP 1 s

/-- A head cell arrives (R283, R293, R302). `inp` is the port whose channels carry it, and its channel; `here` the cells of the
packet that have come with it. A port that is MISSING carries nothing: a routed packet on it is dropped and consumed (DESIGN
CHOICE, log 46), but for one that narrowed while in MATCH (R269). -/
def headCell (port here : Nat) (inp : Nat × Nat) (relayTo : Option (BitVec 14)) (p : Packet) (s : State) : State :=
  let typ := p.typ.toNat
  if !classOk typ p.tclass.toNat then
    let s := latchDrop p 3 (bump F.ROUTE_MALFORMED 1 s)
    endCells here (some inp) p (if 4 ≤ typ ∧ typ ≤ 12 then consume p s else s)
  else if typ = 1 then s
  else if typ ≤ 3 then endCells here (some inp) p s
  else if quarantined s port then dropPkt F.ROUTE_QUAR_DROP 2 here (some inp) p s
  else if !joined s port then endCells here (some inp) p (consume p s)
  else if p.dst.toNat = selfId s ∧ assigned s then deliver here inp relayTo p s
  else routeOut here (some inp) p s

/-- HEAD_CELL_ROUTE (R293, R294): on a port that carries traffic; `more` counts the further cells of the packet that came in the
head cell's own block. -/
def execHeadCellRoute (port : Fin 12) (vc : Fin 8) (more : Fin 4) (relayTo : Option (BitVec 14)) (p : Packet) (s : State) :
    Host.Outcome State Fault Refusal :=
  if !portUp s port.val then .next s
  else .next (pump (headCell port.val (min (more.val + 1) (pktCells p)) (carrier s port.val, vc.val) relayTo p s))

/-! ### Credits (R289) -/

/-- The cumulative count of a channel in the two credit words (R289). -/
def creditCount (lo hi : BitVec 64) (v : Nat) : Nat := bitsOf lo.toNat (8 * v) 8 + 256 * bitsOf hi.toNat (8 * v) 8

/-- The sender takes the receiver's count of one channel. -/
def creditVc (n : Nat) (lo hi : BitVec 64) (s : State) (v : Nat) : State :=
  let x := vcRt s n v
  let c := creditCount lo hi v
  setVcRt n v { x with outst := x.outst - (c + 65536 - x.credited) % 65536, credited := c } s

/-- CREDIT_RECEIVE (R288, R289): the credit words, and the LINKCLK cycles that cells of the port waited for credit. A port that is
MISSING or in no use carries none (R302). -/
def execCreditReceive (port : Fin 12) (lo hi stall : BitVec 64) (s : State) : Host.Outcome State Fault Refusal :=
  let st := rf s (F.ROUTE_NBR_STATE port.val)
  if !portUp s port.val ∨ ((st = 0 ∨ st = 4) ∧ !joined s port.val) then .next s
  else
    let n := carrier s port.val
    .next (pump ((List.range 8).foldl (creditVc n lo hi) (bump (F.ROUTE_CREDIT_STALL port.val) stall.toNat s)))

/-- CREDIT_TIMER_EXPIRE (R289): freed cells not yet reported are reported. -/
def execCreditTimerExpire (port : Fin 12) (s : State) : Host.Outcome State Fault Refusal :=
  let n := carrier s port.val
  if (List.range 8).all (fun v => (vcRt s n v).freed == (vcRt s n v).reported) then .next s
  else .next (pump (sendCredit n s))

/-! ### Drain rounds (R297 to R299) -/

/-- The state of a table set (R295). -/
def setTable (e st : Nat) (s : State) : State := put (if e = 0 then F.ROUTE_TSTAT_STATE0 else F.ROUTE_TSTAT_STATE1) st s

/-- A DRAINING table becomes IDLE: DRAIN_LATE clears, and packets held at injection go out (R297 to R299, R307). -/
def tableIdle (e : Nat) (s : State) : State :=
  releaseHeld (put F.ROUTE_TSTAT_DRAIN_LATE 0 (setTable e 0 { s with drains := ⟨false, 0, 0, 0, 0, [], 0⟩ }))

/-- What this device contributes: INJe less CONSe, modulo 2⁶⁴ (R298). -/
def drainOwn (s : State) (e : Nat) : Nat :=
  let i := rf s (if e = 0 then F.ROUTE_INJ0 else F.ROUTE_INJ1)
  let c := rf s (if e = 0 then F.ROUTE_CONS0 else F.ROUTE_CONS1)
  (i + 2 ^ 64 - c) % 2 ^ 64

/-- A DRAIN packet to the + neighbour of an axis. The spec gives no layout of its words (DESIGN CHOICE, log 48). -/
def sendDrain (round axis value : Nat) (s : State) : State :=
  inject (neighbour s axis true) 0 5 0 axis (round % 2 ^ 32) (leBytes (round % 2 ^ 64) 8 ++ leBytes value 8) 0 s

/-- A value received on the axis in progress: added, and forwarded while the ring has not seen it all (R298). -/
def drainTake (value : Nat) (s : State) : State :=
  let d := s.drains
  let s := { s with drains := { d with total := (d.total + value) % 2 ^ 64, got := d.got + 1 } }
  if d.got + 1 < axisSize s d.axis - 1 then sendDrain d.round d.axis value s else s

/-- The round goes on (R298): early values of the axis are taken; a finished axis gives way to the next, which starts from
the total; and after the last one the table is IDLE when the total is 0. -/
def driveDrain (e : Nat) : Nat → State → State
  | 0, s => s
  | k + 1, s =>
    let d := s.drains
    if 4 ≤ d.axis then
      if d.total = 0 then tableIdle e (put F.ROUTE_TSTAT_ROUND d.round s)
      else { s with drains := { d with running := false } }
    else if axisSize s d.axis ≤ d.got + 1 then
      let s := { s with drains := { d with axis := d.axis + 1, got := 0 } }
      driveDrain e k (if d.axis + 1 < 4 ∧ 1 < axisSize s (d.axis + 1) then sendDrain d.round (d.axis + 1) d.total s else s)
    else
      match d.early.find? (fun x => x.1 == d.round && x.2.1 == d.axis) with
      | none => s
      | some x => driveDrain e k (drainTake x.2.2 { s with drains := { d with early := d.early.erase x } })

/-- A round begins (R298). -/
def startRound (round : Nat) (s : State) : State :=
  match drainingBit s with
  | none => s
  | some e =>
    let t := drainOwn s e
    let s := { s with drains := { s.drains with running := true, round := round, axis := 0, total := t, got := 0 } }
    driveDrain e (s.drains.early.length + 6) (if 1 < axisSize s 0 then sendDrain round 0 t s else s)

/-- DRAIN_ROUND_RECEIVE (R298): a value of a round already finished is dropped; one that is early is held. -/
def execDrainRoundReceive (axis : Fin 4) (bad : Bool) (round : BitVec 16) (value : BitVec 64) (s : State) :
    Host.Outcome State Fault Refusal :=
  let d := s.drains
  let x := (round.toNat, axis.val, value.toNat)
  if bad then .next (endpointDrop (pathColl axis.val) s)
  else match drainingBit s with
  | none => .next { s with drains := { d with early := d.early ++ [x] } }
  | some e =>
    if 32768 ≤ (round.toNat + 65536 - d.round) % 65536 ∨ (round.toNat = d.round ∧ !d.running) then .next s
    else
      let s := { s with drains := { d with early := d.early ++ [x] } }
      if d.running then .next (driveDrain e (d.early.length + 7) s) else .next s

/-- DRAIN_ROUND_GAP (R298): GAP_US after a round with a total other than 0, the next one begins. -/
def execDrainRoundGap (s : State) : Host.Outcome State Fault Refusal :=
  if s.drains.running then .next s else .next (startRound ((s.drains.round + 1) % 65536) s)

/-- DRAIN_LATE (R299): a LINK notice of event DEGRADE with LANES 0. The port it names is a free value (log 1). -/
def execDrainLate (s : State) : Host.Outcome State Fault Refusal :=
  if (drainingBit s).isNone then .next s
  else
    let f := drawFree s
    .next (linkNotice (f.1 % 16) 10 0 0 0 0 0 0 (put F.ROUTE_TSTAT_DRAIN_LATE 1 f.2))

/-- A DRAINING table becomes IDLE at once (R299). -/
def forceRelease (s : State) : State :=
  match drainingBit s with
  | none => s
  | some e => tableIdle e s

/-- FORCE_RELEASE (R299). -/
def execForceRelease (s : State) : Host.Outcome State Fault Refusal :=
  .next (byHost R.ROUTE_CTL forceRelease s)

/-! ### The ROUTE commit (R279, R296, R493) -/

/-- The registers of ROUTE with shadowed fields (R491). -/
def routeRegs : List Nat := [R.ROUTE_ID, R.ROUTE_SHAPE, R.ROUTE_CTL] ++ (List.range 12).map R.ROUTE_PLAN

/-- Whether a ROUTE set passes R279 and R296. -/
def routeSetOk (s : State) : Bool :=
  let n := (rf s F.ROUTE_SHAPE_X + 1) * (rf s F.ROUTE_SHAPE_Y + 1) * (rf s F.ROUTE_SHAPE_Z + 1) * (rf s F.ROUTE_SHAPE_W + 1)
  let e := rf s F.ROUTE_CTL_EPOCH
  let moves := e != ff s F.ROUTE_CTL_EPOCH || (activeBit s).isNone
  rf s F.ROUTE_ID_SELF < n && n ≤ 16384 && (List.range 12).all (fun p => rf s (F.ROUTE_PLAN_USE p) != 3)
    && (!moves || tableState s e == 0)

/-- The table change of an accepted set (R296). -/
def switchTables (moves : Bool) (e : Nat) (s : State) : State :=
  if !moves then s
  else
    match activeBit s with
    | none => setTable e 1 s
    | some o =>
      startRound 0 (setTable e 1 (setTable o 2 { s with drains := { s.drains with running := false, since := nowNs s } }))

/-- A write of 1 to ROUTE.GROUP_COMMIT (R279, R296, R301, R302, R493). With a new epoch, the fences of neighbours whose identity is
replaced are neither awaited nor kept (R317). -/
def commitRoute (src : Source) (s : State) : State :=
  if !routeSetOk s then discardCommit 2 src R.ROUTE_GROUP_COMMIT routeRegs s
  else
    let e := rf s F.ROUTE_CTL_EPOCH
    let moves := e != ff s F.ROUTE_CTL_EPOCH || (activeBit s).isNone
    let was := neighbours s
    let s := switchTables moves e (commitRegs routeRegs s)
    let gone := if moves then was.filter (fun n => !(neighbours s).contains n) else []
    let s := { s with fenceNeed := s.fenceNeed.filter (fun f => !gone.contains f.1)
                      fenceGot := s.fenceGot.filter (fun f => !gone.contains f.1) }
    (List.range 12).foldl (fun s n => sendDiscover n (classify n s)) s

/-- GROUP_COMMIT_ROUTE (R279, R296, R493). -/
def execGroupCommitRoute (s : State) : Host.Outcome State Fault Refusal :=
  .next (byHost R.ROUTE_GROUP_COMMIT (commitRoute .host) s)

end Sys2Proof.Machine
end

