-- ==== Sys2Proof/Machine/Ubvor.lean ====
section
/-!
DEFINITION. The Ubvor optical ports (R256 to R278): training, fibre faults, widths and narrowing, link-level retry, dead
links, and laser ageing. Lane sets are 16-bit bitmaps, bit k lane k.
-/
namespace Sys2Proof.Machine

/-! ### Lane sets and measurements -/

/-- The bitmap of the lanes that pass a test. -/
def laneSet (p : Nat → Bool) : Nat := (List.range 16).foldl (fun a k => if p k then a + 2 ^ k else a) 0

/-- A power field in steps of 0.25 dBm, two's complement (R278). -/
def power (v : Nat) : Int := (BitVec.ofNat 8 v).toInt

/-- The receive power of a lane. -/
def rxPower (s : State) (n k : Nat) : Int :=
  power (bitsOf (rdReg s (if k < 8 then R.UBVOR_RXP_LO n else R.UBVOR_RXP_HI n)).toNat (8 * (k % 8)) 8)

/-- The laser input of a lane. -/
def laserPower (s : State) (n k : Nat) : Int :=
  power (bitsOf (rdReg s (if k < 8 then R.UBVOR_LSP_LO n else R.UBVOR_LSP_HI n)).toNat (8 * (k % 8)) 8)

/-- The lanes whose receive power is above LOS. -/
def lit (s : State) (n : Nat) : Nat := laneSet (fun k => decide (power (rf s F.UBVOR_THRESH_LOS) < rxPower s n k))

/-- The lanes whose laser input is at or above LASER_LOW. -/
def lased (s : State) (n : Nat) : Nat :=
  laneSet (fun k => decide (power (rf s F.UBVOR_THRESH_LASER_LOW) ≤ laserPower s n k))

/-- A fault is set, or cleared with 0; a new one, and each clearing, posts a notice (R266). A fault that takes the place of another posts its
own event alone, and no CLEARED for the other (DESIGN CHOICE, log 156). -/
def setFault (n fault lanes value : Nat) (s : State) : State :=
  let old := rf s (F.UBVOR_PSTAT_FAULT n)
  let s := put (F.UBVOR_PSTAT_FAULT n) fault s
  if fault = old then s
  else if fault = 0 then portNotice n 13 lanes value s
  else portNotice n fault lanes value s

/-! ### Training (R262 to R265, R267) -/

/-- The generations a GEN setting offers: bit 0 Ubvor-1, bit 1 Ubvor-2 (R264). The reserved setting offers none
(DESIGN CHOICE, log 50). -/
def gensOffered (g : Nat) : Nat := match g with | 0 => 3 | 1 => 1 | 2 => 2 | _ => 0

/-- The generation chosen: the highest that both ends offer (R264). -/
def genChosen (own peer : Nat) : Nat := if (own &&& peer) / 2 % 2 = 1 then 2 else if (own &&& peer) % 2 = 1 then 1 else 0

/-- The identity in TRAIN blocks: 0x3FFF when none is assigned (R263, R280). -/
def trainId (s : State) : Nat := if assigned s then selfId s else 0x3FFF

/-- The lanes good here (R267): by the TUNE count and LANE_OFF, with receive power above LOS and laser input at or above LASER_LOW
now, and not bad in ACTIVE (R258, R268). -/
def goodHere (s : State) (n : Nat) : Nat :=
  let p := portRt s n
  laneSet (fun k => p.good.testBit k && (lit s n).testBit k && (lased s n).testBit k && !p.bad.testBit k)

/-- The body of a TRAIN block: its two words (R263). -/
def trainBody (w0 nonce : Nat) : List Byte := leBytes w0 8 ++ leBytes nonce 8

/-- The first word of a TRAIN block's body but for its lane number (R263). -/
def trainWord (s : State) (n : Nat) : Nat :=
  let p := portRt s n
  gensOffered (bitsOf p.cfg 1 2) * 2 ^ 4 + n * 2 ^ 8 + trainId s * 2 ^ 16 + goodHere s n * 2 ^ 32

/-- TRAIN blocks are sent on the lanes of a set, each with its lane number (R263). -/
def sendTrain (n lanes : Nat) (s : State) : State :=
  (lanesOf lanes).foldl (fun s k =>
    let h := outHeader n 1 [] s
    emit (.train n k (blockSymbols h.1 (trainBody (k + trainWord h.2 n) (portRt h.2 n).nonce))) h.2) s

/-- The port enters ID: a nonce is drawn (free value, log 1) and TRAIN blocks go out on every lane (R262, R263). -/
def enterId (n : Nat) (s : State) : State :=
  let f := drawFree s
  let s := setPortRt n { portRt f.2 n with nonce := f.1 % 2 ^ 64, seen := 0, peerGens := 0 } f.2
  sendTrain n 0xFFFF (portTo n 2 s)

/-- The widths: 16, 12 and 8 (R267). -/
def widthOf (lanes : Nat) : Nat := if 16 ≤ lanes then 16 else if 12 ≤ lanes then 12 else if 8 ≤ lanes then 8 else 0

/-- The code of a width in PSTAT and in notices (R277). -/
def widthCode (w : Nat) : Nat := match w with | 8 => 1 | 12 => 2 | 16 => 3 | _ => 0

/-- The least width a port may run (R267, R278). The reserved code 3 stands for eight lanes (DESIGN CHOICE, log 50). -/
def minWidth (s : State) (n : Nat) : Nat := match bitsOf (portRt s n).cfg 3 2 with | 1 => 12 | 2 => 16 | _ => 8

/-- The lanes good at both ends. -/
def goodBoth (s : State) (n : Nat) : Nat :=
  laneSet (fun k => (goodHere s n).testBit k && (portRt s n).peerGood.testBit k)

/-- The width and the active lanes of a lane set; none when the port may not run so narrow (R267). -/
def widthSet (s : State) (n : Nat) : Option (Nat × Nat) :=
  let ls := lanesOf (goodBoth s n)
  let w := widthOf ls.length
  if w < 8 ∨ w < minWidth s n then none else some (w, (ls.take w).foldl (fun a k => a + 2 ^ k) 0)

/-- The port enters ACTIVE: width and lanes, notice UP, DISCOVER (R262, R267, R277, R301). A lane that is not good at both ends now comes
back only with a full training (R269). -/
def enterActive (n : Nat) (w : Nat × Nat) (s : State) : State :=
  let s := put (F.UBVOR_PSTAT_LANES n) w.2 (put (F.UBVOR_PSTAT_WIDTH n) (widthCode w.1)
    (put (F.UBVOR_PSTAT_GEN n) (portRt s n).gen (put (F.UBVOR_PSTAT_STATE n) 6 s)))
  let s := setPortRt n { portRt s n with deadSaid := false, good := goodBoth s n } s
  let s := if rf s (F.UBVOR_PSTAT_FAULT n) = 6 then s else setFault n 0 w.2 0 s
  sendDiscover n (classify n (portNotice n 1 w.2 0 s))

/-- The lanes on which the lane map differs from the identity (R265). -/
def mapMoved (s : State) (n : Nat) : Nat :=
  laneSet (fun k => bitsOf (rf s (F.UBVOR_LANEMAP n)) (4 * k) 4 != k)

/-- Symbols corrected while TUNE counted, and the lanes found good (R262, R267). A lane without lock in TUNE has no count of its own and is not
good (DESIGN CHOICE, log 156). -/
def tuneDone (n : Nat) (lock : Nat) (syms : List Nat) (s : State) : State :=
  let s := bump (F.UBVOR_CORR_SYM n) syms.sum s
  let p := portRt s n
  let good := laneSet (fun k => lock.testBit k && decide (syms.getD k 0 ≤ rf s F.UBVOR_QUAL_LANE_SYM_MAX) && !(bitsOf p.cfg 16 16).testBit k)
  sendTrain n 0xFFFF (portTo n 5 (setPortRt n { p with good := good } s))

/-- A training state's condition is met (R262): `lock` are the lanes locked in RATE and TUNE, `syms` the symbols corrected
per lane in TUNE. A port that may not run so narrow sets FAULT to NARROW instead (R267). -/
def trainStep (n lock : Nat) (syms : List Nat) (s : State) : State :=
  let p := portRt s n
  match portState s n with
  | 1 =>
    let f := rf s (F.UBVOR_PSTAT_FAULT n)
    if f = 2 ∨ f = 3 ∨ f = 4 ∨ (lanesOf (lit s n)).length < 8 then s else enterId n s
  | 2 =>
    let g := genChosen (gensOffered (bitsOf p.cfg 1 2)) p.peerGens
    let f := rf s (F.UBVOR_PSTAT_FAULT n)
    if f = 5 ∨ f = 7 ∨ g = 0 ∨ (lanesOf p.seen).length < 8 then s
    else
      let s := portTo n 3 (setPortRt n { p with gen := g } s)
      if mapMoved s n = 0 then s else portNotice n 9 (mapMoved s n) 0 s
  | 3 => if (lanesOf lock).length < 8 then s else portTo n 4 s
  | 4 => tuneDone n lock syms s
  | 5 =>
    if p.narrowing then s else
    match widthSet s n with
    | none => setFault n 8 (goodBoth s n) 0 s
    | some w => enterActive n w s
  | _ => s

/-- TRAINING_STATE_DONE (R262, R264, R265, R267). -/
def execTrainingStateDone (port : Fin 12) (lock : BitVec 16) (syms : List (BitVec 32)) (s : State) :
    Host.Outcome State Fault Refusal :=
  if !s.rtrUp then .next s else .next (trainStep port.val lock.toNat (syms.map (·.toNat)) s)

/-- A port leaves DARK when it is enabled and the RTR domain is out of reset; a port that is disabled goes DARK (R262), and so
does one whose PORT table runs or has failed (R439, R441). -/
def portEnable (n : Nat) (s : State) : State :=
  let on := rf s (F.UBVOR_PCFG_ENABLE n) == 1 && !portBarred s n
  if on == (portState s n != 0) then s else startTraining n 1 s

/-- PORT_ENABLE (R262). -/
def execPortEnable (port : Fin 12) (s : State) : Host.Outcome State Fault Refusal := .next (portEnable port.val s)

/-- TRAINING_FAIL_RETRY (R262): 1 ms after a failure; after GEN_MISMATCH and LOOPBACK the port repeats ID. -/
def execTrainingFailRetry (port : Fin 12) (s : State) : Host.Outcome State Fault Refusal :=
  let n := port.val
  let st := portState s n
  let f := rf s (F.UBVOR_PSTAT_FAULT n)
  if st = 0 ∨ portUp s n ∨ portBarred s n then .next s
  else if st = 2 ∧ (f = 5 ∨ f = 7) then .next (enterId n s)
  else .next (portTo n 1 s)

/-! ### Link-level retry (R270 to R272) -/

/-- The peer has every block before `ack` (R270). -/
def ackTo (n ack : Nat) (s : State) : State :=
  let p := portRt s n
  if p.retry.any (fun b => b.1 == ack) || ack == p.txNext then
    let keep := p.retry.dropWhile (fun b => b.1 != ack)
    if keep.length = p.retry.length then s
    else pump (setPortRt n { p with retry := keep, resends := 0 } s)
  else s

/-- The sender resends: MARK with the number of the next DATA block, then every block not yet acknowledged (R271). -/
def resend (n : Nat) (s : State) : State :=
  let s := bump (F.UBVOR_RESEND n) 1 s
  let p := portRt s n
  let first := match p.retry with | b :: _ => b.1 | [] => p.txNext
  let s := setPortRt n { p with resendAt := first,
                                resends := if p.resends ≠ 0 ∧ p.resendAt = first then p.resends + 1 else 1 } s
  let h := outHeader n 2 [] s
  p.retry.foldl (fun s b => emitBlock n b.1 b.2 s) (emit (.mark n (blockSymbols h.1 (leBytes first 2))) h.2)

/-- A NAK goes in the header of the next outgoing block (R270): when nothing waits to leave, that is a DATA block with VALID 0
(DESIGN CHOICE, log 129). -/
def sendNak (n : Nat) (s : State) : State :=
  let p := portRt s n
  let s := pump (setPortRt n { p with nakDue := some p.failAt } s)
  let p := portRt s n
  if p.nakDue = none ∨ portState s n ≠ 6 ∨ p.narrowing ∨ 4096 ≤ p.retry.length then s
  else emitBlock n p.txNext [] (setPortRt n { p with txNext := (p.txNext + 1) % 65536, retry := p.retry ++ [(p.txNext, [])] } s)

/-- The receiver fails the block that has come: it drops it and every later one, and sends NAK with its number (R270). -/
def nakFrom (n num : Nat) (s : State) : State :=
  if (portRt s n).dropping then s
  else sendNak n (setPortRt n { portRt s n with dropping := true, failAt := num } s)

/-! ### Narrowing (R268, R269) -/

/-- An active lane becomes bad: the port leaves ACTIVE and narrows; new DATA blocks stop and bitmaps go out in TRAIN blocks on the
remaining lanes, as in WIDTH (R262, R268); the port is classified again (R302) (DEDUCED, log 128). -/
def narrow (n bad : Nat) (s : State) : State :=
  let p := portRt s n
  let s := if p.narrowing then s else bump (F.UBVOR_DEGRADE n) 1 s
  let s := put (F.UBVOR_PSTAT_GEN n) 0 (put (F.UBVOR_PSTAT_STATE n) 5 s)
  let act := rf s (F.UBVOR_PSTAT_LANES n)
  classify n (sendTrain n (act - (act &&& (p.bad ||| bad)))
    (setPortRt n { p with narrowing := true, bad := p.bad ||| bad, discovered := false, rejoin := joined s n } s))

/-- Lanes become bad: the port narrows when an active one is among them (R258, R268). -/
def badLanes (n bad : Nat) (s : State) : State :=
  if bad &&& rf s (F.UBVOR_PSTAT_LANES n) = 0 then setPortRt n { portRt s n with bad := (portRt s n).bad ||| bad } s
  else narrow n bad s

/-- LANE_BAD (R258, R268). -/
def execLaneBad (port : Fin 12) (lane : Fin 16) (s : State) : Host.Outcome State Fault Refusal :=
  if !portUp s port.val then .next s else .next (badLanes port.val (2 ^ lane.val) s)

/-- A block of a lane could not be decoded: with LANE_UNCORR_MAX or more of them within 1 ms the lane is bad (R268). -/
def noteUncorr (n lane : Nat) (s : State) : State :=
  let p := portRt s n
  let old := match p.uncorr.find? (fun e => e.1 == lane) with | some e => e.2 | none => []
  let l := old.filter (fun t => nowNs s < t + 1000000) ++ [nowNs s]
  let s := setPortRt n { p with uncorr := p.uncorr.filter (fun e => e.1 != lane) ++ [(lane, l)] } s
  if rf s F.UBVOR_QUAL_LANE_UNCORR_MAX ≤ l.length ∧ (rf s (F.UBVOR_PSTAT_LANES n)).testBit lane ∧ !p.bad.testBit lane then
    narrow n (2 ^ lane) s
  else s

/-- Whether a DATA block that the receiver would accept comes before its turn: the blocks of a bond are taken from the two ports
alternately, and one that is early waits (R347) (DESIGN CHOICE, log 49). -/
def beforeTurn (s : State) (n : Nat) (fecOk tackOk : Bool) : Bool :=
  let p := portRt s n
  let a := ff s F.SEAM_PEER_BOND_A
  bonded s && (n == a || n == ff s F.SEAM_PEER_BOND_B) && fecOk && tackOk && !p.dropping && p.rxPos == p.rxNext
    && (n == a) != (s.bondRx % 2 == 0)

/-- A block of a bond has been taken (R347). -/
def bondTaken (n : Nat) (s : State) : State :=
  if bonded s && (n == ff s F.SEAM_PEER_BOND_A || n == ff s F.SEAM_PEER_BOND_B) then { s with bondRx := s.bondRx + 1 } else s

/-- A DATA block arrives (R270): `ack` is the header's ACK, `more` the channels of its cells that belong to packets whose head
cells came in earlier blocks. A resent block that has been accepted is dropped (R271). -/
def blockIn (n : Nat) (fecOk tackOk : Bool) (ack : Nat) (more : List Nat) (s : State) : State :=
  let num := (portRt s n).rxPos
  let lane := blockLane s n num
  let s := setPortRt n { portRt s n with rxPos := (num + 1) % 65536 } s
  if !fecOk then noteUncorr n lane (nakFrom n num (bump (F.UBVOR_UNCORR_BLK n) 1 s))
  else
    let s := ackTo n ack s
    let p := portRt s n
    if p.dropping then s
    else if !tackOk then nakFrom n num (bump (F.UBVOR_TACK_FAIL n) 1 s)
    else if num ≠ p.rxNext then s
    else more.foldl (fun s v => moreCell (carrier s n) v s) (bondTaken n (setPortRt n { p with rxNext := (num + 1) % 65536 } s))

/-- DATA_BLOCK_RECEIVE (R270, R294): the symbols FEC corrected, whether it decoded and every Tack check passed, ACK, and the
channels of the further cells of packets begun in earlier blocks. -/
def execDataBlockReceive (port : Fin 12) (corrected : BitVec 16) (fecOk tackOk : Bool) (ack : BitVec 16) (more : List (Fin 8))
    (s : State) : Host.Outcome State Fault Refusal :=
  if !portUp s port.val || beforeTurn s port.val fecOk tackOk then .next s
  else .next (blockIn port.val fecOk tackOk ack.toNat (more.map (·.val)) (bump (F.UBVOR_CORR_SYM port.val) corrected.toNat s))

/-- NAK_RECEIVE (R270, R271). -/
def execNakReceive (port : Fin 12) (ack : BitVec 16) (s : State) : Host.Outcome State Fault Refusal :=
  if !portUp s port.val then .next s
  else if (portRt s port.val).narrowing then .next (ackTo port.val ack.toNat s)
  else .next (resend port.val (ackTo port.val ack.toNat s))

/-- ACK_TIMEOUT (R271). -/
def execAckTimeout (port : Fin 12) (s : State) : Host.Outcome State Fault Refusal :=
  if portState s port.val ≠ 6 ∨ (portRt s port.val).retry = [] then .next s else .next (resend port.val s)

/-- MARK_RECEIVE (R259, R271): the number of the next DATA block, and the header's ACK. -/
def execMarkReceive (port : Fin 12) (num ack : BitVec 16) (s : State) : Host.Outcome State Fault Refusal :=
  if !portUp s port.val then .next s
  else .next (ackTo port.val ack.toNat
    (setPortRt port.val { portRt s port.val with rxPos := num.toNat, dropping := false, nakDue := none } s))

/-- NAK_REPEAT_TIMEOUT (R270): no MARK has come. -/
def execNakRepeatTimeout (port : Fin 12) (s : State) : Host.Outcome State Fault Refusal :=
  let p := portRt s port.val
  if !portUp s port.val ∨ !p.dropping then .next s else .next (sendNak port.val s)

/-- The bitmaps of both ends are known: the new width and lanes, notice DEGRADE, and a resend; the port is ACTIVE again (R268,
R271, R301). A width that the port may not run leaves it narrowing: it is then declared dead (R273). -/
def narrowed (n : Nat) (s : State) : State :=
  match widthSet s n with
  | none => s
  | some w =>
    let s := put (F.UBVOR_PSTAT_LANES n) w.2 (put (F.UBVOR_PSTAT_WIDTH n) (widthCode w.1)
      (put (F.UBVOR_PSTAT_GEN n) (portRt s n).gen (put (F.UBVOR_PSTAT_STATE n) 6 s)))
    let s := setPortRt n { portRt s n with narrowing := false, good := goodBoth s n } s
    sendDiscover n (classify n (resend n (portNotice n 10 w.2 0 s)))

/-- A TRAIN block arrives (R263 to R266, R268): in ID it builds the lane map and the choice of generation; in WIDTH and while
narrowing it carries the peer's bitmap. -/
def trainIn (n lane : Nat) (w0 : Nat) (nonce : Nat) (s : State) : State :=
  let p := portRt s n
  let s := setPortRt n { p with peerGood := bitsOf w0 32 16 } s
  if p.narrowing then narrowed n s
  else match portState s n with
  | 2 =>
    if nonce = p.nonce then setFault n 5 0xFFFF 0 s
    else
      let k := bitsOf w0 0 4
      let s := put ⟨R.UBVOR_LANEMAP n, 4 * k, 4⟩ lane s
      let s := setPortRt n { portRt s n with seen := p.seen ||| 2 ^ k, peerGens := bitsOf w0 4 2 } s
      let f := rf s (F.UBVOR_PSTAT_FAULT n)
      if genChosen (gensOffered (bitsOf p.cfg 1 2)) (bitsOf w0 4 2) = 0 then setFault n 7 0xFFFF 0 s
      else if f = 5 ∨ f = 7 then setFault n 0 0xFFFF 0 s else s
  | 6 =>
    let act := rf s (F.UBVOR_PSTAT_LANES n)
    let lost := act - (act &&& bitsOf w0 32 16)
    if lost = 0 then s else narrowed n (narrow n lost s)
  | _ => s

/-- TRAIN_BLOCK_RECEIVE (R259, R263, R265): on a wavelength, with its first word, its nonce and the header's ACK, which counts while the
port exchanges DATA blocks too (R270). -/
def execTrainBlockReceive (port : Fin 12) (lane : Fin 16) (w0 nonce : BitVec 64) (ack : BitVec 16) (s : State) :
    Host.Outcome State Fault Refusal :=
  if portState s port.val = 0 then .next s
  else .next (trainIn port.val lane.val w0.toNat nonce.toNat (if portUp s port.val then ackTo port.val ack.toNat s else s))

/-! ### Fibre faults (R266) -/

/-- Eight power readings as one register. -/
def powerWord (l : List (BitVec 8)) (from_ : Nat) : Nat :=
  (List.range 8).foldl (fun a i => a + (l.getD (from_ + i) 0x80).toNat * 2 ^ (8 * i)) 0

/-- The mean receive power of the lanes above LOS, in steps of 0.25 dBm. The spec does not say how it is rounded: where it is
not whole, a free value chooses between its neighbours (log 1). -/
def meanPower (s : State) (n : Nat) : Int × State :=
  let ls := lanesOf (lit s n)
  let sum := ls.foldl (fun a k => a + rxPower s n k) 0
  let f := drawFree s
  if ls.length = 0 then (0, s)
  else if sum.emod ls.length = 0 then (sum.ediv ls.length, s)
  else (sum.ediv ls.length + (f.1 % 2 : Nat), f.2)

/-- Whether the mean receive power of the lanes above LOS lies below LOW. -/
def lowPower (s : State) (n : Nat) : Bool :=
  let ls := lanesOf (lit s n)
  ls != [] && decide (ls.foldl (fun a k => a + rxPower s n k) 0 < power (rf s F.UBVOR_THRESH_LOW) * ls.length)

/-- The lanes whose receive power is below LOS. -/
def unlit (s : State) (n : Nat) : Nat := laneSet (fun k => decide (rxPower s n k < power (rf s F.UBVOR_THRESH_LOS)))

/-- Receive power below LOS on every lane (R266). -/
def dark (s : State) (n : Nat) : Bool := unlit s n == 0xFFFF

/-- The class of a port's fibres, in LIGHT and in ACTIVE (R266). -/
def fibreClass (s : State) (n : Nat) : Nat :=
  if 9 ≤ 16 - (lanesOf (lased s n)).length then 2
  else if dark s n then (if power (rf s F.UBVOR_THRESH_REV) < power (rf s (F.UBVOR_REVP_POWER n)) then 3 else 4)
  else if lowPower s n then 6 else 0

/-- The lanes a class concerns. -/
def classLanes (s : State) (n c : Nat) : Nat :=
  match c with
  | 2 => 0xFFFF - lased s n
  | 6 => lit s n
  | _ => 0xFFFF

/-- The measurements of a port are taken, in LIGHT and ACTIVE its fibres are classified (R266), and in ACTIVE a lane without light or
laser input is bad (R258, R268). -/
def measure (n : Nat) (rxp lsp : List (BitVec 8)) (rev : Nat) (s : State) : State :=
  let s := put (F.UBVOR_REVP_POWER n) rev
    (put (F.UBVOR_LSP_HI n) (powerWord lsp 8) (put (F.UBVOR_LSP_LO n) (powerWord lsp 0)
      (put (F.UBVOR_RXP_HI n) (powerWord rxp 8) (put (F.UBVOR_RXP_LO n) (powerWord rxp 0) s))))
  if portState s n ≠ 1 ∧ !portUp s n then s
  else
    let c := fibreClass s n
    let s := if c = rf s (F.UBVOR_PSTAT_FAULT n) then s
      else if c = 6 then
        let m := meanPower s n
        setFault n 6 (classLanes s n 6) (BitVec.ofInt 32 m.1).toNat m.2
      else setFault n c (classLanes s n c) 0 s
    let p := portRt s n
    let bad := laneSet (fun k => ((unlit s n).testBit k || !(lased s n).testBit k) && !p.bad.testBit k
      && (rf s (F.UBVOR_PSTAT_LANES n)).testBit k)
    if portUp s n ∧ bad ≠ 0 then narrow n bad s else s

/-- FIBRE_FAULT_CLASSIFY (R266): receive power and laser input per lane, and reverse power. -/
def execFibreFaultClassify (port : Fin 12) (rxp lsp : List (BitVec 8)) (rev : BitVec 8) (s : State) :
    Host.Outcome State Fault Refusal :=
  if portState s port.val = 0 then .next s else .next (measure port.val rxp lsp rev.toNat s)

/-! ### Dead links (R273, R274, R300) -/

/-- Whether the table in use names a port (R274). -/
def portInUse (s : State) (n : Nat) : Bool :=
  match activeBit s with
  | none => false
  | some e =>
    let base := if e = 0 then R.ROUTE_TBL0 0 else R.ROUTE_TBL1 0
    s.regs.any (fun r => base ≤ r.1 && r.1 < base + 0x4000 && (List.range 8).any (fun j => bitsOf r.2.toNat (8 * j) 4 == n))

/-- Whether this device's own packets to a peer leave by a port, with no bond to carry them on. -/
def portTo? (s : State) (n peer : Nat) : Bool :=
  match activeBit s with
  | none => false
  | some e => tableEntry s e peer % 16 == n && !bonded s

/-- What is in progress with the partner or the mirror's owner over a dead port fails (R351, R352, R363; DEDUCED, log 51). -/
def peerLost (n : Nat) (s : State) : State :=
  let par := ff s F.SEAM_PEER_PARTNER_VALID == 1 && portTo? s n (ff s F.SEAM_PEER_PARTNER)
  let own := ff s F.SEAM_PEER_MIRROR_OF_VALID == 1 && portTo? s n (ff s F.SEAM_PEER_MIRROR_OF)
  let s := if par then
      mirrorLost (ff s F.SEAM_PEER_PARTNER) (s.seamTx.getLastD (rf s F.STEPSTAT_LAST_HEM_STEP)) { s with seamTx := [], mcValid := false }
    else s
  let s := if par && s.drain.isSome then abandon true 3 s else s
  match s.xfer with
  | some x => if (x.kind = 1 ∧ par) ∨ (x.kind ≠ 1 ∧ own) then sourceDone 2 s else s
  | none => s

/-- The live steps that are OPEN or CLOSING fail when a port in use is declared dead (R274). -/
def linkFails (n : Nat) (s : State) : Bool × State :=
  let hit := if portInUse s n then s.steps.filter (fun r => r.st == .opened || r.st == .closing) else []
  (hit != [], hit.foldl (fun s r => raiseSev r.num 1 0x14 s) s)

/-- A port is declared dead (R273, R274, R300). -/
def portDead (n : Nat) (s : State) : State :=
  let r := linkFails n (bump (F.UBVOR_DEAD n) 1 s)
  let s := linkNotice n 11 (rf s (F.UBVOR_PSTAT_GEN n)) (rf s (F.UBVOR_PSTAT_WIDTH n)) (rf s (F.UBVOR_PSTAT_LANES n)) 0
    (if r.1 then 1 else 0) (if r.1 then 0x14 else 0) r.2
  let s := pump (startTraining n 1 (peerLost n s))
  setPortRt n { portRt s n with deadSaid := true } s

/-- PORT_DEAD (R273): RETRY_MAX resends from one block, or the port has been out of ACTIVE for DEAD_US, or a narrowing leaves it too
narrow. A port that stays out of ACTIVE is declared dead once: the training that follows takes longer than DEAD_US (R274;
DEDUCED, log 130). -/
def execPortDead (port : Fin 12) (s : State) : Host.Outcome State Fault Refusal :=
  let p := portRt s port.val
  if !s.rtrUp ∨ p.deadSaid ∨ (portState s port.val = 6 ∧ p.resends < rf s F.UBVOR_RETRY_RETRY_MAX) then .next s
  else .next (portDead port.val s)

/-- A write of 1 to PCFGn.RETRAIN (R275). A port that stays DARK is not trained (R441). -/
def retrain (n : Nat) (now : Bool) (s : State) : State :=
  if portBarred s n then s
  else if now then pump (startTraining n 1 (peerLost n (linkFails n s).2))
  else if s.steps = [] then pump (startTraining n 1 s)
  else put (F.UBVOR_PSTAT_RETRAIN_PEND n) 1 s

/-- RETRAIN (R275). -/
def execRetrain (port : Fin 12) (now : Bool) (s : State) : Host.Outcome State Fault Refusal :=
  .next (byHost (R.UBVOR_PCFG port.val) (retrain port.val now) s)

/-! ### Laser ageing (R276) -/

/-- The samples of a lane, oldest first. -/
def samplesOf (p : PortRt) (k : Nat) : List (Nat × Nat × Nat) :=
  match p.samples.find? (fun e => e.1 == k) with | some e => e.2 | none => []

/-- The samples of a lane set. -/
def setSamples (p : PortRt) (k : Nat) (l : List (Nat × Nat × Nat)) : PortRt :=
  { p with samples := (p.samples.filter (fun e => e.1 != k)) ++ [(k, l)] }

/-- The least-squares line of bias against time (R276): with n samples and times from the last one, S = n Σtb − Σt Σb and
D = n Σt² − (Σt)². The time from the last sample until the line reaches `lim` is (n D lim − D Σb + S Σt) / (n S).
None below 16 samples or where the slope is not positive. -/
def projection (lim : Nat) (l : List (Nat × Nat × Nat)) : Option (Int × Int) :=
  let n : Int := l.length
  let t0 : Int := (l.getLastD (0, 0, 0)).1
  let st := l.foldl (fun a x => a + ((x.1 : Int) - t0)) 0
  let sb := l.foldl (fun a x => a + (x.2.1 : Int)) 0
  let stt := l.foldl (fun a x => a + ((x.1 : Int) - t0) * ((x.1 : Int) - t0)) 0
  let stb := l.foldl (fun a x => a + ((x.1 : Int) - t0) * (x.2.1 : Int)) 0
  let slope := n * stb - st * sb
  let d := n * stt - st * st
  if l.length < 16 ∨ slope ≤ 0 ∨ d ≤ 0 then none
  else some (max 0 ((lim : Int) * n * d - sb * d + slope * st), n * slope)

/-- One lane is sampled at the AON time (whole mA and the projected hours are rounded down: DESIGN CHOICE, log 156): `bias` in
hundredths of a mA. The laser input of the last measurement stands in the sample; a rise of 3 dB or more clears the earlier ones
(R276) (DESIGN CHOICE, log 106). -/
def sampleLane (n k bias : Nat) (s : State) : State :=
  let p := portRt s n
  let old := samplesOf p k
  let las := (laserPower s n k + 128).toNat
  let last := old.getLastD (0, 0, las)
  let t := s.aon / 2 ^ 40
  let l := if last.2.2 + 12 ≤ las then [(t, bias, las)] else ((old ++ [(t, bias, las)]).reverse.take 64).reverse
  let s := put ⟨if k < 8 then R.UBVOR_BIAS_LO n else R.UBVOR_BIAS_HI n, 8 * (k % 8), 8⟩ (min 255 (bias / 100)) s
  let p := setSamples (portRt s n) k l
  let s := setPortRt n p s
  match projection (100 * rf s F.UBVOR_AGE_LIMIT_MA) l with
  | none => s
  | some q =>
    let hour : Int := 3600 * 10 ^ 9
    let hours := (q.1 / (hour * q.2)).toNat
    let due : Bool := match p.warned.find? (fun e => e.1 == k) with
      | some e => decide (e.2 + 24 * 3600 * 10 ^ 9 ≤ t)
      | none => true
    if decide (q.1 < hour * q.2 * (rf s F.UBVOR_AGE_WARN_H : Int)) && due then
      portNotice n 12 (2 ^ k) hours
        (setPortRt n { p with warned := (p.warned.filter (fun e => e.1 != k)) ++ [(k, t)] } s)
    else s

/-- LASER_AGEING_SAMPLE (R276): the launch bias of each lane of each port, in hundredths of a mA. -/
def execLaserAgeingSample (bias : List (List (BitVec 16))) (s : State) : Host.Outcome State Fault Refusal :=
  if rf s F.UBVOR_AGE_SAMPLE_MIN = 0 then .next s
  else
    .next ((List.range 12).foldl (fun s n =>
      if rf s (F.UBVOR_PCFG_ENABLE n) = 1 then
        (List.range 16).foldl (fun s k => sampleLane n k ((bias.getD n []).getD k 0).toNat s) s
      else s) s)

end Sys2Proof.Machine
end

