-- ==== Sys2Proof/Machine/Bobbin.lean ====
section
/-!
DEFINITION. Bobbin time (R330 to R335): the rate word, the tick, the exchange with the parent, the servo, and the setting of a
time source. Stamps are in units of 1/256 ns, modulo 2⁶⁴ (R332).
-/
namespace Sys2Proof.Machine

/-- The rate word without trim, in units of 2⁻⁴⁰ ns per tick: 5.0 ns on FIO, and 16 × 10⁹ / f_ROOT rounded to the nearest
unit otherwise (R330, R405). -/
def nominalRate (s : State) : Nat :=
  let f := rf s F.CLK_STAT_ROOT_MHZ
  if rf s F.CLK_CTL_SRC = 0 ∨ f = 0 then 5 * 2 ^ 40 else (16000 * 2 ^ 40 + f / 2) / f

/-- BOBBIN.RATE: the rate word in use, with trim; on FIO there is none (R330, R342, R405). -/
def bobRate (s : State) : Nat :=
  if rf s F.CLK_CTL_SRC = 0 then nominalRate s else ((nominalRate s : Int) + s.servo.trim).toNat

/-- One CTLCLK tick: Bobbin time moves on while the RTR domain runs (R330, R331), and AON time with it; waits for a neighbour go on
(R325, R341). -/
def tick (s : State) : State :=
  let t := { s with bob := if s.rtrUp then (s.bob + bobRate s) % 2 ^ 104 else s.bob, aon := s.aon + nominalRate s }
  idleBond (countWaits ((nowNs t + 2 ^ 64 - nowNs s) % 2 ^ 64) t)

/-- A difference of stamps, modulo 2⁶⁴ (R332). -/
def stampDiff (a b : Nat) : Int := (BitVec.ofNat 64 (a + 2 ^ 64 - b % 2 ^ 64)).toInt

/-- BOBBIN_SYNC (R332): a child whose parent's port is in MATCH sends a request. -/
def execBobbinSync (s : State) : Host.Outcome State Fault Refusal :=
  let n := rf s F.BOBBIN_CFG_PARENT
  if 12 ≤ n ∨ rf s (F.ROUTE_NBR_STATE n) ≠ 1 then .next s
  else
    let q := (s.servo.seq + 1) % 65536
    .next (sendLocal n 3 [1 + q * 2 ^ 16, 0, 0, 0] { s with servo := { s.servo with seq := q, waiting := true } })

/-- Half of a doubled value; where it is not whole, a free value chooses between its neighbours (log 1). -/
def halved (x : Int) (s : State) : Int × State :=
  let f := drawFree s
  if x % 2 = 0 then (x / 2, s) else (x / 2 + (f.1 % 2 : Nat), f.2)

/-- A value saturated to 32 bits, two's complement (R342). -/
def sat32 (x : Int) : Nat := (BitVec.ofInt 32 (max (-2147483648) (min 2147483647 x))).toNat

/-- The exchange with the smallest delay (R332). -/
def bestExchange : List (Int × Int) → Int × Int
  | [] => (0, 0)
  | [x] => x
  | x :: xs => let y := bestExchange xs; if x.2 ≤ y.2 then x else y

/-- The count is set to the parent's time, `ahead` twice the offset (R333, R342). The exchanges kept were of the old count
and are dropped (DESIGN CHOICE, log 52). -/
def setCount (ahead : Int) (s : State) : State :=
  let b := ((s.bob : Int) - ahead * 2 ^ 31).emod (2 ^ 104)
  bump F.BOBBIN_STEPS 1 { s with bob := b.toNat, servo := { s.servo with last := [], good := 0, trim := 0 } }

/-- RATE is trimmed against the offset, by at most 100 ppm; how much is a free value (R333; log 1). -/
def trimRate (ahead : Int) (s : State) : State :=
  if ahead = 0 then s
  else
    let f := drawFree s
    let m : Int := (f.1 % (nominalRate s / 10000 + 1) : Nat)
    { f.2 with servo := { f.2.servo with trim := if 0 < ahead then -m else m } }

/-- Lock is lost: counted, and no live step has been locked throughout (R333, R337). -/
def lockLost (s : State) : State :=
  let s := bump F.BOBBIN_LOCK_LOSS 1 (put F.BOBBIN_STAT_LOCKED 0 s)
  { s with steps := s.steps.map (fun r => { r with locked := false }) }

/-- The servo acts on the filtered offset and delay, both doubled (R333). -/
def servo (x : Int × Int) (s : State) : State :=
  let o := halved x.1 s
  let s := put F.BOBBIN_STAT_OFFSET (sat32 o.1) o.2
  let d := halved x.2 s
  let s := put F.BOBBIN_DELAY (d.1.toNat % 2 ^ 32) d.2
  let mag := x.1.natAbs
  let locked := rf s F.BOBBIN_STAT_LOCKED == 1
  let good := if mag ≤ 2 * 10 * 256 then min 8 (s.servo.good + 1) else 0
  let s := { s with servo := { s.servo with good := good } }
  let s := if locked && decide (2 * 50 * 256 < mag) then lockLost s else s
  let s := if good = 8 ∧ rf s F.CLK_CTL_SRC = 1 then put F.BOBBIN_STAT_LOCKED 1 s else s
  if !locked && decide (2 * 1000 * 256 < mag) && (x.1 < 0 || s.steps == []) then setCount x.1 s else trimRate x.1 s

/-- A request is answered (R332): T2 is the time at which it came, T3 that at which the answer leaves. -/
def answerBobbin (n seq t1 : Nat) (s : State) : State := sendLocal n 3 [2 + seq * 2 ^ 16, t1, stamp s, 0] s

/-- An answer ends an exchange (R332, R333). -/
def exchange (t1 t2 t3 : Nat) (s : State) : State :=
  let t4 := stamp s
  let x : Int × Int := (stampDiff t4 t3 - stampDiff t2 t1, stampDiff t2 t1 + stampDiff t4 t3)
  let l := ((s.servo.last ++ [x]).reverse.take 8).reverse
  servo (bestExchange l) { s with servo := { s.servo with last := l, waiting := false } }

/-- BOBBIN_PACKET_RECEIVE (R332, R333): a request, or an answer; whether either block was resent. -/
def execBobbinPacketReceive (port : Fin 12) (answer : Bool) (seq : BitVec 16) (t1 t2 t3 : BitVec 64) (resent : Bool)
    (s : State) : Host.Outcome State Fault Refusal :=
  let n := port.val
  if !portUp s n ∨ rf s (F.ROUTE_NBR_STATE n) ≠ 1 then .next s
  else if !answer then .next (answerBobbin n seq.toNat t1.toNat s)
  else if n ≠ rf s F.BOBBIN_CFG_PARENT ∨ !s.servo.waiting ∨ seq.toNat ≠ s.servo.seq then .next s
  else if resent then .next { s with servo := { s.servo with waiting := false } }
  else .next (exchange t1.toNat t2.toNat t3.toNat s)

/-- Whether the host may set the count (R334). -/
def bobSettable (s : State) : Bool := rf s F.BOBBIN_CFG_PARENT == 15 && s.steps == []

/-- A write of BOBBIN.SET (R334). -/
def bobbinSet (src : Source) (v : Nat) (s : State) : State :=
  if bobSettable s then { s with bob := v % 2 ^ 64 * 2 ^ 40 } else setupRefused src R.BOBBIN_SET s

/-- BOBBIN_SET (R334). -/
def execBobbinSet (value : BitVec 64) (s : State) : Host.Outcome State Fault Refusal :=
  .next (byHost R.BOBBIN_SET (bobbinSet .host value.toNat) s)

end Sys2Proof.Machine
end

