-- ==== Sys2Proof/Machine/Image.lean ====
section
/-!
DEFINITION. The SPI NOR flash, the signed configuration image and its sections, the Lint pack's signature, and the owner
record (R435 to R438, R465 to R469).
-/
namespace Sys2Proof.Machine

/-! ### Flash (R435, R460) -/

/-- What an unlisted byte of flash reads as: that of an erased sector (R460; DESIGN CHOICE, log 135). -/
def flashDefault : Nat → Byte := fun _ => 0xFF

/-- `n` bytes of flash. -/
def flashRead (s : State) (o n : Nat) : List Byte := (List.range n).map (fun i => smGet flashDefault s.flash (o + i))

/-- A little-endian number of `n` bytes of flash. -/
def flashNat (s : State) (o n : Nat) : Nat := leNat (flashRead s o n)

/-- Bytes of flash set. -/
def flashSet (o : Nat) (bs : List Byte) (s : State) : State :=
  { s with flash := ((List.range bs.length).zip bs).foldl (fun m p => smSet flashDefault m (o + p.1) p.2) s.flash }

/-- Sectors of flash erased: every byte reads 0xFF. -/
def flashErase (o n : Nat) (s : State) : State :=
  { s with flash := smKeep (fun a => !(o ≤ a && a < o + n)) s.flash }

/-- Programming clears bits and sets none (PRESUMED, log 44: how NOR flash is programmed). -/
def flashProgram (o : Nat) (bs : List Byte) (s : State) : State :=
  flashSet o (((List.range bs.length).zip bs).map (fun p => p.2 &&& smGet flashDefault s.flash (o + p.1))) s

/-- The offset of an image copy (R435). -/
def imageBase (copy : Nat) : Nat := copy * 0x04000000

/-- The offset of the copy in use (R436). -/
def imageInUse (s : State) : Nat := imageBase (rf s F.RST_STAT_IMAGE)

/-! ### Signatures (R465, R468, R469) -/

/-- RSASSA-PKCS1-v1_5 with SHA-512 under a 4,096-bit modulus and exponent 65,537 (R465). -/
def rsaVerify (modulus msg sig : List Byte) : Bool :=
  let n := beNat modulus
  let c := beNat sig
  sig.length == 512 && c < n && modPow n 17 (c % n) 65537 == beNat (pkcs1Encode 512 msg)

/-- The owner key in force; none for no owner (R466). -/
def ownerKey (s : State) : Option (List Byte) :=
  if s.owner.key.any (fun b => b != 0) then some s.owner.key else none

/-- The vendor modulus of an image copy (R467). -/
def vendorKey (s : State) (base : Nat) : List Byte := flashRead s (base + 512) 512

/-- The length of an image's body (R467). -/
def bodyLength (s : State) (base : Nat) : Nat := flashNat s (base + 16) 8

/-- Whether the body of an image holds its directory, and each section that the directory names (R467). -/
def bodyOk (s : State) (base : Nat) : Bool :=
  let len := bodyLength s base
  256 ≤ len && (List.range 16).all (fun i =>
    let d := base + 1024 + 16 * i
    flashNat s d 1 == 0 || flashNat s (d + 1) 6 + flashNat s (d + 7) 6 ≤ len)

/-- Whether an image copy verifies (R467, R468), check by check. -/
def imageOk (s : State) (base : Nat) : Bool :=
  let len := bodyLength s base
  let kind := flashNat s (base + 11) 1
  flashNat s base 8 == 0x4D4947464E4F4350 && flashNat s (base + 8) 2 == 0x9160
    && flashNat s (base + 10) 1 ≤ Config.stepping.toNat
    && len % 64 == 0 && 1536 + len ≤ 16 * 2 ^ 20 && (flashRead s (base + 24) 488).all (fun b => b == 0) && bodyOk s base
    && sha512 (vendorKey s base) == Config.vendorDigest
    && (match ownerKey s with
        | none => kind == 1
        | some _ => kind == 2 || (kind == 1 && s.owner.policy == 0))
    && (let key := if kind = 1 then vendorKey s base else (ownerKey s).getD []
        rsaVerify key (flashRead s base (1024 + len)) (flashRead s (base + 1024 + len) 512))

/-- The image sequence number of a copy (R436). -/
def imageSeq (s : State) (copy : Nat) : Nat := flashNat s (imageBase copy + 12) 4

/-- A section of the image in use by kind, as its offset in flash and its length (R467). The places of the two 6-byte fields,
and the body as their origin, are the model's (DESIGN CHOICE, log 45). -/
def imageSection? (s : State) (kind : Nat) : Option (Nat × Nat) :=
  let body := imageInUse s + 1024
  ((List.range 16).map (fun i => body + 16 * i)).findSome? (fun d =>
    if flashNat s d 1 = kind then some (body + flashNat s (d + 1) 6, flashNat s (d + 7) 6) else none)

/-- An entry of a bring-up table (R437). -/
structure TableEntry where
  op : Nat
  unit : Nat
  arg : Nat
  addr : Nat
  value : Nat
  mask : Nat
  deriving DecidableEq, Repr

/-- Entry `i` of the section of a kind; none beyond its end (R437). -/
def tableEntryAt (s : State) (kind i : Nat) : Option TableEntry :=
  match imageSection? s kind with
  | none => none
  | some p =>
    if p.2 < 32 * (i + 1) then none
    else
      let w := fun k => flashNat s (p.1 + 32 * i + 8 * k) 8
      some ⟨bitsOf (w 0) 0 8, bitsOf (w 0) 8 8, bitsOf (w 0) 16 24, bitsOf (w 1) 0 48, w 2, w 3⟩

/-! ### Lint packs (R250 to R253, R469) -/

/-- A number of `n` bytes of a pack. -/
def packNat (p : List Byte) (o n : Nat) : Nat := leNat ((p.drop o).take n)

/-- Items of a kind in a pack: 1 ME, 2 RE, 3 EU, 4 CE, 5 SEQ (R250). -/
def packCount (p : List Byte) (kind : Nat) : Nat := if 1 ≤ kind ∧ kind ≤ 5 then packNat p (16 + 4 * (kind - 1)) 4 else 0

/-- The version of a pack. -/
def packVersion (p : List Byte) : Nat := packNat p 12 4

/-- The length of a pack with its signature. -/
def packLength (p : List Byte) : Nat := 1024 + packNat p 40 8

/-- The kinds of a pack's items in header order (R251). -/
def packKinds (p : List Byte) : List Nat := [1, 2, 3, 4, 5].flatMap (fun k => List.replicate (packCount p k) k)

/-- Where in a pack the header of an item of a kind lies (R251). -/
def itemHeader (p : List Byte) (kind item : Nat) : Nat :=
  512 + 64 * (((List.range kind).map (packCount p)).foldl (· + ·) 0 + item)

/-- The cycles of an item of a kind, as its header gives them (R242, R251). -/
def itemCycles (p : List Byte) (kind item : Nat) : Nat := bitsOf (packNat p (itemHeader p kind item) 8) 4 19

/-- The input image of an item, as its place in the pack and its length (R251). -/
def itemInput (p : List Byte) (kind item : Nat) : Nat × Nat :=
  let h := itemHeader p kind item
  (512 + packNat p (h + 8) 8 % 2 ^ 40, packNat p (h + 16) 8 % 2 ^ 40)

/-- The layout of R250 and R251. Header bits that the table gives no field, in words 0 to 2, must be 0, and an input image must lie in the
body: the table states neither (DESIGN CHOICE, log 156). -/
def packLayout (p : List Byte) : Bool :=
  let len := packNat p 40 8
  let n := (packKinds p).length
  packNat p 0 8 == 0x4B4C4E49545F4C50 && packNat p 11 1 == 0 && packNat p 36 4 == 0
    && ((p.drop 48).take 464).all (fun b => b == 0) && len % 64 == 0 && packLength p ≤ 256 * 2 ^ 20
    && 64 * n ≤ len
    && ((List.range n).zip (packKinds p)).all (fun e =>
        let h := fun k => packNat p (512 + 64 * e.1 + 8 * k) 8
        bitsOf (h 0) 0 4 == e.2 && 1 ≤ bitsOf (h 0) 4 19 && bitsOf (h 0) 4 19 ≤ 262144 && bitsOf (h 0) 23 41 == 0
          && h 1 < 2 ^ 40 && h 2 < 2 ^ 40 && h 1 + h 2 ≤ len)

/-- Whether a pack's signature verifies (R469). -/
def packSigned (s : State) (p : List Byte) : Bool :=
  let n := packNat p 40 8
  let msg := p.take (512 + n)
  let sig := (p.drop (512 + n)).take 512
  (match ownerKey s with | some k => rsaVerify k msg sig | none => false)
    || (s.owner.policy == 0 && rsaVerify (vendorKey s (imageInUse s)) msg sig)

/-- The result of the checks of R252, in their order: 1 installed, 2 bad signature, 3 wrong device or stepping, 4 version below
the minimum, 5 malformed. -/
def packResult (s : State) (p : List Byte) : Nat :=
  if !packSigned s p then 2
  else if packNat p 8 2 ≠ 0x9160 ∨ Config.stepping.toNat < packNat p 10 1 then 3
  else if packVersion p < rf s F.LINT_MIN_VERSION then 4
  else if packLayout p then 1 else 5

end Sys2Proof.Machine
end

