-- ==== Sys2Proof/Machine/Lint.lean ====
section
/-!
DEFINITION. Lint sweeps (R241 to R254): lending a unit, the end of an item, a missed deadline, and the installation of a pack.
-/
namespace Sys2Proof.Machine

/-- The item kind of a unit path code (R239, R251): 0 for a unit that runs no items. -/
def unitKind (u : Nat) : Nat :=
  match u / 4096 with
  | 1 => 1 | 2 => 2 | 3 => 3 | 5 => 4 | 4 => 5 | _ => 0

/-- The bay of a unit path code (R239). -/
def unitBay (u : Nat) : Nat := bitsOf u 7 5
/-- The engine of a matrix-engine path code (R239). -/
def unitMe (u : Nat) : Nat := bitsOf u 4 3

/-- Whether a path code names a unit that exists: as the model's path functions form it (R239). -/
def unitExists (u : Nat) : Bool :=
  match unitKind u with
  | 1 => unitBay u < 20 && u == pathMatrix (unitBay u) (unitMe u) 0
  | 2 => unitBay u < 20 && u == pathRow (unitBay u)
  | 3 => unitBay u < 20 && u == pathElem (unitBay u)
  | 4 => u == pathColl (bitsOf u 10 2)
  | 5 => unitBay u < 20 && u == pathSeq (unitBay u)
  | _ => false

/-- A LINT notice about the step that `who` names (R254). -/
def lintNotice (unit result item : Nat) (who : NoticeInfo → NoticeInfo) (s : State) : State :=
  postNotice (stepCtx s) (who { kind := 0x40, detail := unit + result * 2 ^ 16 + item % 2 ^ 16 * 2 ^ 32 }) s

/-- The earliest suspect step as a notice names it; none where no step has been opened (R94, R248, R254). -/
def aboutSuspect (s : State) (susp : Option Nat) (i : NoticeInfo) : NoticeInfo :=
  match susp with
  | some n => ofHemmed s n i
  | none => i

/-- The units of a kind in increasing order of path codes (R242). -/
def unitsOf (kind : Nat) : List Nat :=
  match kind with
  | 1 => (List.range 160).map (fun i => pathMatrix (i / 8) (i % 8) 0)
  | 2 => (List.range 20).map pathRow
  | 3 => (List.range 20).map pathElem
  | 4 => (List.range 4).map pathColl
  | 5 => (List.range 20).map pathSeq
  | _ => []

/-- Whether a unit is disabled: only a matrix engine can be (R152, R244). -/
def unitDisabled (s : State) (u : Nat) : Bool :=
  unitKind u == 1 && bitsOf (rf s (F.BAY_ME_ME_DISABLE (unitBay u))) (unitMe u) 1 == 1

/-- The engine of a bay on which a SEQ item runs: the lowest that has no tile job and may take some (R241) (DESIGN CHOICE, log
134). -/
def seqEngine (s : State) (bay : Nat) : Option Nat :=
  (List.range 8).find? (fun m => onArray s bay m (0, 4) == [] && !engBarred s bay m)

/-- The matrix engine that is lent with a unit: itself, or the one a SEQ item runs on. -/
def lentEngine (s : State) (u : Nat) : Option Nat :=
  match unitKind u with
  | 1 => some (8 * unitBay u + unitMe u)
  | 5 => (seqEngine s (unitBay u)).map (8 * unitBay u + ·)
  | _ => none

/-- Whether a unit may be lent now (R241, R244): one matrix engine per bay at a time, without tile job and not disabled; any
other unit while it is not in use. -/
def lendable (s : State) (u : Nat) : Bool :=
  let bay := unitBay u
  let bayFree := s.lent.all (fun l => l.eng.all (fun e => e / 8 != bay))
  !s.lent.any (fun l => l.unit == u) &&
    (match unitKind u with
     | 1 => bayFree && onArray s bay (unitMe u) (0, 4) == [] && !unitDisabled s u
     | 2 => s.inflight.all (fun d => !(dClass d == 1 && d.run == .running))
     | 3 => s.inflight.all (fun d => !(dClass d == 2 && d.run == .running))
     | 4 => s.inflight.all (fun d => !(dClass d == 3 && d.run == .running && bitsOf (dAxes d) (bitsOf u 10 2) 1 == 1))
     | 5 => bayFree && (seqEngine s bay).isSome
     | _ => false)

/-- Whether a unit has eligible work: tile jobs not yet issued, or a GEMM that may start and has some (R150), for an engine or
sequencer that may take them; a fold, or an eligible descriptor of the unit's class (R243). -/
def unitWanted (s : State) (u : Nat) : Bool :=
  let jobs := (gemmOrder s).any (fun d => !stepGone s d && d.mx.jobs.any (fun j => !j.issued))
    || s.inflight.any (fun d => dClass d == 0 && d.run == .fetched && eligible s d && mayTake s d.ctx)
  match unitKind u with
  | 1 => jobs && !engBarred s (unitBay u) (unitMe u)
  | 2 => foldWaits s || s.inflight.any (fun d => dClass d == 1 && eligible s d)
  | 3 => s.inflight.any (fun d => dClass d == 2 && eligible s d)
  | 4 => s.inflight.any (fun d => dClass d == 3 && eligible s d && bitsOf (dAxes d) (bitsOf u 10 2) 1 == 1)
  | _ => jobs

/-- AON time in ns. -/
def aonNs (s : State) : Nat := s.aon / 2 ^ 40

/-- The start from which the deadline of an item's next run counts (R244): its last one, else when the pack or the CMP domain came
into use (DESIGN CHOICE, log 134). -/
def lastStart (s : State) (u kind item : Nat) : Nat × Bool :=
  match s.lintStart.find? (fun x => x.unit == u && x.kind == kind && x.item == item) with
  | some x => (x.start, x.late)
  | none => (s.lintSince, false)

/-- The start of an item is recorded, or the miss of its deadline. -/
def setStart (u kind item start : Nat) (late : Bool) (s : State) : State :=
  { s with lintStart := s.lintStart.filter (fun x => !(x.unit == u && x.kind == kind && x.item == item)) ++ [⟨u, kind, item, start, late⟩] }

/-- Whether an item that does not start within a millisecond, several times the longest item, misses its deadline (R243, R244)
(DESIGN CHOICE, log 134). -/
def itemDue (s : State) (u kind item : Nat) : Bool :=
  decide ((lastStart s u kind item).1 + 1000000 * rf s F.LINT_CFG_PERIOD_MS ≤ aonNs s + 1000000)

/-- Whether units of a kind have been lent for less than LINT.CFG.SHARE of their time (R243). -/
def underShare (s : State) (kind : Nat) : Bool :=
  decide (10000 * smGet (fun _ => 0) s.lintUsed kind ≤ rf s F.LINT_CFG_SHARE * (unitsOf kind).length * (aonNs s - s.lintSince))

/-- The unit of a kind that begins the next sweep (R242, R246): one moved to the head, else the next in increasing order after the
last, the disabled ones passed over. -/
def turnOf (s : State) (kind : Nat) : Option Nat :=
  let ok := fun u => unitKind u == kind && !unitDisabled s u
  match s.lintHead.find? ok with
  | some u => some u
  | none =>
    match s.lintTurn.find? (fun t => t.1 == kind) with
    | none => (unitsOf kind).find? ok
    | some t =>
      match (unitsOf kind).find? (fun u => decide (t.2 < u) && ok u) with
      | some u => some u
      | none => (unitsOf kind).find? ok

/-- Whether a unit may run an item now (R242, R243, R246): the next in pack order, and of a new sweep only in the unit's turn; a
unit with eligible work only when the item would otherwise miss its deadline, and one without also while the share allows. -/
def itemMayRun (s : State) (u kind item : Nat) : Bool :=
  item == smGet (fun _ => 0) s.lintAt u && (item != 0 || turnOf s kind == some u)
    && (itemDue s u kind item || (!unitWanted s u && underShare s kind))

/-- What an item reads of the pack in the reserved range, as an address and a length (R209, R241, R251). -/
def itemReads (s : State) (kind item : Nat) : Nat × Nat :=
  let i := itemInput s.lintPack kind item
  (reservedBase + i.1, i.2)

/-- A unit is lent (R241 to R243, R247): the step live when the run begins is noted, the older of two (DESIGN CHOICE, log 164), and the unit
moves on in its sweep. -/
def lend (u kind item : Nat) (s : State) : State :=
  let eng := lentEngine s u
  let forced := unitWanted s u
  let s := { s with
    lent := s.lent ++ [⟨u, kind, item, s.steps.head?.map (·.num), true, eng, aonNs s, none⟩]
    lintAt := smSet (fun _ => 0) s.lintAt u ((item + 1) % max 1 (packCount s.lintPack kind))
    lintTurn := if item != 0 || s.lintHead.contains u then s.lintTurn else smSet (fun _ => 0) s.lintTurn kind u
    lintHead := if item = 0 then s.lintHead.filter (· != u) else s.lintHead }
  let s := setStart u kind item (aonNs s) false s
  let s := bump F.LINT_LENT_CYCLES (itemCycles s.lintPack kind item) (if forced then bump F.LINT_FORCED 1 s else s)
  match eng with
  | some e => setEng (e / 8) (e % 8) ⟨false, allQuads⟩ s
  | none => s

/-- LINT_ITEM_START (R241 to R243, R247): the item's input is read and checked under regulator LINT (R218, R232); while that holds it
back, the unit is not lent, nor where a word is uncorrectable, which is counted and reported (DESIGN CHOICE, log 158). -/
def execLintItemStart (unit item : BitVec 16) (s : State) : Host.Outcome State Fault Refusal :=
  let u := unit.toNat
  let k := unitKind u
  if rf s F.LINT_CTL_ENABLE = 0 ∨ !s.cmpUp ∨ !unitExists u ∨ packCount s.lintPack k ≤ item.toNat ∨ !lendable s u
      ∨ !itemMayRun s u k item.toNat then .next s
  else
    let i := itemReads s k item.toNat
    if accessHeld s .lint (byteRun i.1 i.2) then .next s
    else
      let r := readRange .lint i.1 i.2 s
      match r.2 with
      | w :: _ => .next (checkError (stepCtx s) 0 0x11 (pathOf s (8 * w)) (8 * w) r.1)
      | [] => .next (lend u k item.toNat r.1)

/-- The earliest suspect step of an item on a unit (R248, R253). With a clean run of it under its own pack since the CMP domain last left
reset, that run's record. Without, for an item of the pack before, `first`, the first step opened since that pack or the CMP domain
came into use; for one of the pack in force, the lowest record of the unit under the previous pack, or the first step opened since
(DEDUCED, log 80). -/
def suspectStep (s : State) (newPack : Bool) (first : Option Nat) (u kind item : Nat) : Option Nat :=
  match (if newPack then s.lintRecs else s.lintOld.reverse).find? (fun r => r.cur && r.unit == u && r.kind == kind && r.item == item) with
  | some r => r.step
  | none =>
    if !newPack then first
    else
      match (s.lintOld.filter (fun r => r.cur && r.unit == u)).filterMap (·.step) with
      | [] => s.lintFirst
      | x :: xs => some (xs.foldl min x)

/-- The lowest outstanding suspect step is held (R248). -/
def holdSuspect (st : Option Nat) (s : State) : State :=
  match st with
  | none => s
  | some n =>
    let n := if rf s F.LINT_SUSPECT_VALID = 1 then min n (rf s F.LINT_SUSPECT_STEP) else n
    put F.LINT_SUSPECT_VALID 1 (put F.LINT_SUSPECT_STEP n s)

/-- The failure of an item is marked on its unit (R245). -/
def markFail (u : Nat) (s : State) : State :=
  let bay := unitBay u
  match unitKind u with
  | 1 => endSteam (put (F.BAY_ME_ME_SUSPECT bay) (rf s (F.BAY_ME_ME_SUSPECT bay) ||| 2 ^ unitMe u) (bump (F.BAY_RESIDUE_ERR bay) 1 s))
  | 2 => put F.LINT_FAIL_RE (rf s F.LINT_FAIL_RE ||| 2 ^ bay) s
  | 3 => put F.LINT_FAIL_EU (rf s F.LINT_FAIL_EU ||| 2 ^ bay) s
  | 4 => put F.LINT_FAIL_CE (rf s F.LINT_FAIL_CE ||| 2 ^ bitsOf u 10 2) s
  | _ => put F.LINT_FAIL_SEQ (rf s F.LINT_FAIL_SEQ ||| 2 ^ bay) s

/-- Once a unit has run every item of the new pack, its records under the old one go (R253). -/
def dropOld (u : Nat) (s : State) : State :=
  let k := unitKind u
  if (List.range (packCount s.lintPack k)).all (fun i => s.lintRan.contains (u, k, i)) then
    { s with lintOld := s.lintOld.filter (fun r => r.unit != u) }
  else s

/-- An item ends (R245, R247, R253). -/
def endItem (l : Lent) (ok : Bool) (s : State) : State :=
  let s := bump F.LINT_RUNS 1 { s with
    lent := s.lent.filter (fun x => x.unit != l.unit)
    lintUsed := smSet (fun _ => 0) s.lintUsed l.kind (smGet (fun _ => 0) s.lintUsed l.kind + (aonNs s - l.since)) }
  let susp := suspectStep s l.newPack l.first l.unit l.kind l.item
  let s := if l.newPack then { s with lintRan := (l.unit, l.kind, l.item) :: s.lintRan.filter (· != (l.unit, l.kind, l.item)) } else s
  let keep := fun r : LintRec => !(r.unit == l.unit && r.kind == l.kind && r.item == l.item)
  let s :=
    if !ok then
      holdSuspect susp (lintNotice l.unit 1 l.item (aboutSuspect s susp) (markFail l.unit (bump F.LINT_FAILS 1 s)))
    else
      let s := writeRecord (lintRecBase + 8 * (l.unit + l.item)) s
      let r : LintRec := ⟨l.unit, l.item, l.kind, l.step, true⟩
      if l.newPack then { s with lintRecs := s.lintRecs.filter keep ++ [r] }
      else { s with lintOld := s.lintOld.filter keep ++ [r] }
  dropOld l.unit s

/-- LINT_ITEM_COMPLETE (R241, R245, R247). -/
def execLintItemComplete (unit : BitVec 16) (crcOk : Bool) (s : State) : Host.Outcome State Fault Refusal :=
  match s.lent.find? (fun l => l.unit == unit.toNat) with
  | none => .next s
  | some l => .next (endItem l crcOk s)

/-- LINT_DEADLINE_MISS (R244, R248, R255): an item has not started within PERIOD_MS of its last start. The miss is counted once;
with LINT enabled, a notice with the earliest suspect step. -/
def execLintDeadlineMiss (unit item : BitVec 16) (s : State) : Host.Outcome State Fault Refusal :=
  let u := unit.toNat
  let k := unitKind u
  let last := lastStart s u k item.toNat
  if !s.cmpUp ∨ !unitExists u ∨ packCount s.lintPack k ≤ item.toNat ∨ unitDisabled s u ∨ last.2
      ∨ aonNs s ≤ last.1 + 1000000 * rf s F.LINT_CFG_PERIOD_MS then .next s
  else
    let s1 := bump F.LINT_LATE 1 (setStart u k item.toNat last.1 true s)
    if rf s F.LINT_CTL_ENABLE = 0 then .next s1
    else
      let susp := suspectStep s1 true none u k item.toNat
      .next (holdSuspect susp (lintNotice u 5 item.toNat (aboutSuspect s1 susp) s1))

/-- A pack that passed every check is installed (R253): items under way belong to the old one, whose records stay. -/
def installPack (p : List Byte) (s : State) : State :=
  put F.LINT_STAT_VERSION (packVersion p) { s with
    lintPack := p.take (packLength p)
    lintOld := s.lintOld ++ s.lintRecs
    lintRecs := []
    lintRan := []
    lintFirst := none
    lintAt := [], lintTurn := [], lintUsed := [], lintStart := [], lintSince := aonNs s
    lent := s.lent.map (fun l => if l.newPack then { l with newPack := false, first := s.lintFirst } else l) }

/-- The end of a load (R252, R253): the result is shown and reported. -/
def loadPack (p : List Byte) (s : State) : State :=
  let r := packResult s p
  let s := put F.LINT_STAT_LOAD_RESULT r s
  if r = 1 then lintNotice 0 3 (packVersion p) (aboutNow s) (installPack p s)
  else lintNotice 0 4 (packVersion p) (aboutNow s) s

/-- A write of 1 to LINT.CTL.LOAD (R252): the pack is read from host memory into the reserved range. -/
def lintLoad (s : State) : State :=
  if rf s F.LINT_STAT_BUSY = 1 ∨ !linkUp s ∨ !s.memUp then s
  else
    let a := rf s F.LINT_PACK_ADDR
    put F.LINT_STAT_BUSY 1 { s with lintNew := some (hostRead s a (packLength (hostRead s a 512))) }

/-- LINT_PACK_LOAD (R252). -/
def execLintPackLoad (s : State) : Host.Outcome State Fault Refusal := .next (byHost R.LINT_CTL lintLoad s)

/-- Where the reserved range takes a pack that is loaded, as far as requests go (R209, R252; DESIGN CHOICE, log 151). -/
def packWrites (p : List Byte) : List (Nat × Nat) := byteRun (reservedBase + 0x8000000) p.length

/-- LINT_PACK_LOAD_COMPLETE (R252, R253): the pack being loaded has come into the reserved range, under regulator OTHER (R218, R220);
its checks, and its installation or refusal. -/
def execLintPackLoadComplete (s : State) : Host.Outcome State Fault Refusal :=
  match s.lintNew with
  | none => .next s
  | some p =>
    if accessHeld s .other (packWrites p) then .next s
    else .next (loadPack p (put F.LINT_STAT_BUSY 0 (access .other false true (packWrites p) { s with lintNew := none })))

end Sys2Proof.Machine
end

