-- ==== Sys2Proof/Machine/Domain.lean ====
section
/-!
DEFINITION. Domains (R433): what each loses, fences and what they answer (R443), the restart of the CMP domain (R446), and the
reset request with its out-of-service latch (R444, R445, R450).
-/
namespace Sys2Proof.Machine

/-! ### What a domain loses (R433, R445) -/

/-- Registers that pass a test return to the Reset column, with their shadows and values in force (R433, R495). -/
def resetRegs (p : Nat → Bool) (s : State) : State :=
  { s with regs := smKeep (fun a => !p a) s.regs, force := smKeep (fun a => !p a) s.force }

/-- Registers whose storage domain is RTR, PWR.AON apart (R433, R484). -/
def rtrReg (a : Nat) : Bool := 0x10000 ≤ a && a < 0x80000 && a != R.PWR_AON

/-- Registers of the blocks HIF, DMn and CTXn, which a HIF reset returns to the Reset column (R433, R483, R484). -/
def hifReg (a : Nat) : Bool := 0x80000 ≤ a && a < 0xE00000

/-- The time for which the step context has held the compute units idle ends (R337). -/
def endIdle (s : State) : State :=
  match s.idleAt with
  | none => s
  | some t => { s with idleAt := none, idleNs := s.idleNs + (nowNs s - t) }

/-- The stores and the issue state of the CMP domain are empty; the records of R247 stay, and no longer name a clean run (R194, R248,
R445). What becomes of dirty cache lines is settled before (R194). -/
def cmpStores (s : State) : State :=
  { s with
    mem := smKeep (fun a => a < 0xF00000000000) s.mem
    syn := smKeep (fun w => w < 0xF00000000000 / 8) s.syn
    side := [], sideMem := [], pushed := [], holder := none, mbWait := none, lent := []
    lintRecs := s.lintRecs.map (fun r => { r with cur := false }), lintOld := s.lintOld.map (fun r => { r with cur := false })
    lintFirst := none, lintHead := [], lintAt := [], lintTurn := [], lintUsed := [], lintStart := []
    eng := [], steamRun := [], waveHeld := [], waveDue := [], lastBay := 19, readys := [], cache := [], sideSyn := [], copySyn := [] }

/-- The CMP domain loses what it holds (R194, R304, R445). -/
def cmpLose (s : State) : State := dropSeam (dropFenceQ (cmpStores (endIdle s)))

/-- The MEM domain loses every HBM content: own state, the mirror held, the press copy, slots held, the keep buffer, the
reserved range with step and vote records, and the Lint pack (R445, R447) (DEDUCED, log 101). -/
def memLose (s : State) : State :=
  let s := put F.SEAM_OSTAT_OWN 2 (put F.STEPSTAT_LAST_HEM_VALID 0 (put F.SEAM_MSTAT_STATE 0
    (put F.HBM_TSTAT_TRIP 0 (put F.HBM_TSTAT_SENSOR_FAIL 0 (put F.SEAM_CKSTAT_PRESS_VALID 0
      (put F.SEAM_CKSTAT_DRAIN_BUSY 0 (put F.SEAM_XFER_BUSY 0 (put F.LINT_STAT_VERSION 0
        (put F.LINT_STAT_BUSY 0 (put F.HBM_TG_CTL_BUSY 0 (dropSeam s)))))))))))
  let s := if rf s F.SEAM_RSTAT_RESULT = 1 then put F.SEAM_RSTAT_RESULT 0 s else s
  retrainDue { s with
    phy := s.phy.filter (fun e => e.1 / 2 ^ 56 != 2)
    mem := [], syn := [], kept := [], verifies := [], sends := [], groups := [], upds := [], outcomes := [], steps := []
    lastDisc := [], stoppedShown := [], press := none, ckptRx := none, drain := none, seamRx := none, seamTx := []
    loadRx := none, fillRx := none, xfer := none, mirrorGroups := [], mirrorEfb := 0, lintPack := [], lintNew := none, lintRecs := [], lintOld := [], lintRan := [], winHold := false, heldReads := []
    restore := ⟨false, none, false, []⟩, mcValid := false, tgBusy := false, tgRun := none, sensorMiss := []
    tripPend := false, cache := [], hemRecs := [], scrubAt := 0 }

/-- The HIF domain loses ring enables, counts, doorbell holds, fetched descriptors, what waits for the link, and its fields
(R445, R448). -/
def hifLose (s : State) : State :=
  resetRegs hifReg { endIdle s with
    phy := s.phy.filter (fun e => e.1 / 2 ^ 56 != 4), dbHeld := []
    inflight := [], rings := [], ctxs := [], ctrs := [], wbWait := [], heldReads := [], collIdx := [], sends := []
    holder := none, mbWait := none, side := [], pushed := [] }

/-- Sprint time that runs ends: a partial millisecond counts as a whole one (R416). -/
def sprintStops (s : State) : State :=
  match s.sprintOn with
  | none => s
  | some t =>
    let now := s.aon / 2 ^ 40
    let ms := (now - t + 999999) / 1000000
    put F.PWR_STAT_SPRINT 0 { s with sprintOn := none, sprintLog := s.sprintLog ++ [(now / 1000000, max 1 ms)] }

/-- The RTR domain loses routing, ports, Bobbin time and every field it stores (R331, R433, R445). -/
def rtrLose (s : State) : State :=
  resetRegs rtrReg { sprintStops s with
    phy := [], defaults := []
    xbarFrom := s.xbarFrom + s.xbarReqs, xbarReqs := 0, qfullFrom := s.qfullFrom + s.qfullReqs, qfullReqs := 0
    ports := [], vcs := [], injHeld := [], drains := ⟨false, 0, 0, 0, 0, [], 0⟩, bondSeq := 0, bondRx := 0, fenceNeed := [], fenceGot := [], fenceHeld := [], seamHeld := []
    bob := 0, servo := ⟨0, 0, false, [], 0⟩, ceCount := [], partPend := [], ckptLast := 0, ckptNow := false, reportSeq := 0
    waveT := 0, seamWait := [], oppWord := regReset (R.OPP_ENT 0), oppTarget := none, oppNext := none, sprint := none, rampWait := false, rampHard := false, droopLow := false
    stretched := false, quiet := true, sprintRefused := none, cmpCut := 0, tjMiss := [], energyUj := 0, capSince := 0, heldSince := 0, cmpAllow := 0, cmpEntry := 0 }

/-- Everything but AON is lost (R424, R445), the MSI-X table of the host link too (R484). -/
def allLose (s : State) : State := resetRegs (fun a => 0xE00000 ≤ a) (rtrLose (hifLose (memLose (cmpLose s))))

/-- A router that enters reset completes every packet it has begun sending, with ABORT_CAUSE 2 (R300). -/
def completeBegun (s : State) : State :=
  (List.range 12).foldl (fun s n =>
    if portState s n ≠ 6 then s else
    let cells := (List.range 8).flatMap (fun v =>
      match (vcRt s n v).queue with
      | e :: _ => if e.sent = 0 then [] else
          (List.range (pktCells e.pkt - e.sent)).map (fun i => (⟨v, cutPkt e.pkt e.sent 2, e.sent + i⟩ : Cell))
      | [] => [])
    (List.range ((cells.length + 3) / 4)).foldl (fun s i =>
      emitBlock n (((portRt s n).txNext + i) % 65536) ((cells.drop (4 * i)).take 4) s) s) s

/-! ### Fences (R443) -/

/-- MATRIX, ROW, ELEM and COLL descriptors fetched and not retired. -/
def cmpWork (s : State) : List Desc := s.inflight.filter (fun d => dClass d ≤ 3)

/-- MOVEs with bursts outstanding. -/
def movers (s : State) : List Desc := s.inflight.filter (fun d => dClass d == 4 && d.run == .running && d.dm.outst != [])

/-- Whether a fence has nothing left outstanding, by its kind: CMP, CMP with MEM, HIF, or all (DEDUCED, log 105). -/
def fenceQuiet (kind : Nat) (s : State) : Bool :=
  match kind with
  | 1 => cmpWork s == []
  | 2 | 7 | 9 => cmpWork s == [] && movers s == [] && s.heldReads == []
  | 3 => s.inflight == []
  | _ => s.inflight == [] && s.heldReads == []

/-- After FENCE_US, every fetched MATRIX, ROW, ELEM and COLL descriptor retires TIMEOUT (R149, R443). -/
def answerCmp (s : State) : State := (cmpWork s).foldl (fun s d => timeoutDesc d s) s

/-- An outstanding burst is completed, after those whose turn on the host link comes before it (R391, R392, R443). -/
def drainBurst (ctx cnt off : Nat) (s : State) : State :=
  let s := serveUntil ctx cnt off (linkQueue s) s
  match findDesc s ctx 2 cnt with
  | none => s
  | some d =>
    match d.dm.outst.find? (fun o => o.1 == off) with
    | none => s
    | some o => completeBurst d off o.2 s

/-- The outstanding bursts of MOVEs are completed (R443). -/
def drainBursts (p : Desc → Bool) (s : State) : State :=
  ((movers s).filter p).foldl (fun s d => d.dm.outst.foldl (fun s o => drainBurst d.ctx d.cnt o.1 s) s) s

/-- The MEM domain begins to be fenced: it takes no new request; the press copy is lost, and every destination of a drain is abandoned
(R363, R443; DEDUCED, log 28). -/
def memFence (s : State) : State := pressLost { s with memUp := false }

/-- After FENCE_US, the MEM domain answers what is outstanding (R443): bursts into HBM are completed, reads of HBM get an uncorrectable
indication, which fails their MOVE (R237), window reads get the failed-read response (R374), and image transfers are broken
(R352, R355; DEDUCED, log 28). -/
def answerMem (s : State) : State :=
  let s := drainBursts (fun d => dOp d == 1) s
  let s := (movers s).foldl (fun s d =>
    finish { d with fails := d.fails ++ [0x11], dm := { d.dm with outst := [], sent := [], redo := [] } }
      (failNotice d 0x11 (pathOf s (mvDev s d)) (mvDev s d) s)) s
  let s := failReads 0 s
  let s := match s.xfer with | some x => if x.waiting then s else endXfer 3 s | none => s
  let s := match s.loadRx with | some l => loadBroken l { s with loadRx := none } | none => s
  match s.fillRx with
  | some l => loadBroken l { s with fillRx := none }
  | none => s

/-- After FENCE_US, the HIF domain's outstanding bursts are completed and every fetched descriptor is cancelled without write-back
(R443). -/
def answerHif (s : State) : State := { drainBursts (fun _ => true) s with inflight := [] }

/-- Fetched descriptors of a step that is OPEN or CLOSING are retired with a status and cause (R20, R224). -/
def retireStep (n status cause : Nat) (s : State) : State :=
  (s.inflight.filter (fun d => d.ctx == stepCtx s && d.step == some n)).foldl
    (fun s d => retire d status cause (clearHalt d s)) s

/-- The HIF domain begins to be fenced: nothing more is fetched and no burst is issued, and every step that is OPEN or CLOSING is
force-closed at once. Bursts outstanding drain; the remaining descriptors are cancelled when the fence ends (R20, R443, R448; DEDUCED,
log 105). -/
def hifFence (s : State) : State :=
  let live := s.steps.filter (fun r => r.st == .opened || r.st == .closing)
  live.foldl (fun s r => forceClose 0x13 r.num s) { s with hifUp := false }

/-! ### The restart of the CMP domain (R446) -/

/-- A live step is rebuilt from its record (R446, R51). -/
def rebuildStep (r : StepRec) (s : State) : State :=
  match r.st with
  | .opened | .closing => raiseSev r.num 1 0x13 s
  | .voting => unresolve r s
  | .unresolved => s
  | .hemming =>
    match s.upds.find? (fun u => u.step == r.num && u.begun) with
    | some u => stepNotice r { kind := 0x14, detail := u.progress } s
    | none => s
  | .discarding | .stopped => discardStep r s

/-- Blocks of the own update that its controllers had accepted are written, up to block `n` (R51). -/
def updateTo (n : Nat) (s : State) : State :=
  match s.upds with
  | [] => s
  | u :: us =>
    if !u.begun ∨ s.ownBad then s
    else
      let r := runBlocks (((updateBlocks u.records).take n).drop u.progress) u.progress s
      let s := { r.1 with upds := { u with progress := r.2.1 } :: us }
      match r.2.2 with
      | none => s
      | some w => ownBroken w s

/-! ### Isolation clamps (R426) -/

/-- The classes of signals that cross a domain's edge (R426). -/
inductive SignalClass where
  | request | ready | data | interrupt | powerGood | fenceAck | activeLow
  deriving DecidableEq, Repr

/-- What an engaged clamp drives, with the check byte of a data word (R426). -/
def clampValue : SignalClass → Word × Byte
  | .request => (0, 0) | .ready => (0, 0) | .data => (0, 0xFF) | .interrupt => (0, 0) | .powerGood => (0, 0)
  | .fenceAck => (1, 0) | .activeLow => (1, 0)

/-- The clamps of domains are engaged, before their power drops (R426). -/
def clampOn (ds : List Domain) (s : State) : State := { s with clamps := s.clamps.filter (fun d => !ds.contains d) ++ ds }

/-- The clamps of domains are released, once their power is good (R426). -/
def clampOff (ds : List Domain) (s : State) : State := { s with clamps := s.clamps.filter (fun d => !ds.contains d) }

/-- A signal at a domain's edge: its own value, or the clamped one (R426). -/
def edgeSignal (s : State) (d : Domain) (c : SignalClass) (v : Word × Byte) : Word × Byte :=
  if s.clamps.contains d then clampValue c else v

/-- The fence acknowledge that a domain shows (R426, R443). -/
def fenceAck (s : State) (d : Domain) : Bool :=
  (edgeSignal s d .fenceAck (match d with
    | .cmp => if s.cmpUp then 0 else 1
    | .mem => if s.memUp then 0 else 1
    | .hif => if s.hifUp then 0 else 1
    | .rtr => if s.rtrUp then 0 else 1, 0)).1 == 1

/-- Whether the device is PARKED (R425). -/
def parked (s : State) : Bool := rf s F.PWR_STAT_STATE == 2

/-- The CMP domain runs again, unless the device is PARKED: its clamps are released, a mirror update that was under way is TORN (R351),
and each live step is continued. -/
def cmpRestart (s : State) : State :=
  if parked s then s
  else
    let s := clampOff [.cmp] { s with cmpUp := true, lintSince := aonNs s }
    let s := match s.seamRx with
      | some rx => if rx.dropping then s else mirrorTorn rx.step { s with seamRx := none }
      | none => s
    s.steps.foldl (fun s r => rebuildStep r s) s

/-! ### PARKED (R425) -/

/-- The fence of a power-down or of a thermal trip is over. -/
def fenceOver (s : State) : State := { s with rst := ⟨0, false, 0, s.rst.ms, s.rst.ready⟩ }

/-- The device is PARKED: CMP off behind its clamps, its stores lost; stacks in self-refresh with contents kept, MEM counts as
fenced, so that dirty cache lines are dropped (R194, R425, R426). -/
def parkDone (s : State) : State :=
  put F.PWR_STAT_STATE 2 (cmpLose (dropCache (clampOn [.cmp]
    { fenceOver s with selfRefresh := true, tables := s.tables.filter (fun t => 3 ≤ t.table) })))

/-- Only AON has power: every other domain is clamped and has lost its contents (R424 to R426). -/
def powerOff (s : State) : State :=
  { allLose s with
    rtrUp := false, hifUp := false, memUp := false, cmpUp := false, selfRefresh := true, tables := [], vcore := 0
    clamps := [.cmp, .mem, .rtr, .hif], rst := ⟨0, false, 0, s.rst.ms, false⟩ }

/-- Steps 4 and 5 of R224 are complete: dirty cache lines are dropped (R194), and the stacks are in self-refresh. -/
def tripDone (s : State) : State := dropCache { fenceOver s with selfRefresh := true }

/-! ### The end of a fence and of a reset -/

/-- A start-up begins at a phase (R439): kind 4 FULL, 5 cold start, 6 wake. From phase 2 on every domain has power, and its clamps are
released (R426, R428). -/
def startUp (kind phase : Nat) (s : State) : State :=
  put F.RST_STAT_PHASE phase (put F.RST_STAT_LAST kind { s with
    rst := ⟨kind, false, phase, 0, false⟩
    rtrUp := decide (2 ≤ phase), hifUp := decide (2 ≤ phase), memUp := false, cmpUp := false, selfRefresh := true
    clamps := if 2 ≤ phase then [] else [.cmp, .mem, .rtr, .hif]
    tables := [], folded := false, upOnce := false })

/-- A set-point frame on the regulator bus (R502). -/
def vrcFrame (mv : Nat) : Nat :=
  let top := 0xA00000 + mv % 4096 * 16
  top * 256 + crc8 [byteOf top 2, byteOf top 1, byteOf top 0]

/-- The core set-point is sent to the tray's regulator (R410, R502). -/
def sendVcore (mv : Nat) (s : State) : State := emit (.vrc (vrcFrame mv)) { s with vcore := mv }

/-- The root PLL locks at 2,400 MHz with entry 0 in force and CTLCLK on FIO (R405, R428, R439). -/
def pllLock (s : State) : State :=
  sendVcore (ff s (F.OPP_ENT_VCORE 0)) (put F.CLK_STAT_ROOT_LOCK 1 (put F.CLK_STAT_ROOT_MHZ 2400
    (put F.CLK_STAT_ENTRY 0 (put F.CLK_CTL_SRC 0 { s with oppWord := inForce s (R.OPP_ENT 0) }))))

/-- What is outstanding when a fence ends is answered, by its kind (R443). -/
def answerFence (kind : Nat) (s : State) : State :=
  match kind with
  | 1 => answerCmp s
  | 2 | 7 | 9 => answerMem (answerCmp s)
  | 3 => answerHif s
  | _ => answerHif (answerMem (answerCmp s))

/-- A fence ends: what is still outstanding is answered, with FENCE_ERR (R443), and the domains lose their contents; the CMP domain
is powered off behind its clamps (R426, R445). A MEM reset goes on with phase 5, and a FULL reset with phase 2. -/
def endFence (s : State) : State :=
  let k := s.rst.kind
  let s := if fenceQuiet k s then s else put F.RST_STAT_FENCE_ERR 1 s
  let s := answerFence k s
  let s := { s with rst := { s.rst with fencing := false } }
  match k with
  | 1 => clampOn [.cmp] (cmpLose (flushCache s))
  | 2 => clampOn [.cmp] (memLose (cmpLose { s with
      rst := { s.rst with phase := 5 }, tables := s.tables ++ (List.range 8).map (fun k => ⟨2, k, 0⟩) }))
  | 3 => hifLose s
  | 7 => parkDone s
  | 8 => { powerOff (completeBegun s) with folded := true }
  | 9 => tripDone s
  | _ => pllLock (startUp 4 2 (allLose (completeBegun s)))

/-- The fence of a power-down or of a thermal trip begins, and ends at once when nothing is outstanding (R425, R443). -/
def beginFence (kind : Nat) (s : State) : State :=
  let s := memFence { s with cmpUp := false, hifUp := s.hifUp && kind != 8, rst := ⟨kind, true, 0, s.rst.ms, s.rst.ready⟩ }
  if fenceQuiet kind s then endFence s else s

/-- The device enters PARKED, once CMP and MEM are fenced (R425, R443). -/
def park (s : State) : State := beginFence 7 s

/-- The device leaves PARKED: CMP is as after a CMP reset (R194, R425). -/
def unpark (s : State) : State :=
  kickMoves (cmpRestart (put F.PWR_STAT_STATE 0 { s with selfRefresh := false, memUp := !tripped s }))

/-- A reset or start-up ends: BUSY clears; out of service, the device enters PARKED (R450). -/
def finishReset (s : State) : State :=
  let s := put F.RST_STAT_BUSY 0 { s with rst := ⟨0, false, 0, s.rst.ms, s.rst.ready⟩ }
  if rf s F.RST_STAT_OOS = 1 ∧ !parked s ∧ s.rst.ready then park s else s

/-- FENCE_TIMEOUT (R443): the fence of a reset or of a power-down. -/
def execFenceTimeout (s : State) : Host.Outcome State Fault Refusal :=
  .next (withIbi (fun s => if s.rst.fencing then endFence s else s) s)

/-- CMP_RESET_COMPLETE (R446): once the fence has drained or has been answered; `written` is the number of blocks of the own
update that were accepted (R51). -/
def execCmpResetComplete (written : BitVec 32) (s : State) : Host.Outcome State Fault Refusal :=
  if s.rst.kind ≠ 1 ∨ (s.rst.fencing ∧ !fenceQuiet 1 s) then .next s
  else
    .next (withIbi (fun s =>
      let s := updateTo written.toNat s
      finishReset (cmpRestart (if s.rst.fencing then endFence s else s))) s)

/-! ### The out-of-service latch (R450 to R452) -/

/-- AON time in ms. -/
def aonMs (s : State) : Nat := s.aon / 2 ^ 40 / 1000000

/-- The window of counted resets in ms, and the count that sets the latch (R453). -/
def escWindow (s : State) : Nat := if rf s F.RST_ESC_WINDOW_S = 0 then 600000 else rf s F.RST_ESC_WINDOW_S * 1000
/-- The count that sets the latch (R453). -/
def escCount (s : State) : Nat := if rf s F.RST_ESC_COUNT = 0 then 3 else rf s F.RST_ESC_COUNT

/-- Counted resets within the current window: ESC.RECENT (R450, R453). -/
def recentResets (s : State) : Nat := (s.rstTimes.filter (fun t => aonMs s ≤ t + escWindow s)).length

/-- The magic of the out-of-service record (R452). -/
def oosMagic : Nat := 0x4354414C5F534F4F

/-- A counted reset (R450). The rest of the record, which the spec does not give, is left erased. -/
def countReset (s : State) : State :=
  let s := { s with rstTimes := (aonMs s :: s.rstTimes).take 15 }
  if escCount s ≤ recentResets s then
    flashProgram 0x8010000 (leBytes oosMagic 8) (flashErase 0x8010000 4096 (put F.RST_STAT_OOS 1 s))
  else s

/-! ### Reset requests (R444, R445) -/

/-- Whether any stack reads 95 °C or more (R226, R444). -/
def stacksHot (s : State) : Bool := (List.range 8).any (fun k => 95 ≤ bitsOf (rdReg s R.HBM_TEMP).toNat (8 * k) 8)

/-- Whether a request's domains include those of a reset in progress, so that it takes over (R444). -/
def takesOver (dom kind : Nat) : Bool :=
  match dom with
  | 1 => kind == 1
  | 2 => kind == 1 || kind == 2
  | 3 => kind == 3
  | _ => true

/-- The domains of a request begin to be fenced (R443, R448). Bring-up tables of a reset that it takes over from run no more (R444). -/
def beginReset (dom : Nat) (s : State) : State :=
  let s := put F.RST_STAT_BUSY 1 (put F.RST_STAT_LAST dom { s with
    rst := ⟨dom, true, 0, 0, s.rst.ready⟩
    tables := if dom = 4 then [] else if dom = 2 then s.tables.filter (fun t => t.table != 2) else s.tables })
  match dom with
  | 1 => { s with cmpUp := false }
  | 2 => memFence { s with cmpUp := false }
  | 3 => hifFence s
  | _ => memFence (hifFence { s with cmpUp := false })

/-- Each kind of reset is counted (R453). -/
def bumpReset (dom : Nat) (s : State) : State :=
  match dom with
  | 1 => bump F.RST_COUNT_CMP 1 s
  | 2 => bump F.RST_COUNT_MEM 1 s
  | 3 => bump F.RST_COUNT_HIF 1 s
  | _ => bump F.RST_COUNT_FULL 1 s

/-- Whether a reset request is accepted (R226, R444): not while another reset runs that it does not include, not MEM or FULL
while a stack is hot, and only FULL after a failed start-up; none in Folded (DEDUCED, log 103). -/
def resetOk (dom : Nat) (s : State) : Bool :=
  let ph := rf s F.RST_STAT_PHASE
  !s.folded && (s.rst.kind == 0 || takesOver dom s.rst.kind) && !((dom == 2 || dom == 4) && stacksHot s)
    && (dom == 4 || (ph != 8 && ph != 9 && ph != 0))

/-- A reset request (R444, R445, R450). A FULL reset samples BOOT_SEL (R436). -/
def resetReq (src : Source) (dom : Nat) (s : State) : State :=
  if dom = 0 ∨ 4 < dom then s
  else if !resetOk dom s then setupRefused src R.RST_CTL s
  else
    let s := bumpReset dom s
    let s := if dom = 4 then { s with bootSel := s.bootPins } else s
    beginReset dom (if dom = 3 then s else countReset s)

/-- RESET_CMP (R445). -/
def execResetCmp (s : State) : Host.Outcome State Fault Refusal := 
  .next (withIbi (resetReq .host 1) s)
/-- RESET_MEM (R445). -/
def execResetMem (s : State) : Host.Outcome State Fault Refusal := 
  .next (withIbi (resetReq .host 2) s)
/-- RESET_HIF (R444, R448): by register, PERST#, hot reset, function-level or CXL reset. -/
def execResetHif (s : State) : Host.Outcome State Fault Refusal := .next (resetReq .host 3 s)
/-- RESET_FULL (R436, R445), with the level of the straps BOOT_SEL at that time. -/
def execResetFull (bootSel : BitVec 2) (s : State) : Host.Outcome State Fault Refusal :=
  .next (withIbi (fun s => resetReq .host 4 { s with bootPins := bootSel.toNat }) s)

end Sys2Proof.Machine
end

