-- ==== Sys2Proof/Machine/Power.lean ====
section
/-!
DEFINITION. Clocks, operating points, ramps, droop, sprint, the module cap, temperatures, stops and power states (R222 to
R226, R403 to R429, R502 to R505).
-/
namespace Sys2Proof.Machine

/-! ### THERMAL notices (R429) -/

/-- A THERMAL notice (R429). -/
def thermalNotice (source stack exit event temp value sev cause : Nat) (s : State) : State :=
  postNotice (stepCtx s) (aboutNow s
    { kind := 0x30, sev := sev, cause := cause,
      detail := source + stack * 2 ^ 4 + exit * 2 ^ 7 + event * 2 ^ 8 + temp % 2 ^ 16 * 2 ^ 16 + value % 2 ^ 16 * 2 ^ 32 }) s

/-! ### Stops (R423, R424, R505) -/

/-- A stop: nothing is fenced or drained, every domain but AON is clamped and loses power and contents, and the device is in Folded (R424, R426).
It overrides a reset in progress (R444). -/
def stop (s : State) : State :=
  put F.RST_STAT_BUSY 0 { powerOff s with folded := true }

/-- Whether a stop has anything to stop: the device is powered up beyond AON. -/
def stoppable (s : State) : Bool := !s.folded && (s.rtrUp || s.rst.kind != 0)

/-- COOLANT_FILTER_EXPIRE (R423, R424): COOLANT_OK holds no longer (R428). -/
def execCoolantFilterExpire (s : State) : Host.Outcome State Fault Refusal :=
  .next (withIbi (fun s =>
    let t := { s with coolantSince := none }
    if stoppable s then put F.PWR_AON_COOLANT_STOP 1 (stop t) else t) s)

/-- RAILS_OK_LOSS (R504, R505): outside Folded the stop sequence runs; neither bit of PWR.AON is set. -/
def execRailsOkLoss (s : State) : Host.Outcome State Fault Refusal :=
  .next (withIbi (fun s => { (if stoppable s then stop s else s) with rails := false }) s)

/-! ### Ramps (R409 to R412, R416) -/

/-- VCORE of an entry, in mV. -/
def entVcore (e : OppSel) : Nat := fldOf e.word (F.OPP_ENT_VCORE 0)

/-- Whether droop holds a change of frequency (R412). -/
def droopHolds (s : State) : Bool := s.droopLow || !s.quiet

/-- Droop pauses a ramp or defers a change, from now on (R412). -/
def deferRamp (s : State) : State :=
  if rf s F.CLK_STAT_DEFERRED = 1 then s else put F.CLK_STAT_DEFERRED 1 { s with deferSince := aonNs s }

/-- Droop no longer pauses or defers anything: the ns for which it did are counted (R412; DESIGN CHOICE for the clock,
log 145). -/
def deferEnds (s : State) : State :=
  if rf s F.CLK_STAT_DEFERRED = 1 then bump F.CLK_PAUSE_NS (aonNs s - s.deferSince) (put F.CLK_STAT_DEFERRED 0 s) else s

/-- Whether the device is leaving its sprint, or has not begun to move towards it: what it runs or ramps to is no sprint entry. -/
def leaving (s : State) : Bool :=
  match s.oppTarget with
  | some t => !entSprint t
  | none => fldOf s.oppWord (F.OPP_ENT_SPRINT 0) != 1

/-- The sprint is over once ROOT is again at or below the ROOT of its fallback entry (R416). -/
def sprintOver (s : State) : State :=
  match s.sprint with
  | none => s
  | some f =>
    if leaving s && decide (rf s F.CLK_STAT_ROOT_MHZ ≤ entMhz f) then
      let t := sprintStops s
      if s.oppNext.any entSprint then t else { t with sprint := none }
    else s

/-- The ramp has reached its entry: the entry is in force, a lower set-point is sent, and without its STEAM bit idle quads
clock-gate at once (R407, R410). -/
def rampEnd (e : OppSel) (s : State) : State :=
  let s := put F.CLK_STAT_ENTRY e.entry (put F.CLK_STAT_RAMPING 0
    { s with oppWord := e.word, oppTarget := none, rampHard := false, rampWait := false })
  let s := if entVcore e < s.vcore then sendVcore (entVcore e) s else s
  sprintOver (endSteam s)

/-- A ramp to an entry begins, or turns to it from the current step (R410): a higher set-point is sent first, and the regulator
settles before the next step up. -/
def turnTo (e : OppSel) (hard : Bool) (s : State) : State :=
  let up := decide (rf s F.CLK_STAT_ROOT_MHZ < entMhz e)
  let s := if rf s F.CLK_STAT_RAMPING = 1 then s else bump F.CLK_RAMPS 1 (put F.CLK_STAT_RAMPING 1 s)
  let s := { s with oppTarget := some e, oppNext := none, rampHard := hard, rampWait := s.rampWait && up }
  if s.vcore < entVcore e then sprintOver (sendVcore (entVcore e) { s with rampWait := true })
  else if entMhz e = rf s F.CLK_STAT_ROOT_MHZ then rampEnd e s
  else sprintOver s

/-- A change of entry begins, or is deferred by droop (R412). A ramp that does not pause goes on meanwhile. -/
def change (e : OppSel) (s : State) : State :=
  if droopHolds s then deferRamp { s with oppNext := some e } else turnTo e false s

/-- The change that waited for the ramp in progress begins, unless droop defers it. -/
def nextChange (s : State) : State :=
  match s.oppNext with
  | none => s
  | some e => change e s

/-- One step of 25 MHz towards the target entry (R410). Sprint time begins at the first step up towards a sprint entry (R416). -/
def rampStep (s : State) : State :=
  match s.oppTarget with
  | none => s
  | some e =>
    let f := rf s F.CLK_STAT_ROOT_MHZ
    let t := entMhz e
    if f = t then nextChange (rampEnd e s)
    else
      let s := put F.CLK_STAT_ROOT_MHZ (if f < t then f + 25 else f - 25) s
      let s := if f < t ∧ entSprint e ∧ s.sprintOn.isNone then put F.PWR_STAT_SPRINT 1 { s with sprintOn := some (aonNs s) } else s
      if rf s F.CLK_STAT_ROOT_MHZ = t then nextChange (rampEnd e s) else sprintOver s

/-- RAMP_STEP (R410, R412). -/
def execRampStep (s : State) : Host.Outcome State Fault Refusal :=
  if rf s F.CLK_STAT_RAMPING = 0 ∨ s.rampWait ∨ (droopHolds s ∧ !s.rampHard) then .next s else .next (rampStep s)

/-- VR_SETTLE_EXPIRE (R410): the ramp takes its first step, unless droop pauses it. -/
def execVrSettleExpire (s : State) : Host.Outcome State Fault Refusal :=
  if !s.rampWait then .next s
  else
    let s1 := { s with rampWait := false }
    if droopHolds s1 ∧ !s1.rampHard then .next (deferRamp s1) else .next (rampStep s1)

/-- VRC_FRAME_REPEAT (R502): every 1 ms the frame in force is sent again. -/
def execVrcFrameRepeat (s : State) : Host.Outcome State Fault Refusal :=
  if s.vcore = 0 then .next s else .next (sendVcore s.vcore s)

/-! ### Selection and sprint (R408, R409, R416 to R418) -/

/-- Sprint ms in the trailing 60,000 ms: the part of each sprint that lies in the window, the one that runs included (R416). -/
def sprintWindow (s : State) : Nat :=
  let now := aonMs s
  s.sprintLog.foldl (fun a e => a + (if now < e.1 + 60000 then min e.2 (e.1 + 60000 - now) else 0))
    (match s.sprintOn with | some t => max 1 ((aonNs s - t + 999999) / 1000000) | none => 0)

/-- TJ.LIMIT as it acts (R432). -/
def tjLimit (s : State) : Nat := min 105 (rf s F.PWR_TJ_LIMIT)
/-- TJ.TARGET as it acts (R432). -/
def tjTarget (s : State) : Nat :=
  let t := rf s F.PWR_TJ_TARGET
  if 70 ≤ t ∧ t ≤ 105 then t else 95

/-- Whether a sprint is granted (R417). -/
def sprintOk (s : State) : Bool :=
  rf s F.PWR_CAP_SPRINT_W != 0 && sprintWindow s + 40 ≤ 3000 && rf s F.PWR_TJ_STAT_AT_LIMIT == 0
    && rf s F.PWR_TJ_STAT_MAX < tjLimit s

/-- A refused sprint is counted, and noticed at most once per second (R417). -/
def refuseSprint (k : Nat) (s : State) : State :=
  let s := bump F.PWR_SPRINT_REFUSED 1 { s with sprintRefused := some k }
  let now := aonNs s
  let due : Bool := match s.sprintNotice with | some t => decide (t + 1000000000 ≤ now) | none => true
  if due then thermalNotice 4 0 0 8 0 (sprintWindow s) 0 0 { s with sprintNotice := some now } else s

/-- What the device runs, or what the change under way leads to. -/
def goal (s : State) : OppSel :=
  match s.oppNext, s.oppTarget with
  | some e, _ => e
  | none, some e => e
  | none, none => ⟨rf s F.CLK_STAT_ENTRY, s.oppWord⟩

/-- The granted sprint of a fallback `f` is left for entry `e` (R409, R412, R418). The ramp down does not pause, and it reaches the
ROOT of the fallback first: an entry of higher ROOT follows it (DEDUCED, log 148). -/
def leaveSprint (f e : OppSel) (s : State) : State :=
  if entMhz e ≤ entMhz f then turnTo e true (deferEnds s)
  else
    let t := turnTo f true (deferEnds s)
    if rf t F.CLK_STAT_RAMPING = 1 then { t with oppNext := some e } else change e t

/-- The device turns to an entry that is no sprint entry, or to one that is run in place of a refused sprint. -/
def goTo (e : OppSel) (s : State) : State :=
  if goal s = e then s
  else match s.sprint with
    | none => change e s
    | some f =>
      if s.sprintOn.isSome || !leaving s then leaveSprint f e s else change e { s with sprint := none }

/-- A selection has held (R409, R417): what the committed table gives it comes into use (R406). -/
def selected (k : Nat) (s : State) : State :=
  let e := entOf s k
  if s.sprintRefused = some k ∨ goal s = e then s
  else if !entSprint e then goTo e s
  else
    let f := entOf s (fldOf e.word (F.OPP_ENT_FALLBACK 0))
    if sprintOk s then change e (bump F.PWR_SPRINT_GRANTED 1 { s with sprint := some f })
    else goTo f (refuseSprint k s)

/-- Whether the root PLL is locked and the clock logic runs. -/
def clocked (s : State) : Bool := s.rtrUp && rf s F.CLK_STAT_ROOT_LOCK == 1

/-- OPP_SELECTION_HELD (R408, R409, R417): the selection named has held for DWELL_US. -/
def execOppSelectionHeld (entry : Fin 16) (s : State) : Host.Outcome State Fault Refusal :=
  if !clocked s ∨ selection s ≠ entry.val then .next s else .next (selected entry.val s)

/-- A sprint ends (R409, R412, R418): the ramp down to its fallback starts and does not pause; one that droop still deferred does
not begin. A selection that still names a sprint entry is not tried again until it has changed (R417). -/
def sprintEnd (s : State) : State :=
  match s.sprint with
  | none => s
  | some f =>
    let s := if isSprint s (selection s) then { s with sprintRefused := some (selection s) } else s
    if !leaving s then turnTo f true (deferEnds s)
    else if s.oppNext.any entSprint then
      let s := { s with oppNext := none, sprint := none }
      if rf s F.CLK_STAT_RAMPING = 1 then s else deferEnds s
    else s

/-- Whether the sprint must end now (R418): the selection names no sprint entry, the junction is at its limit, or the sprint time,
with the down-ramp and one step to spare, would reach 40 ms (DEDUCED, log 141). -/
def sprintDue (s : State) : Bool :=
  match s.sprint with
  | none => false
  | some f =>
    let steps := (rf s F.CLK_STAT_ROOT_MHZ - entMhz f) / 25 + 1
    !isSprint s (selection s) || rf s F.PWR_TJ_STAT_AT_LIMIT == 1
      || (match s.sprintOn with | some t => decide (t + 40000000 ≤ aonNs s + steps * rf s F.CLK_DVFS_STEP_NS) | none => false)

/-- SPRINT_END (R418). -/
def execSprintEnd (s : State) : Host.Outcome State Fault Refusal :=
  if sprintDue s then .next (sprintEnd s) else .next s

/-- Whether an OPP set passes R406. -/
def oppSetOk (s : State) : Bool :=
  (List.range 16).all (fun k =>
    let r := rf s (F.OPP_ENT_ROOT k)
    let v := rf s (F.OPP_ENT_VCORE k)
    96 ≤ r && r ≤ 176 && (rf s (F.OPP_ENT_SPRINT k) == 1 || r ≤ 152) && 600 ≤ v && v ≤ 900
      && rf s (F.OPP_ENT_SPRINT (rf s (F.OPP_ENT_FALLBACK k))) == 0)

/-- The registers of OPP with shadowed fields (R491). -/
def oppRegs : List Nat := (List.range 16).map R.OPP_ENT

/-- A write of 1 to OPP.GROUP_COMMIT (R406, R493). -/
def commitOpp (src : Source) (s : State) : State :=
  if oppSetOk s then commitRegs oppRegs s else discardCommit 2 src R.OPP_GROUP_COMMIT oppRegs s

/-- GROUP_COMMIT_OPP (R406, R493). -/
def execGroupCommitOpp (s : State) : Host.Outcome State Fault Refusal :=
  .next (byHost R.OPP_GROUP_COMMIT (commitOpp .host) s)

/-! ### Droop (R411, R412) -/

/-- DROOP_DETECT (R411, R412). -/
def execDroopDetect (s : State) : Host.Outcome State Fault Refusal :=
  if !clocked s then .next s
  else
    let s1 := { s with droopLow := true, quiet := false }
    let s2 := if s.stretched then s1 else bump F.PWR_DROOP_EVENTS 1 { s1 with stretched := true }
    if rf s F.CLK_STAT_RAMPING = 1 ∧ !s.rampHard then .next (deferRamp s2) else .next s2

/-- DROOP_STRETCH_END (R411): the cycles of the stretch are counted. -/
def execDroopStretchEnd (cycles : BitVec 64) (s : State) : Host.Outcome State Fault Refusal :=
  if !s.stretched then .next s
  else .next (bump F.PWR_STRETCH_CYCLES cycles.toNat { s with stretched := false, droopLow := false })

/-- DROOP_QUIET_EXPIRE (R412): a paused ramp may go on and a deferred change begins; the ns paused are counted. -/
def execDroopQuietExpire (s : State) : Host.Outcome State Fault Refusal :=
  if s.droopLow ∨ s.quiet then .next s
  else
    let s2 := deferEnds { s with quiet := true }
    if s2.rampHard then .next s2 else .next (nextChange s2)

/-! ### Steam gaps (R419) -/

/-- STEAM_GAP_EXPIRE (R419): an engine in Steam ops without a tile job clock-gates one more quad, in the order Q3 to Q0. -/
def execSteamGapExpire (bay : Fin 20) (me : Fin 8) (s : State) : Host.Outcome State Fault Refusal :=
  let e := engRt s bay.val me.val
  if !e.steam then .next s
  else
    let g := gateNext e.gated
    .next (setEng bay.val me.val ⟨g != allQuads, g⟩ s)

/-! ### The module cap (R413 to R415) -/

/-- The cap in force: that of a sprint while one runs, else the lower of the tray's and the host's. -/
def capNow (s : State) : Nat :=
  if s.sprintOn.isSome then rf s F.PWR_CAP_SPRINT_W else min (rf s F.PWR_CAP_TRAY_W) (rf s F.PWR_CAP_HOST_W)

/-- An estimate: what a class draws with no activity, and its activity of 65,536 parts times what full activity adds. The
coefficients are those of the configuration image (R413, R435). -/
def estimate (s : State) (cls act : Nat) : Nat × Nat :=
  (Config.powerCoeff s.defaults cls 0, act * Config.powerCoeff s.defaults cls 1 / 65536)

/-- The largest n of 64 parts, at least 1, whose power fits an allowance (R414). -/
def largestPart (idle dyn allow : Nat) : Nat :=
  ((List.range 65).filter (fun n => 64 * idle + n * dyn ≤ 64 * allow)).foldl max 1

/-- INFEASIBLE is set or clears, with a notice (R415). -/
def infeasible (now : Bool) (need : Nat) (s : State) : State :=
  if now == (rf s F.PWR_STAT_INFEASIBLE == 1) then s
  else thermalNotice 3 0 (if now then 0 else 1) 7 0 need 0 0 (put F.PWR_STAT_INFEASIBLE now.toNat s)

/-- The µs for which n or m has been below 64 are counted up to now (R414). -/
def countLimited (s : State) : State :=
  let us := (aonNs s - s.capSince) / 1000
  if rf s F.PWR_STAT_CAP_LIMITED = 1 then bump F.PWR_CAP_LIMITED_US us { s with capSince := s.capSince + 1000 * us }
  else { s with capSince := aonNs s }

/-- The split of the cap (R413 to R415), with the activity of LINK, MEM and CMP in parts of 65,536. -/
def allocate (linkAct memAct cmpAct : Nat) (s : State) : State :=
  let fixed := (estimate s 0 0).1
  let l := estimate s 1 linkAct
  let m := estimate s 2 memAct
  let c := estimate s 3 cmpAct
  let link := l.1 + l.2
  let floor := rf s F.PWR_CAP_CFG_CMP_FLOOR_W
  let cap := capNow s
  let bad := decide (cap < fixed + link + floor)
  let budget := cap - fixed
  let memAllow := min (m.1 + m.2) (budget - link - floor)
  let cmp := budget - link - memAllow
  let cmpAllow := cmp - s.cmpEntry * s.cmpCut / 100
  let n0 := if bad then 1 else largestPart c.1 c.2 cmpAllow
  let n := if rf s F.PWR_TJ_STAT_AT_LIMIT = 1 then min 32 n0 else n0
  let ml := largestPart m.1 m.2 memAllow
  let s := infeasible bad (fixed + link + floor) (countLimited s)
  let s := put F.PWR_STAT_CAP_LIMITED (if n < 64 ∨ ml < 64 then 1 else 0)
    (put F.PWR_STAT_MEM_LIMIT ml (put F.PWR_STAT_DUTY n s))
  let s := put F.PWR_EST_FIXED_W fixed (put F.PWR_EST_LINK_W link
    (put F.PWR_EST_MEM_W (m.1 + m.2) (put F.PWR_EST_CMP_W (c.1 + c.2) s)))
  let uj := s.energyUj + 10 * (fixed + link + m.1 + m.2 * ml / 64 + c.1 + c.2 * n / 64)
  bump F.PWR_ENERGY_MJ (uj / 1000) { s with energyUj := uj % 1000, cmpAllow := cmp }

/-- POWER_ALLOCATION (R413 to R415), every 10 µs: the activity of LINK, MEM and CMP (DESIGN CHOICE for its operands, log 104). -/
def execPowerAllocation (link mem cmp : BitVec 17) (s : State) : Host.Outcome State Fault Refusal :=
  if clocked s then .next (allocate link.toNat mem.toNat cmp.toNat s) else .next s

/-! ### Junction temperature (R422) -/

/-- The reading of a sensor that counts: its value, TJ.LIMIT after three failures in succession, none before. -/
def tjReading (s : State) (k : Nat) (t : Option (BitVec 8)) : Option Nat :=
  match t with
  | some v => some v.toNat
  | none => if 3 ≤ smGet (fun _ => 0) s.tjMiss k then some (tjLimit s) else none

/-- Failures in succession are counted per sensor; the third sets SENSOR_FAIL, with a notice. -/
def tjCount (k : Nat) (t : Option (BitVec 8)) (s : State) : State :=
  match t with
  | some _ => { s with tjMiss := smSet (fun _ => 0) s.tjMiss k 0 }
  | none =>
    let n := min 3 (smGet (fun _ => 0) s.tjMiss k + 1)
    let first := decide (n = 3) && rf s F.PWR_TJ_STAT_SENSOR_FAIL == 0
    let s := { s with tjMiss := smSet (fun _ => 0) s.tjMiss k n }
    let s := if n = 3 then put F.PWR_TJ_STAT_SENSOR_FAIL 1 s else s
    if first then thermalNotice 1 0 0 4 (tjLimit s) 0 0 0 s else s

/-- The hottest of the readings and its sensor; a tie goes to the lower sensor. -/
def hottest (l : List (Nat × Nat)) : Nat × Nat :=
  l.foldl (fun a x => if a.1 < x.1 then x else a) (0, 0)

/-- THROTTLE: 2 % of the allowance at entry for each reading at or above TARGET, restored by 1 % per reading below (R422). -/
def throttle (hot : Nat) (s : State) : State :=
  let on := rf s F.PWR_TJ_STAT_THROTTLE == 1
  let s := if on then bump F.PWR_THROTTLE_US 100 s else s
  if tjTarget s ≤ hot then
    let s := { s with cmpCut := min 100 (s.cmpCut + 2) }
    if on then s else thermalNotice 1 0 0 5 hot 0 0 0 (put F.PWR_TJ_STAT_THROTTLE 1 { s with cmpEntry := s.cmpAllow })
  else
    let s := { s with cmpCut := s.cmpCut - 1 }
    if on && decide (hot + 2 < tjTarget s) && s.cmpCut == 0 then thermalNotice 1 0 1 5 hot 0 0 0 (put F.PWR_TJ_STAT_THROTTLE 0 s)
    else s

/-- LIMIT: any sprint ends, sprints are refused and the duty is at most 32 of 64 (R422). -/
def limit (hot : Nat) (s : State) : State :=
  let on := rf s F.PWR_TJ_STAT_AT_LIMIT == 1
  if tjLimit s ≤ hot then
    let s := sprintEnd (put F.PWR_STAT_CAP_LIMITED 1 (put F.PWR_STAT_DUTY (min 32 (rf s F.PWR_STAT_DUTY)) (countLimited s)))
    if on then s else thermalNotice 1 0 0 6 hot 0 0 0 (put F.PWR_TJ_STAT_AT_LIMIT 1 s)
  else if on && decide (hot + 5 < tjLimit s) then thermalNotice 1 0 1 6 hot 0 0 0 (put F.PWR_TJ_STAT_AT_LIMIT 0 s)
  else s

/-- The junction sensors are read (R422). -/
def junction (temps : List (Option (BitVec 8))) (s : State) : State :=
  let idx := (List.range 48).map (fun k => (k, temps.getD k none))
  let s := idx.foldl (fun s e => tjCount e.1 e.2 s) s
  let h := hottest (idx.filterMap (fun e => (tjReading s e.1 e.2).map (fun v => (v, e.1))))
  let s := put F.PWR_TJ_STAT_MAX h.1 (put F.PWR_TJ_STAT_SENSOR h.2 s)
  if 120 ≤ h.1 then emit (.thermtrip true) (put F.PWR_AON_TRIP_STOP 1 { stop s with tripLow := true })
  else limit h.1 (throttle h.1 s)

/-- JUNCTION_READ (R422, R424), every 100 µs: the 48 sensors; none for one that fails. -/
def execJunctionRead (temps : List (Option (BitVec 8))) (s : State) : Host.Outcome State Fault Refusal :=
  .next (withIbi (fun s => if s.rtrUp then junction temps s else s) s)

/-! ### Stack temperatures (R222 to R226) -/

/-- Whether step 4 of R224 waits: a Seam send runs, or a step whose verdict was contributed before the trip may still record
HEM (R225; DEDUCED, log 54). -/
def tripWaits (s : State) : Bool :=
  s.seamTx != [] || s.upds.any (fun u => !u.sent) || s.steps.any (fun r => r.st == .voting && !r.forced)

/-- Steps 4 and 5 of R224: CMP and MEM are fenced (R443), dirty cache lines are dropped (R194), and the stacks go into self-refresh. The
fence of a power-down that runs is theirs too; in a reset what is outstanding is answered at once (DEDUCED, log 54). -/
def tripFence (s : State) : State :=
  let s := { s with tripPend := false }
  if s.rst.kind = 0 then beginFence 9 s
  else if 7 ≤ s.rst.kind then s
  else
    let bad := !fenceQuiet 9 s
    let t := answerFence 9 (memFence { s with cmpUp := false })
    dropCache { (if bad then put F.RST_STAT_FENCE_ERR 1 t else t) with selfRefresh := true }

/-- The fence that waits takes place once nothing holds it, or at 110 °C (R225). -/
def tripGo (now : Bool) (s : State) : State := if s.tripPend && (now || !tripWaits s) then tripFence s else s

/-- A stack reaches 105 °C, or its sensor has failed (R223, R224). -/
def tripStack (k temp : Nat) (s : State) : State :=
  if bitsOf (rf s F.HBM_TSTAT_TRIP) k 1 = 1 then s
  else
    let first := !tripped s
    let s := thermalNotice 2 k 0 3 temp 0 1 0x16 (put F.HBM_TSTAT_TRIP (rf s F.HBM_TSTAT_TRIP ||| 2 ^ k) s)
    if !first then s
    else
      let live := s.steps.filter (fun r => r.st == .opened || r.st == .closing)
      let s := live.foldl (fun s r => forceClose 0x16 r.num (retireStep r.num 3 0x16 s)) s
      { s with tripPend := s.memUp }

/-- One threshold with its status bit (R222): entry and exit each post a notice. -/
def stackBit (f : Fld) (event enter leave k temp : Nat) (s : State) : State :=
  let on := bitsOf (rf s f) k 1 == 1
  if enter ≤ temp ∧ !on then thermalNotice 2 k 0 event temp 0 0 0 (put f (rf s f ||| 2 ^ k) s)
  else if temp < leave ∧ on then thermalNotice 2 k 1 event temp 0 0 0 (put f (rf s f - 2 ^ k) s)
  else s

/-- One stack's reading (R222 to R224) (DEDUCED, log 78). -/
def stackReading (k : Nat) (t : Option (BitVec 8)) (s : State) : State :=
  match t with
  | some v =>
    let s := put ⟨R.HBM_TEMP, 8 * k, 8⟩ v.toNat { s with sensorMiss := smSet (fun _ => 0) s.sensorMiss k 0 }
    let s := stackBit F.HBM_TSTAT_REFRESH2X 1 85 82 k v.toNat s
    let s := stackBit F.HBM_TSTAT_CUT 2 95 92 k v.toNat s
    if 105 ≤ v.toNat then tripStack k v.toNat s else s
  | none =>
    let n := min 3 (smGet (fun _ => 0) s.sensorMiss k + 1)
    let s := { s with sensorMiss := smSet (fun _ => 0) s.sensorMiss k n }
    if n < 3 ∨ bitsOf (rf s F.HBM_TSTAT_SENSOR_FAIL) k 1 = 1 then s
    else
      let s := put F.HBM_TSTAT_SENSOR_FAIL (rf s F.HBM_TSTAT_SENSOR_FAIL ||| 2 ^ k) s
      let t := bitsOf (rdReg s R.HBM_TEMP).toNat (8 * k) 8
      let s := thermalNotice 2 k 0 4 t 0 0 0 s
      tripStack k 105 (stackBit F.HBM_TSTAT_CUT 2 95 92 k 105 (stackBit F.HBM_TSTAT_REFRESH2X 1 85 82 k 105 s))

/-- STACK_TEMP_READ (R222 to R225), every 1 ms. What a cut regulator held back may issue once the cut ends (R220). -/
def execStackTempRead (temps : List (Option (BitVec 8))) (s : State) : Host.Outcome State Fault Refusal :=
  let hot := temps.any (fun t => match t with | some v => decide (110 ≤ v.toNat) | none => false)
  if !s.rtrUp then .next s
  else .next (withIbi (fun s =>
    let t := (List.range 8).foldl (fun s k => stackReading k (temps.getD k none) s) s
    tripGo hot (if rf t F.HBM_TSTAT_CUT = rf s F.HBM_TSTAT_CUT then t else kickHeld t)) s)

/-! ### Power states (R405, R425) -/

/-- Whether the device has no work: what IDLE asks for (R425). -/
def noWork (s : State) : Bool :=
  s.inflight == [] && s.upds == [] && s.seamRx.isNone && !pressRuns s && s.drain.isNone && s.xfer.isNone && s.loadRx.isNone && s.fillRx.isNone

/-- IDLE_ENTRY (R409, R425): entry 0 without the dwell, every quad clock-gated. -/
def execIdleEntry (s : State) : Host.Outcome State Fault Refusal :=
  if !noWork s ∨ !clocked s ∨ !s.rst.ready ∨ rf s F.PWR_STAT_STATE ≠ 0 then .next s
  else
    .next (goTo (entOf s 0) (put F.PWR_STAT_STATE 1 { s with eng := [] }))

/-- Leaving IDLE, at the first fetch (R425). -/
def idleExit (s : State) : State := if rf s F.PWR_STAT_STATE = 1 then put F.PWR_STAT_STATE 0 s else s

/-- Whether PARKED or Folded may be entered (R425): no ring enabled, no step live, no transfer or drain, no reset. A press copy
keeps neither off. -/
def mayPark (s : State) : Bool :=
  (List.range 64).all (fun c => (List.range 4).all (fun r => !ringOn s c r)) && s.steps == [] && s.xfer.isNone
    && s.loadRx.isNone && s.fillRx.isNone && s.drain.isNone && !s.restore.running && s.rst.kind == 0

/-- The device enters Folded, once every domain but AON is fenced: they are clamped, and lose power and contents (R425, R426,
R443). -/
def fold (s : State) : State := beginFence 8 s

/-- Whether a request for 1 ACTIVE, 2 PARKED or 3 FOLDED holds its conditions (R425, R451). -/
def stateReqOk (s : State) (req : Nat) : Bool :=
  match req with
  | 1 => parked s && rf s F.RST_STAT_OOS == 0 && s.rst.kind == 0 && s.rtrUp
  | 2 => mayPark s && !parked s && s.rtrUp
  | 3 => mayPark s && s.rtrUp
  | _ => false

/-- A write of PWR.CTL.STATE_REQ, or the POWER command (R425, R451, R458). -/
def stateReq (src : Source) (req : Nat) (s : State) : State :=
  if req = 0 then s
  else if !stateReqOk s req then setupRefused src R.PWR_CTL s
  else match req with
    | 1 => unpark s
    | 2 => park s
    | _ => fold s

/-- STATE_REQ_ACTIVE (R425, R451). -/
def execStateReqActive (s : State) : Host.Outcome State Fault Refusal :=
  .next (withIbi (byHost R.PWR_CTL (stateReq .host 1)) s)
/-- STATE_REQ_PARKED (R425). -/
def execStateReqParked (s : State) : Host.Outcome State Fault Refusal :=
  .next (withIbi (byHost R.PWR_CTL (stateReq .host 2)) s)
/-- STATE_REQ_FOLDED (R425). -/
def execStateReqFolded (s : State) : Host.Outcome State Fault Refusal :=
  .next (withIbi (byHost R.PWR_CTL (stateReq .host 3)) s)

/-- A write of CLK.CTL.SRC (R405): 1 only while the root PLL is locked. -/
def clockSource (src : Source) (v : Nat) (s : State) : State :=
  if v = 1 ∧ rf s F.CLK_STAT_ROOT_LOCK = 0 then setupRefused src R.CLK_CTL s else put F.CLK_CTL_SRC v s

/-- CTLCLK_SOURCE_SELECT (R405). -/
def execCtlclkSourceSelect (root : BitVec 1) (s : State) : Host.Outcome State Fault Refusal :=
  .next (byHost R.CLK_CTL (clockSource .host root.toNat) s)

end Sys2Proof.Machine
end

