-- ==== Sys2Proof/Machine/Setup.lean ====
section
/-!
DEFINITION. Set-up space (R476 to R495): what a register reads as, and a write with its checks, its RW and W1C fields and its
triggers; and the observation pins of R474, which the TEST registers select.
-/
namespace Sys2Proof.Machine

/-! ### The observation pins (R474) -/

/-- A unit runs something now, by its path code (R239, R474). What a unit of another kind counts as busy is not stated: a free value. -/
def unitBusy (s : State) (u : Nat) : Bool :=
  let runs := fun cls => s.inflight.any (fun d => dClass d == cls && d.run == .running)
  match u / 4096 with
  | 1 => s.inflight.any (fun d => d.mx.jobs.any (fun j =>
      j.issued && !j.drained && j.bay == unitBay u && j.me == unitMe u && j.quad == bitsOf u 2 2))
  | 2 => runs 1
  | 3 => runs 2
  | 4 => s.inflight.any (fun d => dClass d == 0 && d.run == .running)
  | 5 => s.inflight.any (fun d => dClass d == 3 && d.run == .running && bitsOf (dAxes d) (bitsOf u 10 2) 1 == 1)
  | 13 => (chanMoves s (bitsOf u 6 6)).any (fun d => d.dm.outst != [])
  | _ => Config.freeValue s.free % 2 == 1

/-- Whether the domain that a unit belongs to is fenced or off (R239, R433, R474). -/
def unitFenced (s : State) (u : Nat) : Bool :=
  match u / 4096 with
  | 10 => !s.memUp
  | 11 => !s.rtrUp
  | 12 | 13 => !s.hifUp
  | _ => !s.cmpUp

/-- What the pins OBS[15:0] show: the signal set selected while TEST_EN and DRIVE are 1, else 0. Whether a unit is stalled, the clocks,
and what marks a moment (a correction, a mismatch, a vote cell, HEM, FAIL) are free values (log 1) (DESIGN CHOICE, log 72). -/
def obsPins (s : State) : Nat :=
  if rf s F.SEC_STAT_TEST_EN = 0 ∨ rf s F.TEST_OBS_CTL_DRIVE = 0 then 0
  else
    let u := rf s F.TEST_OBS_SEL_UNIT
    let f := Config.freeValue s.free
    match rf s F.TEST_OBS_SEL_SET with
    | 0 =>
      let lent := s.lent.any (fun l => l.unit == u)
      let steam := unitKind u == 1 && (engRt s (unitBay u) (unitMe u)).steam
      (unitBusy s u).toNat + f % 2 * 2 + (unitFenced s u).toNat * 2 ^ 2 + f / 2 % 8 * 2 ^ 3 + lent.toNat * 2 ^ 6 + steam.toNat * 2 ^ 7
    | 1 =>
      f % 16 + s.stretched.toNat * 2 ^ 4 + rf s F.CLK_STAT_RAMPING * 2 ^ 5 + s.droopLow.toNat * 2 ^ 6
        + rf s F.CLK_STAT_DEFERRED * 2 ^ 7 + rf s F.CLK_STAT_ENTRY * 2 ^ 8
    | 2 =>
      rf s F.PWR_STAT_DUTY + rf s F.PWR_STAT_MEM_LIMIT * 2 ^ 7 + rf s F.PWR_STAT_SPRINT * 2 ^ 14
        + rf s F.PWR_TJ_STAT_THROTTLE * 2 ^ 15
    | 3 =>
      stepStatOf s 0 + stepStatOf s 1 * 2 ^ 3 + f % 16 * 2 ^ 6 + (s.upds.any (·.begun)).toNat * 2 ^ 10
        + (s.seamTx != []).toNat * 2 ^ 11
    | _ => 0

/-! ### Reads (R476 to R480) -/

/-- The MEM domain is unpowered or in reset: not merely fenced for a trip, in PARKED, or at the start of a reset (R480). -/
def memOff (s : State) : Bool := !s.memUp && !tripped s && !parked s && !s.rst.fencing

/-- The CMP domain is unpowered or in reset (R480). -/
def cmpOff (s : State) : Bool := !s.cmpUp && !tripped s && !s.rst.fencing

/-- A register with some of its fields replaced by what the device finds when it is read. -/
def withField (f : Fld) (x : Nat) (v : Nat) : Nat := withBits v f.lo f.w x

/-- The sum of a value over `n` requests from the one numbered `i`. -/
def waitSum (f : Nat → Nat) (i : Nat) : Nat → Nat
  | 0 => 0
  | n + 1 => f i + waitSum f (i + 1) n

/-- The fields that are computed from the state rather than stored. The cycles in which requests waited, which XBAR_WAIT and QFULL
count, are timing that no rule fixes: one free value for each request (log 1) (DESIGN CHOICE, log 81). -/
def liveReg (s : State) (a : Nat) : Nat :=
  let v := (rdReg s a).toNat
  if a = R.ID_DEV then withField F.ID_DEV_STEPPING Config.stepping.toNat (withField F.ID_DEV_SAMPLE Config.sample.toNat v)
  else if a = R.SETUP_CSTAT then (if rf s F.SSTORE_PSTAT_PENDING = 0 then 0 else 1)
  else if a = R.MGMT_ADDR then
    withField F.MGMT_ADDR_STATUS (s.mgmt.staDyn.getD (0x40 + s.maddr))
      (withField F.MGMT_ADDR_COMMAND (s.mgmt.cmdDyn.getD (0x48 + s.maddr)) (withField F.MGMT_ADDR_I3C s.i3c.toNat v))
  else if a = R.RST_ESC then withField F.RST_ESC_RECENT (min 15 (recentResets s)) v
  else if a = R.PWR_SPRINT_WINDOW_MS then sprintWindow s
  else if a = R.BOBBIN_NOW then nowNs s
  else if a = R.BOBBIN_RATE then (if s.rtrUp then bobRate s % 2 ^ 48 else 0)
  else if a = R.STEPSTAT_STATE then (if cmpOff s then 0 else stepStatOf s 0 + 8 * stepStatOf s 1)
  else if a = R.ROUTE_COORD then
    (List.range 4).foldl (fun v x => v + coordOf s (selfId s) x % 64 * 2 ^ (6 * x)) 0
  else if a = R.ROUTE_TSTAT then withField F.ROUTE_TSTAT_READY (ready s).toNat v
  else if a = R.HBM_TEMP ∨ a = R.HBM_TSTAT then (if memOff s then 0 else v)
  else if a = R.PWR_TJ_STAT then (if cmpOff s then 0 else v)
  else if a = R.SSTORE_XBAR_WAIT then waitSum Config.xbarWait s.xbarFrom s.xbarReqs % 2 ^ 64
  else if a = R.HBM_QFULL then waitSum Config.queueWait s.qfullFrom s.qfullReqs % 2 ^ 64
  else if 0x100000 ≤ a ∧ a < 0x110000 ∧ 0x28 ≤ a % 0x400 ∧ a % 0x400 ≤ 0x58 ∧ a % 16 = 8 then
    let c := (a - 0x100000) / 0x400
    let r := (a % 0x400 - 0x28) / 16
    withField ⟨a, 9, 1⟩ (ringBusy s c r).toNat (withField ⟨a, 32, 32⟩ (ringRt s c r).cons v)
  else v

/-- Whether an address lies in the block of CXL registers (R484). -/
def cxlBlock (a : Nat) : Bool := 0xE00000 ≤ a && a < 0xE20000

/-- Whether an address lies in the MSI-X table or its pending bits (R484). -/
def msixBlock (a : Nat) : Bool := 0xF00000 ≤ a && a < 0xF08100

/-- Whether some table of the chapter names a register at an address, the standard blocks included (R479, R484). -/
def mapped (a : Nat) : Bool := (regRow? a).isSome || cxlBlock a || msixBlock a

/-- What an aligned 8-byte register reads as: 0 where nothing lies (R479), WO and reserved fields 0 (R11). No read has an effect
(R478). -/
def readReg (a : Nat) (s : State) : Nat :=
  match regRow? a with
  | some r => liveReg s a &&& (r.rw ||| r.w1c ||| r.ro)
  | none =>
    if cxlBlock a then (if linkCxl s then (Config.cxlRegister (a - 0xE00000)).toNat else 0)
    else if msixBlock a then (rdReg s a).toNat
    else 0

/-- Whether an access of a size at a set-up byte address is one that the device takes (R477). -/
def accessOk (addr size : Nat) : Bool := (size == 8 && addr % 8 == 0) || (size == 4 && addr % 4 == 0)

/-- What a read of `size` bytes at a set-up byte address returns (R477, R478): a register, one half of it, or 0. -/
def setupRead (addr size : Nat) (s : State) : Nat :=
  if !accessOk addr size then 0
  else
    let v := readReg (addr / 8 * 8) s
    if size = 8 then v else bitsOf v (addr % 8 * 8) 32

/-! ### Writes (R477, R479, R482) -/

/-- Whether the new value of a register is refused by the rule that owns it: R57, R209, R295, R383, R489. -/
def writeRefused (s : State) (a old new : Nat) : Bool :=
  let anyOn := fun c => (List.range 4).any (fun r => ringOn s c r)
  if a = R.STEPCFG_CTL then
    let oc := bitsOf old 0 6
    let nc := bitsOf new 0 6
    s.steps != [] || (oc != nc && (anyOn oc || anyOn nc)) || (bitsOf old 6 1 != bitsOf new 6 1 && anyOn oc)
  else if a = R.STEPCFG_KEEP_BASE then
    s.steps != [] || new % 2 ^ 20 != 0 || decide (0xBFC0000000 < new + rf s F.STEPCFG_KEEP_SIZE_MIB * 2 ^ 20)
  else if a = R.STEPCFG_KEEP_SIZE then
    s.steps != [] || decide (0xBFC0000000 < rf s F.STEPCFG_KEEP_BASE_ADDR + new * 2 ^ 20)
  else if a = R.COLL_STAGE then
    decide (new < 0xC000000000 ∧ 0xBFC0000000 < new + max 1 (rf s F.COLL_STAGE_SIZE_MIB * 2 ^ 20))
  else if a = R.COLL_STAGE_SIZE then
    let b := rf s F.COLL_STAGE_BASE
    decide (b < 0xC000000000 ∧ 0xBFC0000000 < b + max 1 (new * 2 ^ 20))
  else if a = R.ROUTE_PORTATTR0 ∨ (0x74000 ≤ a ∧ a < 0x78000) then tableState s 0 != 0
  else if a = R.ROUTE_PORTATTR1 ∨ (0x78000 ≤ a ∧ a < 0x7C000) then tableState s 1 != 0
  else if 0x100000 ≤ a ∧ a < 0x110000 then
    let c := (a - 0x100000) / 0x400
    let o := a % 0x400
    if o = 0 then bitsOf old 0 2 != bitsOf new 0 2 && anyOn c
    else if 0x20 ≤ o ∧ o ≤ 0x50 ∧ o % 16 = 0 then old != new && ringOn s c ((o - 0x20) / 16)
    else false
  else false

/-- Packets held at injection go out when HOLD_NEW is cleared while a table drains (R297). -/
def unhold (s : State) : State :=
  if rf s F.ROUTE_CTL_HOLD_NEW = 1 then s else s.injHeld.foldl (fun s p => launch p s) { s with injHeld := [] }

/-- What a write of value `v` under a mask does once its RW and W1C fields are applied (R482); `armed` is HBM.TG_CTL.ARM as it
stood before. -/
def trigger (src : Source) (a v mask : Nat) (armed : Bool) (s : State) : State :=
  let bit := fun i => bitsOf v i 1 == 1
  if a = R.RST_CTL then resetReq src (bitsOf v 0 3) s
  else if a = R.SSTORE_GROUP_COMMIT then (if bit 0 then commitSstore src s else s)
  else if a = R.HBM_GROUP_COMMIT then (if bit 0 then commitHbm s else s)
  else if a = R.ROUTE_GROUP_COMMIT then (if bit 0 then commitRoute src s else s)
  else if a = R.SEAM_GROUP_COMMIT then (if bit 0 then commitSeam src s else s)
  else if a = R.OPP_GROUP_COMMIT then (if bit 0 then commitOpp src s else s)
  else if a = R.HBM_TG_CTL then (if bit 0 then tgStart src armed s else s)
  else if a = R.LINT_CTL then (if bit 1 then lintLoad s else s)
  else if a = R.ROUTE_CTL then unhold (if bit 16 then forceRelease s else s)
  else if a = R.BOBBIN_SET then bobbinSet src v s
  else if a = R.PWR_CTL then stateReq src (bitsOf v 0 2) s
  else if a = R.SEAM_XFER then (if bit 31 then startXfer src s else s)
  else if a = R.SEAM_CKPT_CTL then (if bit 0 then ckptNow s else s)
  else if a = R.SEAM_RESTORE then
    match bitsOf v 0 2 with
    | 1 => restorePrepare s | 2 => restoreCommit s | 3 => restoreAbort s | _ => s
  else if a = R.SEAM_JOB_START then (if bit 63 then jobStart src s else s)
  else if 0x80800 ≤ a ∧ a < 0x80A00 then
    if bitsOf mask 0 1 = 1 then doorbellReg ((a - 0x80800) / 8) (bitsOf v 32 2) (bitsOf v 0 32) s else s
  else if 0x110000 ≤ a ∧ a < 0x114000 ∧ a % 0x100 = 0 then
    moverCtl ((a - 0x110000) / 0x100) (bitsOf v 0 1) (bitsOf v 1 1) s
  else if 0x60100 ≤ a ∧ a < 0x60700 ∧ a % 0x80 = 0 then
    let n := (a - 0x60100) / 0x80
    let s := portEnable n s
    if bit 5 then retrain n (bit 6) s else s
  else if 0x30000 ≤ a ∧ a < 0x44000 ∧ a % 0x1000 = 0 then endSteam s
  else if 0x100000 ≤ a ∧ a < 0x110000 ∧ a % 0x400 = R.CTX_WAIT 0 - 0x100000 then noteIdle (prefetch s)
  else s

/-- A write of the MSI-X table: a vector whose mask clears while it is pending is sent (PRESUMED, log 3). The pending bits take
no write. -/
def msixWrite (a v mask : Nat) (s : State) : State :=
  if 0xF08000 ≤ a then s
  else
    let old := (rdReg s a).toNat
    let s := putReg a (BitVec.ofNat 64 (old - (old &&& mask) + (v &&& mask))) s
    let k := (a - 0xF00000) / 16
    let pa := 0xF08000 + k / 64 * 8
    if a % 16 = 8 ∧ bitsOf (rdReg s a).toNat 32 1 = 0 ∧ bitsOf (rdReg s pa).toNat (k % 64) 1 = 1 then
      emit (.msix k) (putReg pa (BitVec.ofNat 64 ((rdReg s pa).toNat - 2 ^ (k % 64))) s)
    else s

/-- The fields of a register take a write (R11, R479, R482): RW fields under the mask first, with W1C bits, then the triggers.
A write that its trigger refuses, and so flags, leaves the register as it was (R479). CLK.CTL.SRC and RINGr.CTL keep their own rules
(R383, R405). -/
def applyWrite (src : Source) (r : RegRow) (a v mask : Nat) (s : State) : State :=
  let old := (rdReg s a).toNat
  let m := r.rw &&& mask
  let new := old - (old &&& m) + (v &&& m)
  if writeRefused s a (old &&& r.rw) (new &&& r.rw) then setupRefused src a s
  else if a = R.CLK_CTL then clockSource src (bitsOf new 0 1) s
  else if 0x100000 ≤ a ∧ a < 0x110000 ∧ 0x28 ≤ a % 0x400 ∧ a % 0x400 ≤ 0x58 ∧ a % 16 = 8 then
    if m = 0 then s
    else ringCtl src ((a - 0x100000) / 0x400) ((a % 0x400 - 0x28) / 16) (bitsOf new 0 5) (bitsOf new 8 1) s
  else
    let clear := new &&& (v &&& mask &&& r.w1c)
    let t := trigger src a (v &&& mask &&& (r.wo ||| r.rw)) mask (rf s F.HBM_TG_CTL_ARM == 1)
      (putReg a (BitVec.ofNat 64 (new - clear)) s)
    if r.rw = 0 then t else unlessRefused a s t

/-- A write of `size` bytes at a set-up byte address (R477, R479, R12). Of several causes for an error the first in the order
size and alignment, unmapped, not ready, reserved, refused is taken (DESIGN CHOICE, log 55); a reserved bit is ignored and the
rest of the write is applied. An error of a write that clears FLAG leaves FLAG set (R481). -/
def setupWrite (src : Source) (addr size value : Nat) (s : State) : State :=
  let a := addr / 8 * 8
  if !accessOk addr size then setupError 6 src a s
  else if !mapped a then setupError 5 src a s
  else if src == .host && notReady s && !(0x1000 ≤ a && a < 0x3000) then setupError 7 src a s
  else
    let hi := size == 4 && addr % 8 == 4
    let mask := if size = 8 then 2 ^ 64 - 1 else if hi then (2 ^ 32 - 1) * 2 ^ 32 else 2 ^ 32 - 1
    let v := if hi then value % 2 ^ 32 * 2 ^ 32 else value % 2 ^ 64
    match regRow? a with
    | none => if msixBlock a then msixWrite a v mask s else s
    | some r =>
      let rsvd := v &&& mask &&& (2 ^ 64 - 1 - (r.rw ||| r.w1c ||| r.wo ||| r.ro))
      let err := fun s => if rsvd = 0 then s else setupError 1 src a s
      if a = R.SETUP_ERR then err (applyWrite src r a v mask s) else applyWrite src r a v mask (err s)

/-- SETUP_REGISTER_WRITE (R476 to R479, R482): a write of the host over its link. -/
def execSetupRegisterWrite (addr : BitVec 24) (size : BitVec 4) (value : BitVec 64) (s : State) :
    Host.Outcome State Fault Refusal :=
  .next (withIbi (fun s => if linkUp s then setupWrite .host addr.toNat size.toNat value.toNat s else s) s)

/-- RING_ENABLE (R383, R390, R451). -/
def execRingEnable (ctx : Fin 64) (ring : Fin 4) (log2 : BitVec 5) (s : State) : Host.Outcome State Fault Refusal :=
  .next (byHost (R.CTX_RING_CTL ctx.val ring.val) (ringCtl .host ctx.val ring.val log2.toNat 1) s)

/-- RING_DISABLE (R383): ENABLE 0, LOG2 as it stands. -/
def execRingDisable (ctx : Fin 64) (ring : Fin 4) (s : State) : Host.Outcome State Fault Refusal :=
  .next (byHost (R.CTX_RING_CTL ctx.val ring.val)
    (fun s => ringCtl .host ctx.val ring.val (rf s (F.CTX_RING_CTL_LOG2 ctx.val ring.val)) 0 s) s)

/-- STEPCFG_WRITE (R489): CTL, KEEP_BASE or KEEP_SIZE, written whole. -/
def execStepcfgWrite (reg : Fin 3) (value : BitVec 64) (s : State) : Host.Outcome State Fault Refusal :=
  if linkUp s then .next (setupWrite .host (R.STEPCFG_CTL + 8 * reg.val) 8 value.toNat s) else .next s

end Sys2Proof.Machine
end

