-- ==== Sys2Proof/Machine/Boot.lean ====
section
/-!
DEFINITION. Start-up (R436 to R442, R466, R470, R471, R503, R504): power, the choice of an image, bring-up tables, the phases of a
cold start, a wake and the later phases of a MEM reset; the host link down and up (R369, R388, R396).
-/
namespace Sys2Proof.Machine

/-! ### Helper data and the owner record (R466, R470, R471) -/

/-- The offset of a helper-region copy (R470). -/
def helperBase (k : Nat) : Nat := 0x8000000 + 0x8000 * k

/-- Whether a copy holds valid helper data: 16 KiB ending in the SHA-512 of what comes before (R470, R471). -/
def helperOk (s : State) (k : Nat) : Bool :=
  sha512 (flashRead s (helperBase k) 16320) == flashRead s (helperBase k + 16320) 64

/-- A key derived from the seed by HKDF-SHA-512 with an info string (R470). The seed goes in as 32 big-endian bytes, without a
salt, and 64 bytes come out (DESIGN CHOICE, log 57). -/
def seedKey (seed : Nat) (info : List Byte) : List Byte := hkdf512 [] (beBytes seed 32) info 64

/-- The info string of the owner MAC key (R470): "owner" in ASCII. -/
def infoOwner : List Byte := [0x6F, 0x77, 0x6E, 0x65, 0x72]
/-- The info string of the identity DRBG seed (R470): "identity" in ASCII. -/
def infoIdentity : List Byte := [0x69, 0x64, 0x65, 0x6E, 0x74, 0x69, 0x74, 0x79]

/-- The offset of the owner record of a copy: after the helper data (R470). -/
def ownerBase (k : Nat) : Nat := helperBase k + 0x4000

/-- Whether the owner record of a copy is valid (R466). -/
def ownerOk (s : State) (seed k : Nat) : Bool :=
  flashNat s (ownerBase k) 8 == 0x44524345524E574F
    && hmac512 (seedKey seed infoOwner) (flashRead s (ownerBase k) 576) == flashRead s (ownerBase k + 576) 64

/-- The owner record of a copy. -/
def ownerOf (s : State) (k : Nat) : OwnerRt :=
  ⟨flashNat s (ownerBase k + 8) 8, flashNat s (ownerBase k + 16) 1, flashRead s (ownerBase k + 64) 512⟩

/-- The record in force: of the valid ones, that with the higher GEN (R466). -/
def ownerPick (s : State) (seed : Nat) : OwnerRt :=
  match ownerOk s seed 0, ownerOk s seed 1 with
  | true, true => if (ownerOf s 0).gen < (ownerOf s 1).gen then ownerOf s 1 else ownerOf s 0
  | true, false => ownerOf s 0
  | false, true => ownerOf s 1
  | false, false => ⟨0, 0, []⟩

/-- The record in force is shown in SEC (R475). -/
def ownerShow (o : OwnerRt) (s : State) : State :=
  let has := o.key.any (fun b => b != 0)
  put F.SEC_STAT_OWNER has.toNat (put F.SEC_STAT_POLICY (o.policy % 2) (putReg R.SEC_OWNER_GEN (BitVec.ofNat 64 o.gen)
    { s with owner := o }))

/-- The device enrols (R471): new helper data in both copies, no owner record, an empty certificate chain (log 68). -/
def enrol (s : State) : State :=
  let f := drawFree s
  let h := (Config.pufHelper f.1 ++ List.replicate 16320 0#8).take 16320
  let img := h ++ sha512 h
  let s := flashErase 0x8000000 0x10000 f.2
  put F.SEC_STAT_ENROLLED 1 (flashProgram (helperBase 1) img (flashProgram (helperBase 0) img s))

/-- The PUF step of phase 2 (R470, R471): with valid helper data the seed is reconstructed, if it can be; without any the
device enrols. The identity key is generated anew after phase 7 (DEDUCED, log 67; log 68). -/
def pufStep (can : Bool) (s : State) : State :=
  let s := put F.SEC_STAT_ID_READY 0 (putReg R.ID_SERIAL 0#64 { s with spdm := ⟨false, 0, [], [], []⟩ })
  let fresh := !helperOk s 0 && !helperOk s 1
  let s := if fresh then enrol s else s
  let k := if helperOk s 0 then 0 else 1
  if can || fresh then
    let seed := Config.pufKey (flashRead s (helperBase k) 16320) % 2 ^ 256
    let s := { s with pufSeed := some seed }
    ownerShow (ownerPick s seed) s
  else ownerShow ⟨0, 0, []⟩ { s with pufSeed := none }

/-! ### The choice of an image (R436) -/

/-- The copies allowed, in the order they are tried: the higher image sequence number first, copy A of equal ones. -/
def imageOrder (s : State) : List Nat :=
  match s.bootSel with
  | 0 => if imageSeq s 0 < imageSeq s 1 then [1, 0] else [0, 1]
  | 1 => [0]
  | 2 => [1]
  | _ => []

/-- Recovery (R436): only AON is powered. -/
def recovery (s : State) : State :=
  put F.RST_STAT_BUSY 0 (put F.RST_STAT_PHASE 9 (powerOff s))

/-- Phase 3 begins with the POWER table (R439). -/
def enterPhase (n : Nat) (s : State) : State := put F.RST_STAT_PHASE n { s with rst := { s.rst with phase := n } }

/-- Phase 2 (R436, R439, R470): ALT_USED says that the copy tried first has failed (R453). -/
def imagePhase (can : Bool) (s : State) : State :=
  let s := pufStep can s
  match imageOrder s with
  | [] => recovery s
  | c :: cs =>
    let use := fun c (alt : Nat) =>
      enterPhase 3 (put F.RST_STAT_IMAGE c (put F.RST_STAT_ALT_USED alt { s with tables := [⟨1, 0, 0⟩] }))
    if imageOk s (imageBase c) then use c 0
    else match cs with
      | c2 :: _ => if imageOk s (imageBase c2) then use c2 1 else recovery (put F.RST_STAT_ALT_USED 1 s)
      | [] => recovery (put F.RST_STAT_ALT_USED 1 s)

/-! ### Failure of a start-up (R441) -/

/-- The failure is latched in RST.BOOT_FAIL. -/
def latchFail (phase table unit entry : Nat) (s : State) : State :=
  put F.RST_BOOT_FAIL_VALID 1 (put F.RST_BOOT_FAIL_PHASE phase (put F.RST_BOOT_FAIL_TABLE table
    (put F.RST_BOOT_FAIL_UNIT unit (put F.RST_BOOT_FAIL_ENTRY entry s))))

/-- The start-up stops with PHASE FAILED: MEM and CMP are off behind their clamps, HIF and RTR stay powered (R426, R441). -/
def bootFail (table unit entry : Nat) (s : State) : State :=
  let s := latchFail s.rst.phase table unit entry s
  put F.RST_STAT_BUSY 0 (put F.RST_STAT_PHASE 8 { clampOn [.cmp, .mem] s with
    memUp := false, cmpUp := false, selfRefresh := true, tables := s.tables.filter (fun t => 3 ≤ t.table)
    rst := ⟨0, false, 0, s.rst.ms, false⟩ })

/-! ### Bring-up tables (R437, R438, R441) -/

/-- A WRITE of a table, 8 bytes: whether it was applied without error. It may not name the blocks HIF, DMn and CTXn (R483).
LINT.MIN_VERSION, which nothing else may write, is written by the set-up defaults (R253, R435). -/
def tableWrite (addr value : Nat) (s : State) : Bool × State :=
  if hifReg addr then (false, setupRefused .bringUp addr s)
  else if addr = R.LINT_MIN_VERSION then (true, putReg addr (BitVec.ofNat 64 (value % 2 ^ 32)) s)
  else
    let t := setupWrite .bringUp addr 8 value s
    (rf t F.SETUP_ERR_COUNT == rf s F.SETUP_ERR_COUNT, t)

/-- The set-up defaults, entry by entry (R435, R483). Answers the entry that failed. -/
def runDefaults : Nat → Nat → State → Option Nat × State
  | 0, _, s => (none, s)
  | n + 1, i, s =>
    match tableEntryAt s 1 i with
    | none => (none, s)
    | some e =>
      if e.op = 0x0F then (none, s)
      else if e.op ≠ 1 then (some i, s)
      else
        let r := tableWrite e.addr e.value s
        if r.1 then runDefaults n (i + 1) r.2 else (some i, r.2)

/-- A TG entry that passes (R227, R228, R438): the channels of the stack are run with the configuration given, and hold what
the generators wrote. -/
def tableTg (stack value : Nat) (s : State) : State :=
  let s := tgBegin (putReg R.HBM_TG_CFG (BitVec.ofNat 64 value) s)
  match s.tgRun with
  | none => s
  | some r => tgEnd { r with chans := (List.range 32).map (fun c => (stack, c)) } [] s

/-- A TG entry that fails leaves TG_CFG as it set it, and what its checkers found, which the stacks decide (R228, R438). -/
def tableTgFail (value : Nat) (s : State) : State :=
  let f := drawFree (tgBegin (putReg R.HBM_TG_CFG (BitVec.ofNat 64 value) s))
  put F.HBM_TG_CTL_BUSY 0 (put F.HBM_TG_ERRCNT f.1 { f.2 with tgBusy := false, tgRun := none })

/-! ### PHY addresses (R438) -/

/-- The number of a PHY-internal address: the table, whose units the PHYs are, the unit, and the address. -/
def phyKey (table unit addr : Nat) : Nat := table * 2 ^ 56 + unit % 256 * 2 ^ 48 + addr % 2 ^ 48

/-- What a PHY-internal address holds: what was last written, else what the PHY came up with. -/
def phyRead (s : State) (key : Nat) : Nat :=
  match s.phy.find? (fun e => e.1 == key) with
  | some e => e.2
  | none => (Config.phyFirst key).toNat

/-- A PHY-internal address is written, or found to hold a value. -/
def phyWrite (key v : Nat) (s : State) : State := { s with phy := (key, v) :: s.phy.filter (fun e => e.1 != key) }

/-- The run of a table replaced. -/
def setRun (t : TableRun) (entry : Nat) (s : State) : State :=
  { s with tables := s.tables.map (fun x => if x = t then ⟨t.table, t.unit, entry⟩ else x) }

/-- A table has ended: a port whose PORT table is complete may leave DARK (R439). -/
def endTable (t : TableRun) (s : State) : State :=
  let s := { s with tables := s.tables.filter (fun x => x != t) }
  if t.table = 3 then portEnable t.unit s else s

/-- A table fails (R441): POWER and HBM stop the start-up; a PORT table leaves its port DARK and a HOST table the link down (DEDUCED, log 58). -/
def failTable (t : TableRun) (s : State) : State :=
  if t.table ≤ 2 then bootFail t.table t.unit t.entry s
  else
    let s := setRun t 65536 s
    if rf s F.RST_BOOT_FAIL_VALID = 1 then s else latchFail s.rst.phase t.table t.unit t.entry s

/-- One entry of a table (R438): `ok` says that a wait is over, that the PHY has come to hold what a PHY poll expects, or that a TG run
passed; a POLL that does not match yet goes on waiting unless it timed out. A section that ends without END ends its table (DESIGN CHOICE,
log 136). -/
def runEntry (t : TableRun) (ok : Bool) (s : State) : State :=
  match tableEntryAt s (t.table + 1) t.entry with
  | none => endTable t s
  | some e =>
    let unit := if e.unit = 0xFF then t.unit else e.unit
    let next := setRun t (t.entry + 1)
    match e.op with
    | 0x01 => let r := tableWrite e.addr e.value s; if r.1 then next r.2 else failTable t r.2
    | 0x02 => if setupRead e.addr 8 s &&& e.mask = e.value then next s else if ok then s else failTable t s
    | 0x03 => next s
    | 0x04 => next (phyWrite (phyKey t.table unit e.addr) e.value s)
    | 0x05 =>
      let k := phyKey t.table unit e.addr
      let v := phyRead s k
      if v &&& e.mask = e.value then next s
      else if ok then next (phyWrite k (v - (v &&& e.mask) + (e.value &&& e.mask)) s)
      else failTable t s
    | 0x06 => if ok then next (tableTg unit e.value s) else failTable t (tableTgFail e.value s)
    | 0x0F => endTable t s
    | _ => failTable t s

/-- BRING_UP_ENTRY (R437, R438, R441): the next entry of a running table; 0 POWER, 1 HBM, 2 PORT, 3 HOST. -/
def execBringUpEntry (table : Fin 4) (unit : BitVec 8) (ok : Bool) (s : State) : Host.Outcome State Fault Refusal :=
  match s.tables.find? (fun t => t.table == table.val + 1 && t.unit == unit.toNat && t.entry < 65536) with
  | none => .next s
  | some t => .next (withIbi (runEntry t ok) s)

/-! ### The phases (R439, R442, R447, R451) -/

/-- Whether a table of a number still runs. -/
def tableRuns (s : State) (n : Nat) : Bool := s.tables.any (fun t => t.table == n)

/-- Phase 3 ends (R439): set-up defaults, with the permitted link modes and the power coefficients (R435), then the PORT and HOST tables
are started. -/
def powerTablePhase (s : State) : State :=
  let b := match imageSection? s 1 with | some p => flashRead s p.1 p.2 | none => []
  let r := runDefaults (b.length / 32) 0 { s with defaults := b }
  match r.1 with
  | some i => bootFail 0 0 i r.2
  | none => enterPhase 4 { r.2 with tables := r.2.tables ++ (List.range 12).map (fun p => ⟨3, p, 0⟩) ++ [⟨4, 0, 0⟩] }

/-- The Lint pack of the image in use is checked and installed, and the records of R247 are cleared (R439, R442) (DEDUCED, log 59). -/
def lintPhase (s : State) : State :=
  let base := imageInUse s + 0x1000000
  let n := packLength (flashRead s base 512)
  let p := flashRead s base (if n ≤ 48 * 2 ^ 20 then n else 512)
  let s := if packResult s p = 1 then installPack p (access .other false true (packWrites p) s) else put F.LINT_STAT_VERSION 0 { s with lintPack := [] }
  { s with lintRecs := [], lintOld := [], lintRan := [], lintFirst := none, lintSince := aonNs s }

/-- A valid out-of-service record sets the latch (R451, R452). -/
def findOos (s : State) : State := if flashNat s 0x8010000 8 = oosMagic then put F.RST_STAT_OOS 1 s else s

/-- Phase 7 (R439): the start-up is complete. -/
def bootDone (s : State) : State :=
  finishReset (putReg R.RST_BOOT_MS (BitVec.ofNat 64 (s.rst.ms % 2 ^ 32)) (put F.RST_STAT_PHASE 7
    { s with cmpUp := true, upOnce := true, rst := { s.rst with ready := true } }))

/-- A phase ends (R439). `ok`: in phase 2 the seed can be reconstructed, in phase 4 every SRAM could be repaired. Phases 5 and
6 of a MEM reset end in its restart (R445, R447). -/
def phaseDone (ok : Bool) (s : State) : State :=
  match s.rst.phase with
  | 1 => if s.rails then enterPhase 2 (pllLock { s with rtrUp := true, hifUp := true, clamps := [] }) else s
  | 2 => imagePhase ok s
  | 3 => if tableRuns s 1 then s else powerTablePhase s
  | 4 => if ok then enterPhase 5 { s with tables := s.tables ++ (List.range 8).map (fun k => ⟨2, k, 0⟩) } else bootFail 0 0 0 s
  | 5 =>
    if tableRuns s 2 then s
    else
      let s := { s with memUp := !parked s, selfRefresh := parked s }
      if s.rst.kind = 2 then { s with rst := { s.rst with phase := 6 } } else enterPhase 6 s
  | 6 =>
    let s := lintPhase s
    if s.rst.kind = 2 then finishReset (kickMoves (cmpRestart s)) else bootDone (findOos s)
  | _ => s

/-- BOOT_PHASE_COMPLETE (R439): the phase in progress ends, after the milliseconds it took. -/
def execBootPhaseComplete (ok : Bool) (ms : BitVec 32) (s : State) : Host.Outcome State Fault Refusal :=
  if s.rst.phase = 0 then .next s
  else .next (withIbi (fun s => phaseDone ok { s with rst := { s.rst with ms := s.rst.ms + ms.toNat } }) s)

/-! ### Power (R428, R436, R439, R454, R503, R504) -/

/-- The cold start from phase 1, with the straps as sampled (R436, R439, R454, R458). -/
def coldStart (bootSel : Nat) (s : State) : State := startUp 5 1 { s with bootSel := bootSel, bootPins := bootSel }

/-- COLD_START (R439, R503): AON power is good; the straps are sampled. -/
def execColdStart (bootSel : BitVec 2) (i3c : Bool) (maddr : BitVec 3) (s : State) : Host.Outcome State Fault Refusal :=
  if s.rst.kind ≠ 0 ∨ s.folded ∨ rf s F.RST_STAT_PHASE ≠ 0 then .next s
  else .next (coldStart bootSel.toNat { s with i3c := i3c, maddr := maddr.toNat })

/-- The wake timeline up to the lock of the PLL; the cold-start sequence goes on from the image phase (R428). -/
def wakeUp (s : State) : State := pllLock (startUp 6 2 s)

/-- Whether COOLANT_OK has held for 1 s (R428). -/
def coolantHeld (s : State) : Bool := s.coolantSince.any (fun t => decide (t + 1000000000 ≤ aonNs s))

/-- The address of the command target matches (R427, R428, R454, R504): a Folded device wakes, after a stop only once COOLANT_OK has
held for 1 s; without RAILS_OK the timeline waits for it (DESIGN CHOICE, log 56). -/
def addressMatch (s : State) : State :=
  let stopped := rf s F.PWR_AON_COOLANT_STOP = 1 ∨ rf s F.PWR_AON_TRIP_STOP = 1
  if !s.folded ∨ (stopped ∧ !coolantHeld s) then s
  else if s.rails then wakeUp s
  else { s with rst := { s.rst with kind := 6 } }

/-- WAKE (R427, R428): a transaction that does no more than match the address. -/
def execWake (s : State) : Host.Outcome State Fault Refusal := .next (withIbi addressMatch s)

/-- RAILS_OK_ASSERT (R503, R504). -/
def execRailsOkAssert (s : State) : Host.Outcome State Fault Refusal :=
  if s.folded ∧ s.rst.kind = 6 then .next (withIbi (fun s => wakeUp { s with rails := true }) s)
  else .next { s with rails := true }

/-- AON_POWER_LOSS (R504): every state of the device but the flash is lost; THERMTRIP_N is released (R424) (DEDUCED, log 69). -/
def execAonPowerLoss (s : State) : Host.Outcome State Fault Refusal :=
  let t := if s.tripLow then emit (.thermtrip false) s else s
  .next { State.reset with
    pending := t.pending, out := t.out, free := t.free, host := t.host, flash := t.flash, rails := t.rails }

/-! ### The host link (R369, R388, R396) -/

/-- The channels with bursts outstanding halt with kind LINK_DOWN (R394, R396). -/
def haltAll (s : State) : State :=
  (s.inflight.filter (fun d => dClass d == 4 && dOp d != 3 && d.dm.outst != [] && !d.dm.stopped)).foldl (fun s d =>
    if rf s (F.DM_STAT_HALTED (dmChan s d.ctx)) = 1 then s
    else haltChannel (dmChan s d.ctx) (d.dm.outst.foldl (fun a o => min a o.1) (mvLen d)) 6 d s) s

/-- HOST_LINK_DOWN (R396, R448): held window reads and doorbell lines are lost with the link (DEDUCED, log 70). -/
def execHostLinkDown (s : State) : Host.Outcome State Fault Refusal :=
  if !linkServes s then .next s
  else
    let s1 := bump F.HIF_LINK_DOWN 1 (put F.HIF_LINK_MODE 0 (put F.HIF_LINK_WIDTH 0 { s with heldReads := [], dbHeld := [] }))
    .next (raiseVec (rf s1 F.HIF_ERR_VEC_VEC) (haltAll s1))

/-- What waited for the link is written, in order: write-backs and timing records, then the notices held (R93, R396). -/
def flushWaiting (s : State) : State :=
  let s := s.wbWait.foldl (fun s w => hostPoke w.1 w.2 s) { s with wbWait := [] }
  (List.range 64).foldl (fun s c => flushNotices c 64 s) s

/-- Every doorbell line is taken and read again; the PCIe modes have none (R386, R388, R389). -/
def rereadDoorbells (s : State) : State :=
  if linkCxl s then (List.range 64).foldl (fun s c =>
    if (List.range 4).any (fun r => ringOn s c r) then readDoorbells c (takeLine c s) else s) s else s

/-- The fence of a HIF reset is over and its link may train (R445). -/
def hifReady (s : State) : State :=
  if s.rst.kind = 3 then finishReset { (if s.rst.fencing then endFence s else s) with hifUp := true } else s

/-- The mode in which the link trains (R369): the first, in the order of the table, that the partner supports, of those that bit `k` of
`modes` stands for as mode `k + 1`, and that the image permits. The device supports each of them. -/
def linkMode (s : State) (modes : BitVec 6) : Option Nat :=
  ((List.range 6).find? (fun k => (modes &&& Config.imageModes s.defaults).getLsbD k)).map (· + 1)

/-- Whether the host link may train: its domain runs, or the fence of its reset is over; its HOST table has been started, runs no
longer and has not failed (R439, R441, R445; DESIGN CHOICE, log 66). -/
def linkMay (s : State) : Bool :=
  (s.hifUp || (s.rst.kind == 3 && (!s.rst.fencing || fenceQuiet 3 s))) && !tableRuns s 4 && s.rst.phase ∉ [1, 2, 3]

/-- The link has trained (R388, R396, R445): a HIF reset ends with it, what waited is written, and the doorbell lines are read. -/
def linkTrained (mode width : Nat) (s : State) : State :=
  let s := put F.HIF_LINK_WIDTH width (put F.HIF_LINK_MODE mode (hifReady s))
  raiseVec (rf s F.HIF_ERR_VEC_VEC) (kickMoves (rereadDoorbells (flushWaiting s)))

/-- HOST_LINK_UP (R369, R370, R388, R396): the modes that the link partner supports, and the width of the link. -/
def execHostLinkUp (modes : BitVec 6) (width : BitVec 5) (s : State) : Host.Outcome State Fault Refusal :=
  match linkMode s modes with
  | none => .next s
  | some m =>
    if linkUp s || !linkMay s || !([4, 8, 16].contains width.toNat) then .next s
    else .next (withIbi (linkTrained m width.toNat) s)

end Sys2Proof.Machine
end

