-- ==== Sys2Proof/Machine/Fetch.lean ====
section
/-!
DEFINITION. The fetch turn of a ring (R303, R379, R384, R425), the retirement of a descriptor (R73, R96, R240), and the arrival of a
Seam acknowledgement, which may let a thermal trip's fence go on (R225, R348).
-/
namespace Sys2Proof.Machine

/-- Whether a ring is fetched now (R50, R303, R379, R448): the link is up, the ring is enabled, its step is not being discarded,
and for the step ring of the step context the routing is READY. -/
def mayFetch (s : State) (c r : Nat) : Bool :=
  linkUp s && ringOn s c r && !discarding s c && !(c == stepCtx s && r == 0 && !ready s)

/-- Whether a ring has posted slots that it may fetch now, below its limit of descriptors in flight (R379, R384). -/
def wantsFetch (s : State) (c r : Nat) : Bool :=
  let x := ringRt s c r
  mayFetch s c r && x.prod != x.cons && !x.gap && placeFree s c r (bitsOf (hostWord s (slotAddr s c r x.cons)).toNat 60 3 == 5)

/-- Whether it is the turn of a ring: turns go round by context, and within a context by ring, over the rings that want one (R384;
DESIGN CHOICE, log 140). -/
def fetchTurnOf (s : State) (c r : Nat) : Bool :=
  let k := 3 * c + r
  wantsFetch s c r && (List.range ((k + 191 - s.fetchAt) % 192)).all (fun i =>
    let j := (s.fetchAt + 1 + i) % 192
    !wantsFetch s (j / 3) (j % 3))

/-- A fetch turn: up to 64 slots that do not cross the end of the ring (R379, R384). A fetch ends IDLE (R425), and prefetch may
follow (R202). -/
def fetchTurn (c r : Nat) (s : State) : State :=
  let x := ringRt s c r
  if !fetchTurnOf s c r then s
  else
    let t := fetchSlots collCause c r (min 64 (toRingEnd s c r)) { s with fetchAt := 3 * c + r }
    noteIdle (prefetch (if (ringRt t c r).cons = x.cons then t else idleExit t))

/-- RING_FETCH (R379, R384). -/
def execRingFetch (ctx : Fin 64) (ring : Fin 3) (s : State) : Host.Outcome State Fault Refusal :=
  .next (fetchTurn ctx.val ring.val s)

/-! ### Retirement (R18, R26, R73, R240) -/

/-- The byte ranges that a descriptor which has ended without a failure is sure to have written (R26), by its class. -/
def sureWrites (s : State) (d : Desc) : List (Nat × Nat) :=
  let bytes := fun (t : Tensor) ps => elemBytes t (tBase s t (dStag d)) ps
  let t := fun h => tensorEntry s d.ctx h
  match dClass d with
  | 0 =>
    let g := gemmOf d
    let rows := (List.range ((g.m + gH g - 1) / gH g)).flatMap (fun b =>
      ((bandRows g b).zip (maskOf d b)).filterMap (fun r => if r.2 then some r.1 else none))
    bytes (t g.d) (rows.flatMap (fun i => (List.range g.n).map (i * (t g.d).d0 + ·)))
      ++ (if g.epi = 3 ∨ g.epi = 4 then bytes (t g.stat) (rows.flatMap (fun i => [2 * i, 2 * i + 1])) else [])
  | 1 => (descRanges s d).2
  | 2 =>
    let c := elemCtx s d 0 0
    bytes c.outp (List.range c.count) ++ (if dOp d = 5 ∧ c.gated then bytes c.aux (List.range c.count) else [])
  | 3 =>
    let n := cCount d
    let D := t (cDst d)
    match dOp d with
    | 2 => bytes D (List.range (n / groupSize s d))
    | 3 => bytes D (List.range (groupSize s d * n))
    | 5 => []
    | 6 =>
      let bs := (d.coll.parts.foldl (fun l p => insertPart p l) []).flatMap (fun p => p.2.2)
      wholeBytes ((recvFields s d bs).map (fun f => (f.1, f.2.1)))
    | _ => bytes D (List.range n)
        ++ (if cComp d = 0 then [] else bytes (t (cEfb d)) ((List.range n).map ((efbSlots s d).2 * n + ·)))
  | 4 => if dOp d = 2 then [] else [(mvDev s d, mvLen d)]
  | _ => []

/-- A descriptor that ended clean takes what it has written out of the unclean ranges of its step, if any (R26). -/
def taintDone (d : Desc) (s : State) : State :=
  if d.unclean || !(d.step.bind (findStep s)).any (fun r => r.taint != []) then s else taintClear d (sureWrites s d) s

/-- A finished descriptor retires: DONE, FAILED with the lowest cause it met (R73, R515), or as it was refused without having run
(R391). A forward ROW descriptor whose context has been disabled leaves no record (R183). -/
def retireFinished (d : Desc) (s : State) : State :=
  match d.refused with
  | some r => retire d r.1 r.2 s
  | none =>
    if d.fails = [] then
      retire d 1 0 (taintDone d
        (if dClass d = 1 ∧ dOp d ≤ 3 ∧ (List.range 4).any (fun r => ringOn s d.ctx r) then addSide d s else s))
    else retire d 3 (failCause d.fails) (taintEnd d s)

/-- Whether a fetched descriptor of a context with steps waits for a step that is not live, none that opens it is in flight, and
nothing before it holds it back: it is refused (R18). -/
def staleTag (s : State) (d : Desc) : Bool :=
  let opens := fun e : Desc => e.ctx == d.ctx && dClass e == 5 && dOp e == 1
  d.run == .fetched && tagged s d.ctx && !opens d && (stepOfTag s (dStag d)).isNone
    && !s.inflight.any (fun e => opens e && dStag e == dStag d) && (earlierOf s d).all (fun e => !heldBy s d e)

/-- What happens when a descriptor's turn to retire has come, none when it has not: finished, with the accounting check (R240), or
with a stale step tag, for which it is refused with what else is wrong with it, or STEP_TAG (R15, R18, R96, R97; DEDUCED, log 115).
-/
def retireNow (d : Desc) (acctErr : Bool) (s : State) : Option State :=
  if d.run = .finished ∧ retireTurn s d then
    if acctErr && dCompute d then
      let d := { d with fails := d.fails ++ [0x12] }
      some (retireFinished d (failNotice d 0x12 pathDevice 0 (bump F.TACK_ACCT_ERR 1 s)))
    else some (retireFinished d s)
  else if staleTag s d then some (endUnrun d 2 ((refuseCause collCause s d).getD 0x02) s)
  else none

/-- DESCRIPTOR_RETIRE (R73, R202, R240): after it prefetch may find that the oldest compute descriptor waits. -/
def execDescriptorRetire (ctx : Fin 64) (ring : Fin 3) (cnt : BitVec 32) (acctErr : Bool) (s : State) :
    Host.Outcome State Fault Refusal :=
  match findDesc s ctx.val ring.val cnt.toNat with
  | none => .next s
  | some d =>
    match retireNow d acctErr s with
    | none => .next s
    | some t => .next (noteIdle (prefetch t))

/-- SEAM_ACK (R348, R350, R351): a thermal trip's fence that waited for the Seam send takes place after it (R225). -/
def execSeamAck (src : BitVec 14) (bad : Bool) (step : BitVec 48) (status : BitVec 2) (s : State) :
    Host.Outcome State Fault Refusal :=
  if bad && consumerUp s 10 then .next (endpointDrop pathDevice s)
  else if consumerUp s 10 then .next (seamAckIn (tripGo false) src.toNat step.toNat status.toNat s) else .next s

end Sys2Proof.Machine
end

