-- ==== Sys2Proof/Machine/Mgmt.lean ====
section
/-!
DEFINITION. The management bus (R454 to R460), the harness lands and physical presence (R461 to R464), the presence commands
(R466, R471, R474, R452), and the TAP (R473). A command runs to its end in one step, so that none is seen while it runs (log 61).
-/
namespace Sys2Proof.Machine

/-! ### Addresses and the status target (R454 to R456) -/

/-- The address of the command target in use: dynamic, else static (R454). -/
def cmdAddr (s : State) : Nat := s.mgmt.cmdDyn.getD (0x48 + s.maddr)

/-- STATUS_BYTE_READ (R455): the tray status byte, and 0xFF for each further byte read. -/
def execStatusByteRead (bytes : BitVec 8) (s : State) : Host.Outcome State Fault Refusal :=
  .next (emit (.mgmt ((BitVec.ofNat 8 (statusByte s) :: List.replicate bytes.toNat 0xFF#8).take bytes.toNat)) s)

/-- SETDASA (R454): in I3C mode a target takes its dynamic address from its static address (DESIGN CHOICE, log 60). -/
def execSetdasa (staticAddr dyn : BitVec 7) (s : State) : Host.Outcome State Fault Refusal :=
  if !s.i3c then .next s
  else if staticAddr.toNat = 0x40 + s.maddr then .next { s with mgmt := { s.mgmt with staDyn := some dyn.toNat } }
  else if staticAddr.toNat = 0x48 + s.maddr then .next { s with mgmt := { s.mgmt with cmdDyn := some dyn.toNat } }
  else .next s

/-- RSTDAA (R454): the dynamic addresses are lost. -/
def execRstdaa (s : State) : Host.Outcome State Fault Refusal :=
  if s.i3c then .next { s with mgmt := { s.mgmt with staDyn := none, cmdDyn := none } } else .next s

/-- ENEC (R456): in-band interrupts are enabled, in I3C mode. -/
def execEnec (s : State) : Host.Outcome State Fault Refusal :=
  if s.i3c then .next { s with mgmt := { s.mgmt with ibi := true } } else .next s

/-! ### Frames (R457) -/

/-- The response as read from the command target: RESULT, LEN, data and PEC over them and the address byte. -/
def mgmtFrame (s : State) (result : Nat) (data : List Byte) : List Byte :=
  let body := BitVec.ofNat 8 result :: leBytes data.length 2 ++ data
  body ++ [BitVec.ofNat 8 (crc8 (BitVec.ofNat 8 (2 * cmdAddr s + 1) :: body))]

/-- A response is held and read. -/
def respond (result : Nat) (data : List Byte) (s : State) : State :=
  emit (.mgmt (mgmtFrame s result data)) { s with mgmt := { s.mgmt with result := result, data := data } }

/-- What a read of `n` bytes from the command target returns: the response of the last command, and 0xFF beyond it (R457). -/
def readResponse (s : State) (n : Nat) : List Byte :=
  (mgmtFrame s s.mgmt.result s.mgmt.data ++ List.replicate n 0xFF#8).take n

/-- A transaction with the command target: its address match wakes a device that was Folded (R427, R454). The command itself meets
the device as it was, before the first power switch has closed (DESIGN CHOICE, log 56). -/
def transaction (f : State → State) (s : State) : State := if s.folded then withIbi addressMatch (f s) else f s

/-- A command whose PEC is correct (R457): counted, carried out and answered. -/
def mgmtCmd (f : State → (Nat × List Byte) × State) (s : State) : State :=
  transaction (fun s =>
    let r := f (bump F.MGMT_CMDS 1 s)
    respond r.1.1 r.1.2 r.2) s

/-- Whether a frame as it was written to the command target ends in its PEC, which covers the address byte too (R457). -/
def pecOk (s : State) (frame : List Byte) : Bool :=
  crc8 (BitVec.ofNat 8 (2 * cmdAddr s) :: frame.dropLast) == (frame.getLastD 0).toNat && frame != []

/-- The command codes of the table (R458). -/
def cmdCodes : List Byte := [0x01, 0x02, 0x03, 0x04, 0x05, 0x06, 0x08, 0x09, 0x0A, 0x10, 0x11, 0x12, 0x13, 0x14]

/-- BAD_PEC_COMMAND (R457, R458): a frame as it comes. With a wrong PEC it receives BAD_PEC; with a correct one and a code that the
table does not list, BAD_CMD; a frame with a listed code and a correct PEC is that command's own, and does nothing here (DESIGN
CHOICE, log 160). -/
def execBadPecCommand (frame : List Byte) (s : State) : Host.Outcome State Fault Refusal :=
  if !pecOk s frame then .next (transaction (fun s => respond 3 [] (bump F.MGMT_PEC_ERR 1 s)) s)
  else if cmdCodes.contains (frame.headD 0) then .next s
  else .next (mgmtCmd (fun s => ((2, []), s)) s)

/-! ### STATUS, READ_REG and SET_CAPS (R458, R459) -/

/-- The hottest stack reading. -/
def stackMax (s : State) : Nat :=
  (List.range 8).foldl (fun m k => max m (bitsOf (rdReg s R.HBM_TEMP).toNat (8 * k) 8)) 0

/-- The sixteen bytes of STATUS (R459). -/
def statusData (s : State) : List Byte :=
  let cmpOff := !s.rtrUp || parked s || rf s F.RST_STAT_PHASE == 8
  let memOffNow := !s.rtrUp || rf s F.RST_STAT_PHASE == 8
  ([statusByte s, rf s F.RST_STAT_PHASE + rf s F.RST_STAT_LAST * 16,
    if s.folded then 3 else rf s F.PWR_STAT_STATE,
    rf s F.PWR_AON_COOLANT_STOP + 2 * rf s F.PWR_AON_TRIP_STOP,
    if cmpOff then 0 else rf s F.PWR_TJ_STAT_MAX,
    if memOffNow then 0 else stackMax s,
    rf s F.SEC_STAT_COOLANT, rf s F.SEC_STAT_MAINT, rf s F.SEC_STAT_SEAL, rf s F.SEC_STAT_THERMTRIP].map (BitVec.ofNat 8))
  ++ leBytes (rf s F.PWR_CAP_TRAY_W) 2 ++ leBytes (rf s F.PWR_CAP_SPRINT_W) 2
  ++ [BitVec.ofNat 8 (min 15 (recentResets s)), 0#8]

/-- STATUS (R458, R459). -/
def execStatus (s : State) : Host.Outcome State Fault Refusal := .next (mgmtCmd (fun s => ((0, statusData s), s)) s)

/-- Whether the domain that holds a register is powered (R458, R484): AON always; RTR and HIF are switched together. -/
def regPowered (s : State) (a : Nat) : Bool := a < 0x10000 || a == R.PWR_AON || s.rtrUp

/-- READ_REG (R458): 8 bytes at an 8-byte aligned set-up byte address. -/
def readRegCmd (a : Nat) (s : State) : (Nat × List Byte) × State :=
  if a % 8 ≠ 0 then ((4, []), s)
  else if !regPowered s a then ((6, []), s)
  else ((0, leBytes (setupRead a 8 s) 8), s)

/-- READ_REG (R458). -/
def execReadReg (addr : BitVec 48) (s : State) : Host.Outcome State Fault Refusal := .next (mgmtCmd (readRegCmd addr.toNat) s)

/-- SET_CAPS (R458): with the RTR domain unpowered the registers cannot be written (DESIGN CHOICE, log 137: DOMAIN_OFF). -/
def setCapsCmd (tray sprint : Nat) (s : State) : (Nat × List Byte) × State :=
  if tray < 500 ∨ 2300 < tray ∨ (sprint ≠ 0 ∧ (sprint < tray ∨ 2750 < sprint)) then ((4, []), s)
  else if !s.rtrUp then ((6, []), s)
  else ((0, []), put F.PWR_CAP_TRAY_W tray (put F.PWR_CAP_SPRINT_W sprint s))

/-- SET_CAPS (R458). -/
def execSetCaps (tray sprint : BitVec 16) (s : State) : Host.Outcome State Fault Refusal :=
  .next (mgmtCmd (setCapsCmd tray.toNat sprint.toNat) s)

/-! ### RESET, POWER and RESTART (R444, R458) -/

/-- RESET (R444, R458): the code of RST.CTL.DOMAIN; a FULL reset samples BOOT_SEL (R436). -/
def resetCmd (dom bootSel : Nat) (s : State) : (Nat × List Byte) × State :=
  if dom = 0 ∨ 4 < dom then ((4, []), s)
  else if !resetOk dom s then ((7, []), resetReq .mgmt dom s)
  else ((0, []), resetReq .mgmt dom (if dom = 4 then { s with bootPins := bootSel } else s))

/-- RESET (R444, R458). -/
def execReset (domain : BitVec 8) (bootSel : BitVec 2) (s : State) : Host.Outcome State Fault Refusal :=
  .next (withIbi (mgmtCmd (resetCmd domain.toNat bootSel.toNat)) s)

/-- POWER (R425, R458): refused while a state change runs; otherwise as PWR.CTL.STATE_REQ. -/
def powerCmd (req : Nat) (s : State) : (Nat × List Byte) × State :=
  if req = 0 ∨ 3 < req then ((4, []), s)
  else if s.rst.kind ≠ 0 then ((7, []), s)
  else if !stateReqOk s req then ((7, []), stateReq .mgmt req s)
  else ((0, []), stateReq .mgmt req s)

/-- POWER (R425, R458). -/
def execPower (req : BitVec 8) (s : State) : Host.Outcome State Fault Refusal :=
  .next (withIbi (mgmtCmd (powerCmd req.toNat)) s)

/-- RESTART (R458): the way out of recovery and of a failed cold start; the straps are sampled again (DEDUCED, log 69). -/
def restartCmd (bootSel maddr : Nat) (i3c : Bool) (s : State) : (Nat × List Byte) × State :=
  let ph := rf s F.RST_STAT_PHASE
  if ph ≠ 8 ∧ ph ≠ 9 then ((7, []), s)
  else ((0, []), coldStart bootSel { allLose s with i3c := i3c, maddr := maddr })

/-- RESTART (R458). -/
def execRestart (bootSel : BitVec 2) (i3c : Bool) (maddr : BitVec 3) (s : State) : Host.Outcome State Fault Refusal :=
  .next (withIbi (mgmtCmd (restartCmd bootSel.toNat maddr.toNat i3c)) s)

/-! ### The flash commands (R458, R460) -/

/-- Whether the flash commands may reach `n` bytes at an offset (R460): both image copies in recovery or after a failure, else
the copy not in use; never the helper region or the out-of-service record. -/
def flashMay (s : State) (o n : Nat) : Bool :=
  let ph := rf s F.RST_STAT_PHASE
  if ph = 8 ∨ ph = 9 then o + n ≤ 0x8000000
  else
    let b := imageBase (1 - rf s F.RST_STAT_IMAGE)
    b ≤ o && o + n ≤ b + 0x4000000

/-- Whether a start-up may be reading the flash: from its image phase on (R439, R460; DEDUCED, log 61). A MEM reset is none. -/
def flashBusy (s : State) : Bool := 2 ≤ s.rst.phase && 4 ≤ s.rst.kind

/-- One flash command: BUSY, BAD_ARG and REFUSED in this order (DESIGN CHOICE, log 137). -/
def flashCmd (o n : Nat) (okArg : Bool) (f : State → List Byte × State) (s : State) : (Nat × List Byte) × State :=
  if flashBusy s then ((1, []), s)
  else if !okArg then ((4, []), s)
  else if !flashMay s o n then ((7, []), s)
  else
    let r := f s
    ((0, r.1), r.2)

/-- FLASH_READ (R458, R460). -/
def execFlashRead (offset : BitVec 32) (len : BitVec 8) (s : State) : Host.Outcome State Fault Refusal :=
  .next (mgmtCmd (flashCmd offset.toNat len.toNat (len.toNat ≤ 128)
    (fun s => (flashRead s offset.toNat len.toNat, s))) s)

/-- FLASH_ERASE (R458, R460): a 64 KiB sector. -/
def execFlashErase (offset : BitVec 32) (s : State) : Host.Outcome State Fault Refusal :=
  .next (mgmtCmd (flashCmd offset.toNat 65536 (offset.toNat % 65536 == 0)
    (fun s => ([], flashErase offset.toNat 65536 s))) s)

/-- FLASH_WRITE (R458, R460): up to 128 bytes within one 256-byte page. -/
def execFlashWrite (offset : BitVec 32) (bytes : List Byte) (s : State) : Host.Outcome State Fault Refusal :=
  let n := bytes.length
  .next (mgmtCmd (flashCmd offset.toNat n (n ≤ 128 && offset.toNat % 256 + n ≤ 256)
    (fun s => ([], flashProgram offset.toNat bytes s))) s)

/-! ### Presence commands (R452, R458, R461, R466, R471, R474) -/

/-- A completed presence command is counted (R472, R475): 0 ROTATE_OWNER, 1 TEST_ENABLE, 2 CLEAR_OOS, 3 ERASE_HELPER. -/
def presenceDone (k : Nat) (s : State) : State :=
  bump F.SEC_PRESENCE_CMDS 1 { s with presCounts := s.presCounts.set k (s.presCounts.getD k 0 + 1) }

/-- A command that needs physical presence (R461). -/
def withPresence (f : State → (Nat × List Byte) × State) (s : State) : (Nat × List Byte) × State :=
  if rf s F.SEC_STAT_PRESENCE = 1 then f s else ((5, []), s)

/-- An owner record (R466). -/
def ownerRecord (seed gen policy : Nat) (key : List Byte) : List Byte :=
  let body := leBytes 0x44524345524E574F 8 ++ leBytes gen 8 ++ leBytes policy 1 ++ List.replicate 47 0#8 ++ key
  body ++ hmac512 (seedKey seed infoOwner) body

/-- An owner record written into a helper copy: its 4 KiB erased and programmed (R466, R470). -/
def writeOwner (k : Nat) (r : List Byte) (s : State) : State :=
  flashProgram (ownerBase k) r (flashErase (ownerBase k) 4096 s)

/-- ROTATE_OWNER (R466): `held` says that presence still holds at step 4; when it has lapsed, both copies are left at the
previous record. Without a seed no record can be authenticated (DESIGN CHOICE, log 137: REFUSED). The new key governs from the
next cold start. -/
def rotateCmd (policy : Nat) (key : List Byte) (held : Bool) (s : State) : (Nat × List Byte) × State :=
  if 1 < policy ∨ key.length ≠ 512 then ((4, []), s)
  else match s.pufSeed with
    | none => ((7, []), s)
    | some seed =>
      let r := ownerRecord seed ((s.owner.gen + 1) % 2 ^ 64) policy key
      if held then ((0, []), presenceDone 0 (writeOwner 1 r (writeOwner 0 r s))) else ((5, []), s)

/-- ROTATE_OWNER (R458, R466). -/
def execRotateOwner (policy : BitVec 8) (key : List Byte) (held : Bool) (s : State) : Host.Outcome State Fault Refusal :=
  .next (mgmtCmd (withPresence (rotateCmd policy.toNat key held)) s)

/-- TEST_ENABLE (R458, R474). -/
def execTestEnable (s : State) : Host.Outcome State Fault Refusal :=
  .next (mgmtCmd (withPresence (fun s =>
    ((0, []), presenceDone 1 (put F.SEC_STAT_TEST_EN 1 (put F.SEC_STAT_TEST_EVER 1 s))))) s)

/-- Test access ends (R474): the pins are driven 0, and EXTEST, CLAMP and HIGHZ act as BYPASS while it is off (R473). -/
def testOff (s : State) : State := put F.SEC_STAT_TEST_EN 0 s

/-- TEST_DISABLE (R458, R474). -/
def execTestDisable (s : State) : Host.Outcome State Fault Refusal := .next (mgmtCmd (fun s => ((0, []), testOff s)) s)

/-- CLEAR_OOS (R452, R458): the record is erased and the reset times are cleared. -/
def execClearOos (s : State) : Host.Outcome State Fault Refusal :=
  .next (withIbi (mgmtCmd (withPresence (fun s =>
    ((0, []), presenceDone 2 (put F.RST_STAT_OOS 0 { flashErase 0x8010000 4096 s with rstTimes := [] }))))) s)

/-- ERASE_HELPER (R458, R471): with no ring enabled, or the host link down. -/
def execEraseHelper (s : State) : Host.Outcome State Fault Refusal :=
  .next (mgmtCmd (withPresence (fun s =>
    if linkUp s && (List.range 64).any (fun c => (List.range 4).any (fun r => ringOn s c r)) then ((7, []), s)
    else ((0, []), presenceDone 3 (flashErase 0x8000000 0x10000 s)))) s)

/-! ### Harness lands (R461 to R464) -/

/-- The class of a land from V0 and V1 in mV: the first row that holds (R462). -/
def landClass (v0 v1 : Int) : Nat :=
  let dv := v1 - v0
  if 4500 < v0 ∨ v0 < -500 ∨ (dv < 100 ∧ 300 ≤ v0) then 4
  else if dv < 100 ∧ v0 < 300 then 3
  else if 1500 < dv then 2
  else if 300 ≤ dv ∧ dv ≤ 700 ∧ 2000 ≤ v0 then 1
  else if 300 ≤ dv ∧ dv ≤ 700 ∧ v0 ≤ 800 then 0
  else 5

/-- The class of the seal loop (R463). -/
def sealClass (a b : Nat) (vf vr : Int) : Nat :=
  if 3 ≤ a ∨ 3 ≤ b then 4
  else if 300 ≤ vf ∧ vf ≤ 1000 ∧ 3000 ≤ vr then 0
  else if 3000 ≤ vf ∧ 300 ≤ vr ∧ vr ≤ 1000 then 2
  else if 3000 ≤ vf ∧ 3000 ≤ vr then 1
  else if vf < 300 ∧ vr < 300 then 3
  else 4

/-- The land of a reading: 0 COOLANT_OK, 1 MAINT_PRESENT_N, 2 the seal loop, 3 THERMTRIP_N; and its class (R462, R463). -/
def landOf (s : State) : LandReading → Nat × Nat
  | .coolant v0 v1 => (0, landClass v0.toInt v1.toInt)
  | .maint v0 v1 => (1, landClass v0.toInt v1.toInt)
  | .seal a0 a1 b0 b1 vf vr => (2, sealClass (landClass a0.toInt a1.toInt) (landClass b0.toInt b1.toInt) vf.toInt vr.toInt)
  | .thermtrip v0 v1 =>
    (3, if s.tripLow then (if 2000 < v0.toInt then 4 else 0) else landClass v0.toInt v1.toInt)

/-- The field that shows a land's class. -/
def landField (k : Nat) : Fld :=
  match k with | 0 => F.SEC_STAT_COOLANT | 1 => F.SEC_STAT_MAINT | 2 => F.SEC_STAT_SEAL | _ => F.SEC_STAT_THERMTRIP

/-- The last test of a land. -/
def landRt (s : State) (k : Nat) : LandRt := smGet (fun _ => ⟨2, 0⟩) s.lands k

/-- Presence is withdrawn, and test access with it (R461, R474). -/
def presenceOff (s : State) : State :=
  if rf s F.SEC_STAT_PRESENCE = 0 then s else testOff (put F.SEC_STAT_PRESENCE 0 s)

/-- A test gives a class (R461 to R464): it takes effect after three in succession; a change of the seal loop counts; the first
test that breaks presence withdraws it; and a class in effect other than VALID_HIGH on COOLANT_OK stops the device, while from
VALID_HIGH on COOLANT_OK holds (R428). -/
def landTested (k c : Nat) (s : State) : State :=
  let x := landRt s k
  let n := if x.cls = c then min 3 (x.count + 1) else 1
  let s := { s with lands := smSet (fun _ => ⟨2, 0⟩) s.lands k ⟨c, n⟩ }
  let s := if (k = 1 ∧ c ≠ 0) ∨ (k = 2 ∧ c ≠ 1) then presenceOff s else s
  if n < 3 then s
  else
    let s := if k = 2 ∧ rf s F.SEC_STAT_SEAL ≠ c then bump F.SEC_SEAL_EVENTS 1 s else s
    let s := put (landField k) c s
    let s := if k ≠ 0 then s else { s with coolantSince := if c = 1 then some (s.coolantSince.getD (aonNs s)) else none }
    if k = 0 ∧ c ≠ 1 ∧ stoppable s then put F.PWR_AON_COOLANT_STOP 1 (stop s) else s

/-- LAND_TEST (R461 to R464). -/
def execLandTest (r : LandReading) (s : State) : Host.Outcome State Fault Refusal :=
  .next (withIbi (fun s => landTested (landOf s r).1 (landOf s r).2 s) s)

/-- PRESENCE_ASSERT (R461): both classes have held for 1 s without a break. -/
def execPresenceAssert (s : State) : Host.Outcome State Fault Refusal :=
  if rf s F.SEC_STAT_MAINT = 0 ∧ rf s F.SEC_STAT_SEAL = 1 ∧ (landRt s 1).cls = 0 ∧ (landRt s 2).cls = 1 then
    .next (put F.SEC_STAT_PRESENCE 1 s)
  else .next s

/-! ### The TAP (R473) -/

/-- The instruction that acts, of 0 IDCODE, 1 BYPASS, 2 SAMPLE/PRELOAD, 3 EXTEST, 4 CLAMP, 5 HIGHZ (DESIGN CHOICE, log 71): the last
three act only while TEST_EN is 1, and otherwise as BYPASS (R473). -/
def tapActs (s : State) (instr : Nat) : Nat := if 3 ≤ instr ∧ rf s F.SEC_STAT_TEST_EN = 0 then 1 else instr

/-- An instruction is loaded, and acts as it may: a value is shifted out or driven, 0 for the bypass register (R473). -/
def tapTo (instr value : Nat) (s : State) : State :=
  let k := tapActs s instr
  emit (.jtag k (if k = 1 then 0 else value)) { s with jtag := { s.jtag with instr := instr } }

/-- The boundary register as a number, cell 0 in bit 0. -/
def bsrValue (b : List Bool) : Nat := b.foldr (fun c n => c.toNat + 2 * n) 0

/-- What the boundary register drives on the lands, if it does: under EXTEST and CLAMP (R473). -/
def tapDrives (s : State) : Option Nat :=
  if tapActs s s.jtag.instr = 3 ∨ tapActs s s.jtag.instr = 4 then some (bsrValue s.jtag.bsr) else none

/-- IDCODE: stepping, part number, manufacturer and 1 (R473). -/
def idcode : Nat := Config.stepping.toNat % 16 * 2 ^ 28 + 0x9160 * 2 ^ 12 + 0x2B7 * 2 + 1

/-- BYPASS (R473). -/
def execBypass (s : State) : Host.Outcome State Fault Refusal := .next (tapTo 1 0 s)
/-- IDCODE (R473). -/
def execIdcode (s : State) : Host.Outcome State Fault Refusal := .next (tapTo 0 idcode s)

/-- SAMPLE/PRELOAD (R473): the pins are sampled, `pins`, and the boundary register takes `cells`. -/
def execSamplePreload (pins cells : List Bool) (s : State) : Host.Outcome State Fault Refusal :=
  .next (tapTo 2 (bsrValue pins) { s with jtag := { s.jtag with bsr := cells } })

/-- EXTEST (R473): the boundary register drives the lands. -/
def execExtest (s : State) : Host.Outcome State Fault Refusal := .next (tapTo 3 (bsrValue s.jtag.bsr) s)
/-- CLAMP (R473): as EXTEST, with the bypass register between TDI and TDO. -/
def execClamp (s : State) : Host.Outcome State Fault Refusal := .next (tapTo 4 (bsrValue s.jtag.bsr) s)
/-- HIGHZ (R473): the outputs are released. -/
def execHighz (s : State) : Host.Outcome State Fault Refusal := .next (tapTo 5 0 s)

end Sys2Proof.Machine
end

