-- ==== Sys2Proof/Machine/Spdm.lean ====
section
/-!
DEFINITION. Identity and attestation (R470 to R472): the identity key, and the SPDM responder on PCIe DOE. The layouts of the
messages are those of DMTF DSP0274 1.2 and 1.3 (PRESUMED, log 63), which R472 names by version only.
-/
namespace Sys2Proof.Machine

/-! ### The identity key (R470) -/

/-- The identity key of a PUF seed, as modulus and private exponent: generated by an HMAC_DRBG from the identity DRBG seed (R470). -/
def identityKey (seed : Nat) : Option (Nat × Nat) := rsaGenerate 64 (drbgInit (seedKey seed infoIdentity))

/-- IDENTITY_KEY_READY (R470, R486): after phase 7 the key is ready, and the serial is the low 64 bits of the digest of its
modulus. A generation that fails leaves none (log 153). -/
def execIdentityKeyReady (s : State) : Host.Outcome State Fault Refusal :=
  match s.pufSeed.bind identityKey with
  | none => .next s
  | some k =>
    if !s.rst.ready then .next s
    else .next (put F.SEC_STAT_ID_READY 1 (putReg R.ID_SERIAL (BitVec.ofNat 64 (beNat (sha512 (beBytes k.1 512)) % 2 ^ 64)) s))

/-- A signature by a key, RSASSA-PKCS1-v1_5 with SHA-512 (R465). -/
def identitySign (k : Nat × Nat) (msg : List Byte) : List Byte :=
  beBytes (modPow k.1 4096 (beNat (pkcs1Encode 512 msg)) k.2) 512

/-! ### Messages -/

/-- ASCII text. -/
def ascii (t : String) : List Byte := t.toList.map (fun c => BitVec.ofNat 8 c.toNat)

/-- An SPDM response leaves the device. -/
def spdmSend (m : List Byte) (s : State) : State := emit (.spdm m) s

/-- An ERROR response with its code: 1 InvalidRequest, 3 Busy, 4 UnexpectedRequest. -/
def spdmError (code : Nat) (s : State) : State := spdmSend [BitVec.ofNat 8 s.spdm.ver, 0x7F, BitVec.ofNat 8 code, 0] s

/-- What an SPDM request does, which comes over the host link (R472). -/
def overDoe (f : State → State) (s : State) : State := if linkUp s then f s else s

/-- GET_VERSION: versions 1.2 and 1.3; a new exchange begins. -/
def spdmVersion (s : State) : State :=
  let m : List Byte := [0x10, 0x04, 0, 0, 0, 2, 0x00, 0x12, 0x00, 0x13]
  spdmSend m { s with spdm := ⟨false, 0x12, [0x10, 0x84, 0, 0] ++ m, [], []⟩ }

/-- SPDM_GET_VERSION (R472). -/
def execSpdmGetVersion (s : State) : Host.Outcome State Fault Refusal := .next (overDoe spdmVersion s)

/-- GET_CAPABILITIES: CERT_CAP, CHAL_CAP and MEAS_CAP with signature. The timeout exponent and the sizes are free values
(log 1). -/
def spdmCaps (req : List Byte) (s : State) : State :=
  let ver := (req.getD 0 0).toNat
  if ver ≠ 0x12 ∧ ver ≠ 0x13 then spdmError 1 s
  else
    let f := drawFree s
    let m : List Byte := [BitVec.ofNat 8 ver, 0x61, 0, 0, 0, BitVec.ofNat 8 f.1, 0, 0] ++ leBytes 0x16 4
      ++ leBytes (f.1 / 256) 4 ++ leBytes (f.1 / 2 ^ 40) 4
    spdmSend m { f.2 with spdm := { f.2.spdm with ready := false, ver := ver, vca := f.2.spdm.vca ++ req ++ m } }

/-- NEGOTIATE_ALGORITHMS: TPM_ALG_RSASSA_4096 and TPM_ALG_SHA_512 only; an error when either is not offered (R472). -/
def spdmAlgs (req : List Byte) (s : State) : State :=
  let asym := leNat ((req.drop 8).take 4)
  let hash := leNat ((req.drop 12).take 4)
  if bitsOf asym 5 1 = 0 ∨ bitsOf hash 2 1 = 0 then spdmError 1 s
  else
    let m : List Byte := [BitVec.ofNat 8 s.spdm.ver, 0x63, 0, 0] ++ leBytes 36 2 ++ [1, 0] ++ leBytes 8 4 ++ leBytes 0x20 4
      ++ leBytes 4 4 ++ List.replicate 16 0#8
    spdmSend m { s with spdm := { s.spdm with ready := true, vca := s.spdm.vca ++ req ++ m } }

/-- NEGOTIATE_ALGORITHMS (R472): the request as it came. -/
def execNegotiateAlgorithms (req : List Byte) (s : State) : Host.Outcome State Fault Refusal := .next (overDoe (spdmAlgs req) s)

/-! ### Certificates (R470, R472) -/

/-- The lengths of the X.509 certificates that follow one another in DER form. -/
def derLengths : Nat → List Byte → List Nat
  | 0, _ => []
  | n + 1, bs =>
    match bs with
    | 0x30#8 :: 0x82#8 :: h :: l :: _ =>
      let k := 4 + 256 * h.toNat + l.toNat
      if bs.length < k then [] else k :: derLengths n (bs.drop k)
    | _ => []

/-- The certificate region of the helper copy in use (R470). -/
def certRegion (s : State) : List Byte := flashRead s (helperBase (if helperOk s 0 then 0 else 1) + 0x5000) 12288

/-- The chain of slot 0: its length, the digest of its root certificate and the certificates. -/
def certChain (s : State) : List Byte :=
  let r := certRegion s
  let ls := derLengths 16 r
  let certs := r.take ls.sum
  leBytes (68 + certs.length) 2 ++ [0, 0] ++ sha512 (r.take (ls.headD 0)) ++ certs

/-- GET_DIGESTS: the digest of the chain of slot 0. -/
def spdmDigests (req : List Byte) (s : State) : State :=
  if !s.spdm.ready then spdmError 4 s
  else
    let m := [BitVec.ofNat 8 s.spdm.ver, 0x01, 0, 1] ++ sha512 (certChain s)
    spdmSend m { s with spdm := { s.spdm with certs := s.spdm.certs ++ req ++ m } }

/-- SPDM_GET_CAPABILITIES (R472): the request as it came. A request without a row of its own comes by this one too: GET_DIGESTS of
CERT_CAP is answered, one with a row of its own is left to it, and any other receives the error UnsupportedRequest (DESIGN CHOICE, log 159). -/
def execSpdmGetCapabilities (req : List Byte) (s : State) : Host.Outcome State Fault Refusal :=
  match (req.getD 1 0).toNat with
  | 0xE1 => .next (overDoe (spdmCaps req) s)
  | 0x81 => .next (overDoe (spdmDigests req) s)
  | 0x84 | 0xE3 | 0x82 | 0x83 | 0xE0 => .next s
  | k => .next (overDoe (spdmSend [BitVec.ofNat 8 s.spdm.ver, 0x7F, 7, BitVec.ofNat 8 k]) s)

/-- GET_CERTIFICATE for slot 0. -/
def spdmCert (slot off len : Nat) (s : State) : State :=
  let c := certChain s
  if !s.spdm.ready then spdmError 4 s
  else if slot ≠ 0 ∨ c.length ≤ off then spdmError 1 s
  else
    let part := (c.drop off).take len
    let v := BitVec.ofNat 8 s.spdm.ver
    let req := [v, 0x82, 0, 0] ++ leBytes off 2 ++ leBytes len 2
    let m := [v, 0x02, 0, 0] ++ leBytes part.length 2 ++ leBytes (c.length - off - part.length) 2 ++ part
    spdmSend m { s with spdm := { s.spdm with certs := s.spdm.certs ++ req ++ m } }

/-- SPDM_GET_CERTIFICATE (R472). -/
def execSpdmGetCertificate (slot : BitVec 4) (off len : BitVec 16) (s : State) : Host.Outcome State Fault Refusal :=
  .next (overDoe (spdmCert slot.toNat off.toNat len.toNat) s)

/-! ### Measurements (R472) -/

/-- The value of a measurement, with its type: 1 the vendor root digest, 2 the image in use, 3 the Lint pack and its VERSION,
4 the owner record, 5 the raw state. -/
def measurement (s : State) (i : Nat) : Nat × List Byte :=
  match i with
  | 1 => (0, Config.vendorDigest)
  | 2 =>
    let b := imageInUse s
    (1, sha512 (flashRead s b (1536 + bodyLength s b)))
  | 3 => (1, sha512 s.lintPack ++ leBytes (rf s F.LINT_STAT_VERSION) 4)
  | 4 =>
    match ownerKey s with
    | some k => (3, leBytes s.owner.gen 8 ++ leBytes s.owner.policy 1 ++ sha512 k)
    | none => (3, List.replicate 73 0#8)
  | _ =>
    (0x83, (s.presCounts.take 4).flatMap (fun n => leBytes n 2) ++ leBytes (rf s F.SEC_SEAL_EVENTS) 4
      ++ leBytes (rf s F.SEC_STAT_TEST_EVER) 1 ++ leBytes (rf s F.RST_STAT_OOS) 1 ++ leBytes (rf s F.SEC_STAT_SEAL) 1 ++ [0])

/-- A measurement block. -/
def measBlock (s : State) (i : Nat) : List Byte :=
  let v := measurement s i
  leBytes i 1 ++ [1] ++ leBytes (3 + v.2.length) 2 ++ leBytes v.1 1 ++ leBytes v.2.length 2 ++ v.2

/-- The 100 bytes that come before a transcript's digest when it is signed: four times the version text, zeros, the context. -/
def signPrefix (ver : Nat) (ctx : List Byte) : List Byte :=
  let v := ascii "dmtf-spdm-v1." ++ ascii (if ver = 0x13 then "3.*" else "2.*")
  v ++ v ++ v ++ v ++ List.replicate (36 - ctx.length) 0#8 ++ ctx

/-- A transcript signed by the identity key. -/
def signText (k : Nat × Nat) (s : State) (ctx : String) (transcript : List Byte) : List Byte :=
  identitySign k (signPrefix s.spdm.ver (ascii ctx) ++ sha512 transcript)

/-- The five measurements in one list. -/
def allMeas (s : State) : List Byte := [1, 2, 3, 4, 5].flatMap (measBlock s)

/-- The RequesterContext that messages of version 1.3 carry. -/
def echoed (s : State) (context : Nat) : List Byte := if s.spdm.ver = 0x13 then leBytes context 8 else []

/-- CHALLENGE: error Busy before ID_READY (R472). -/
def spdmChallenge (slot kind nonce context : Nat) (s : State) : State :=
  if !s.spdm.ready then spdmError 4 s
  else if slot ≠ 0 then spdmError 1 s
  else match rf s F.SEC_STAT_ID_READY, s.pufSeed.bind identityKey with
    | 1, some k =>
      let v := BitVec.ofNat 8 s.spdm.ver
      let f := drawFree s
      let req := [v, 0x83, 0, BitVec.ofNat 8 kind] ++ leBytes nonce 32 ++ echoed s context
      let sum := if kind = 0 then [] else if kind = 1 then sha512 (measBlock s 1) else sha512 (allMeas s)
      let m := [v, 0x03, 0, 1] ++ sha512 (certChain s) ++ leBytes (f.1 % 2 ^ 256) 32 ++ sum ++ [0, 0] ++ echoed s context
      let sig := signText k s "responder-challenge_auth signing" (s.spdm.vca ++ s.spdm.certs ++ req ++ m)
      spdmSend (m ++ sig) { f.2 with spdm := { f.2.spdm with certs := [] } }
    | _, _ => spdmError 3 s

/-- CHALLENGE (R472). -/
def execChallenge (slot : BitVec 4) (kind : BitVec 8) (nonce : BitVec 256) (context : BitVec 64) (s : State) :
    Host.Outcome State Fault Refusal :=
  .next (overDoe (spdmChallenge slot.toNat kind.toNat nonce.toNat context.toNat) s)

/-- GET_MEASUREMENTS: the number of measurements for index 0, all of them for 255, else the one named; a signed request is
answered Busy before ID_READY (R472). -/
def spdmMeasure (sign : Bool) (index nonce context : Nat) (s : State) : State :=
  if !s.spdm.ready then spdmError 4 s
  else if 5 < index ∧ index ≠ 255 then spdmError 1 s
  else
    let v := BitVec.ofNat 8 s.spdm.ver
    let blocks := if index = 0 then [] else if index = 255 then allMeas s else measBlock s index
    let n := if index = 0 then 0 else if index = 255 then 5 else 1
    let f := drawFree s
    let req := [v, 0xE0, BitVec.ofNat 8 sign.toNat, BitVec.ofNat 8 index] ++ (if sign then leBytes nonce 32 ++ [0] else [])
      ++ echoed s context
    let m := [v, 0x60, if index = 0 then 5 else 0, 0] ++ leBytes n 1 ++ leBytes blocks.length 3 ++ blocks
      ++ leBytes (f.1 % 2 ^ 256) 32 ++ [0, 0] ++ echoed s context
    let log := s.spdm.meas ++ req ++ m
    if !sign then spdmSend m { f.2 with spdm := { f.2.spdm with meas := log } }
    else match rf s F.SEC_STAT_ID_READY, s.pufSeed.bind identityKey with
      | 1, some k =>
        let sig := signText k s "responder-measurements signing" (s.spdm.vca ++ log)
        spdmSend (m ++ sig) { f.2 with spdm := { f.2.spdm with meas := [] } }
      | _, _ => spdmError 3 s

/-- GET_MEASUREMENTS (R472). -/
def execGetMeasurements (sign : Bool) (index : BitVec 8) (nonce : BitVec 256) (context : BitVec 64) (s : State) :
    Host.Outcome State Fault Refusal :=
  .next (overDoe (spdmMeasure sign index.toNat nonce.toNat context.toNat) s)

end Sys2Proof.Machine
end

