-- ==== Sys2Proof/Machine/Dispatch.lean ====
section
/-!
DEFINITION. The dispatch: one arm per command, each one call of its meaning.
-/
namespace Sys2Proof.Machine

/-- What a command does to everything but the queue. -/
def exec (i : Instr) (s : State) : Host.Outcome State Fault Refusal :=
  match i with
  | .ringDoorbellSnoop ctx => Sys2Proof.Machine.execRingDoorbellSnoop ctx s
  | .doorbellWrite ctx ring prod => Sys2Proof.Machine.execDoorbellWrite ctx ring prod s
  | .ringFetch ctx ring => Sys2Proof.Machine.execRingFetch ctx ring s
  | .gemm d => Sys2Proof.Machine.execGemm d s
  | .tileJobIssue d bay me quad feedStall steamCycles => Sys2Proof.Machine.execTileJobIssue d bay me quad feedStall steamCycles s
  | .passStagingAllocate d waited => Sys2Proof.Machine.execPassStagingAllocate d waited s
  | .partialSlotReserve d band col waited => Sys2Proof.Machine.execPartialSlotReserve d band col waited s
  | .tileJobDrain d pass band col part seg upsets steam => Sys2Proof.Machine.execTileJobDrain d pass band col part seg upsets steam s
  | .statisticsFold d band => Sys2Proof.Machine.execStatisticsFold d band s
  | .descriptorRetire ctx ring cnt acctErr => Sys2Proof.Machine.execDescriptorRetire ctx ring cnt acctErr s
  | .descriptorTimeout ctx ring cnt => Sys2Proof.Machine.execDescriptorTimeout ctx ring cnt s
  | .normFwd d => Sys2Proof.Machine.execNormFwd d s
  | .rmsFwd d => Sys2Proof.Machine.execRmsFwd d s
  | .smaxFwd d => Sys2Proof.Machine.execSmaxFwd d s
  | .normBwd d => Sys2Proof.Machine.execNormBwd d s
  | .rmsBwd d => Sys2Proof.Machine.execRmsBwd d s
  | .smaxBwd d => Sys2Proof.Machine.execSmaxBwd d s
  | .add d => Sys2Proof.Machine.execAdd d s
  | .mul d => Sys2Proof.Machine.execMul d s
  | .scale d => Sys2Proof.Machine.execScale d s
  | .cast d => Sys2Proof.Machine.execCast d s
  | .act d => Sys2Proof.Machine.execAct d s
  | .actBwd d => Sys2Proof.Machine.execActBwd d s
  | .dropout d => Sys2Proof.Machine.execDropout d s
  | .allreduce d => Sys2Proof.Machine.execAllreduce d s
  | .reduceScatter d => Sys2Proof.Machine.execReduceScatter d s
  | .allgather d => Sys2Proof.Machine.execAllgather d s
  | .broadcast d => Sys2Proof.Machine.execBroadcast d s
  | .send d => Sys2Proof.Machine.execSend d s
  | .recv d => Sys2Proof.Machine.execRecv d s
  | .hostIn d => Sys2Proof.Machine.execHostIn d s
  | .hostOut d => Sys2Proof.Machine.execHostOut d s
  | .moveLocal d => Sys2Proof.Machine.execMoveLocal d s
  | .dmBurstComplete chan off => Sys2Proof.Machine.execDmBurstComplete chan off s
  | .dmHalt chan off kind => Sys2Proof.Machine.execDmHalt chan off kind s
  | .dmResume chan => Sys2Proof.Machine.execDmResume chan s
  | .dmAbort chan => Sys2Proof.Machine.execDmAbort chan s
  | .dmBurstAged chan off => Sys2Proof.Machine.execDmBurstAged chan off s
  | .nop d => Sys2Proof.Machine.execNop d s
  | .stepOpen d => Sys2Proof.Machine.execStepOpen d s
  | .stepClose d => Sys2Proof.Machine.execStepClose d s
  | .stepVerdictContribute step => Sys2Proof.Machine.execStepVerdictContribute step s
  | .voteSeal d => Sys2Proof.Machine.execVoteSeal d s
  | .voteResolve d => Sys2Proof.Machine.execVoteResolve d s
  | .optBind d => Sys2Proof.Machine.execOptBind d s
  | .ctrSet d => Sys2Proof.Machine.execCtrSet d s
  | .barrier d => Sys2Proof.Machine.execBarrier d s
  | .barrierRelease d => Sys2Proof.Machine.execBarrierRelease d s
  | .steamPreRampStep k => Sys2Proof.Machine.execSteamPreRampStep k s
  | .startWaveRelease wave => Sys2Proof.Machine.execStartWaveRelease wave s
  | .caps d => Sys2Proof.Machine.execCaps d s
  | .noticeHoldoffExpire ctx => Sys2Proof.Machine.execNoticeHoldoffExpire ctx s
  | .voteCellReceive axis plus bad cell => Sys2Proof.Machine.execVoteCellReceive axis plus bad cell s
  | .voteComplete step => Sys2Proof.Machine.execVoteComplete step s
  | .voteTimeout step => Sys2Proof.Machine.execVoteTimeout step s
  | .ownUpdateComplete step => Sys2Proof.Machine.execOwnUpdateComplete step s
  | .stepDiscardComplete step => Sys2Proof.Machine.execStepDiscardComplete step s
  | .verifyReceive src step plus bad tag bytes => Sys2Proof.Machine.execVerifyReceive src step plus bad tag bytes s
  | .verifySend d => Sys2Proof.Machine.execVerifySend d s
  | .announceReceive bad p => Sys2Proof.Machine.execAnnounceReceive bad p s
  | .collPacketReceive axis plus bad p => Sys2Proof.Machine.execCollPacketReceive axis plus bad p s
  | .p2pPacketReceive axis plus bad elem total p => Sys2Proof.Machine.execP2pPacketReceive axis plus bad elem total p s
  | .abortedPacketReceive axis plus elem total p => Sys2Proof.Machine.execAbortedPacketReceive axis plus elem total p s
  | .headCellRoute port vc more relayTo p => Sys2Proof.Machine.execHeadCellRoute port vc more relayTo p s
  | .creditReceive port lo hi stall => Sys2Proof.Machine.execCreditReceive port lo hi stall s
  | .creditTimerExpire port => Sys2Proof.Machine.execCreditTimerExpire port s
  | .discoverReceive port id valid peerPort epoch => Sys2Proof.Machine.execDiscoverReceive port id valid peerPort epoch s
  | .discoverPeriod port => Sys2Proof.Machine.execDiscoverPeriod port s
  | .drainRoundReceive axis bad round value => Sys2Proof.Machine.execDrainRoundReceive axis bad round value s
  | .drainRoundGap => Sys2Proof.Machine.execDrainRoundGap s
  | .drainLate => Sys2Proof.Machine.execDrainLate s
  | .forceRelease => Sys2Proof.Machine.execForceRelease s
  | .bobbinSync => Sys2Proof.Machine.execBobbinSync s
  | .bobbinPacketReceive port answer seq t1 t2 t3 resent => Sys2Proof.Machine.execBobbinPacketReceive port answer seq t1 t2 t3 resent s
  | .bobbinSet value => Sys2Proof.Machine.execBobbinSet value s
  | .seamBegin src bad step epoch groups bytes efb => Sys2Proof.Machine.execSeamBegin src bad step epoch groups bytes efb s
  | .seamGroup src bad records => Sys2Proof.Machine.execSeamGroup src bad records s
  | .seamData src bad pos bytes => Sys2Proof.Machine.execSeamData src bad pos bytes s
  | .seamEfb src bad off bytes => Sys2Proof.Machine.execSeamEfb src bad off bytes s
  | .seamEnd src bad total => Sys2Proof.Machine.execSeamEnd src bad total s
  | .seamAck src bad step status => Sys2Proof.Machine.execSeamAck src bad step status s
  | .seamRecord src bad words => Sys2Proof.Machine.execSeamRecord src bad words s
  | .seamStreamTimeout => Sys2Proof.Machine.execSeamStreamTimeout s
  | .seamStreamRelease => Sys2Proof.Machine.execSeamStreamRelease s
  | .ckptPacketReceive src bad pkt => Sys2Proof.Machine.execCkptPacketReceive src bad pkt s
  | .loadPacketReceive src kind bad pkt => Sys2Proof.Machine.execLoadPacketReceive src kind bad pkt s
  | .imageTransferComplete => Sys2Proof.Machine.execImageTransferComplete s
  | .fill relay => Sys2Proof.Machine.execFill relay s
  | .load relay => Sys2Proof.Machine.execLoad relay s
  | .slot slot relay => Sys2Proof.Machine.execSlot slot relay s
  | .jobStart step => Sys2Proof.Machine.execJobStart step s
  | .pressCopyComplete => Sys2Proof.Machine.execPressCopyComplete s
  | .ckptNow => Sys2Proof.Machine.execCkptNow s
  | .drainComplete => Sys2Proof.Machine.execDrainComplete s
  | .drainAbandon partner result => Sys2Proof.Machine.execDrainAbandon partner result s
  | .restorePrepare source step => Sys2Proof.Machine.execRestorePrepare source step s
  | .restoreCommit => Sys2Proof.Machine.execRestoreCommit s
  | .restoreComplete => Sys2Proof.Machine.execRestoreComplete s
  | .restoreAbort => Sys2Proof.Machine.execRestoreAbort s
  | .groupCommitSstore => Sys2Proof.Machine.execGroupCommitSstore s
  | .partitionQuietApply p => Sys2Proof.Machine.execPartitionQuietApply p s
  | .groupCommitHbm => Sys2Proof.Machine.execGroupCommitHbm s
  | .groupCommitRoute => Sys2Proof.Machine.execGroupCommitRoute s
  | .groupCommitSeam => Sys2Proof.Machine.execGroupCommitSeam s
  | .groupCommitOpp => Sys2Proof.Machine.execGroupCommitOpp s
  | .ringEnable ctx ring log2 => Sys2Proof.Machine.execRingEnable ctx ring log2 s
  | .ringDisable ctx ring => Sys2Proof.Machine.execRingDisable ctx ring s
  | .stepcfgWrite reg value => Sys2Proof.Machine.execStepcfgWrite reg value s
  | .setupRegisterWrite addr size value => Sys2Proof.Machine.execSetupRegisterWrite addr size value s
  | .windowRead addr len => Sys2Proof.Machine.execWindowRead addr len s
  | .windowWrite addr bytes => Sys2Proof.Machine.execWindowWrite addr bytes s
  | .lintPackLoad => Sys2Proof.Machine.execLintPackLoad s
  | .lintItemStart unit item => Sys2Proof.Machine.execLintItemStart unit item s
  | .lintItemComplete unit crcOk => Sys2Proof.Machine.execLintItemComplete unit crcOk s
  | .lintDeadlineMiss unit item => Sys2Proof.Machine.execLintDeadlineMiss unit item s
  | .ceThresholdSecond => Sys2Proof.Machine.execCeThresholdSecond s
  | .patrolScrub => Sys2Proof.Machine.execPatrolScrub s
  | .tgStart => Sys2Proof.Machine.execTgStart s
  | .tgRunComplete fails => Sys2Proof.Machine.execTgRunComplete fails s
  | .stackTempRead temps => Sys2Proof.Machine.execStackTempRead temps s
  | .portEnable port => Sys2Proof.Machine.execPortEnable port s
  | .trainingStateDone port lock syms => Sys2Proof.Machine.execTrainingStateDone port lock syms s
  | .trainingFailRetry port => Sys2Proof.Machine.execTrainingFailRetry port s
  | .trainBlockReceive port lane w0 nonce ack => Sys2Proof.Machine.execTrainBlockReceive port lane w0 nonce ack s
  | .fibreFaultClassify port rxp lsp rev => Sys2Proof.Machine.execFibreFaultClassify port rxp lsp rev s
  | .laneBad port lane => Sys2Proof.Machine.execLaneBad port lane s
  | .dataBlockReceive port corrected fecOk tackOk ack more => Sys2Proof.Machine.execDataBlockReceive port corrected fecOk tackOk ack more s
  | .nakReceive port ack => Sys2Proof.Machine.execNakReceive port ack s
  | .ackTimeout port => Sys2Proof.Machine.execAckTimeout port s
  | .markReceive port num ack => Sys2Proof.Machine.execMarkReceive port num ack s
  | .portDead port => Sys2Proof.Machine.execPortDead port s
  | .retrain port now => Sys2Proof.Machine.execRetrain port now s
  | .laserAgeingSample bias => Sys2Proof.Machine.execLaserAgeingSample bias s
  | .powerAllocation link mem cmp => Sys2Proof.Machine.execPowerAllocation link mem cmp s
  | .oppSelectionHeld entry => Sys2Proof.Machine.execOppSelectionHeld entry s
  | .rampStep => Sys2Proof.Machine.execRampStep s
  | .vrSettleExpire => Sys2Proof.Machine.execVrSettleExpire s
  | .sprintEnd => Sys2Proof.Machine.execSprintEnd s
  | .droopDetect => Sys2Proof.Machine.execDroopDetect s
  | .droopStretchEnd cycles => Sys2Proof.Machine.execDroopStretchEnd cycles s
  | .droopQuietExpire => Sys2Proof.Machine.execDroopQuietExpire s
  | .steamGapExpire bay me => Sys2Proof.Machine.execSteamGapExpire bay me s
  | .junctionRead temps => Sys2Proof.Machine.execJunctionRead temps s
  | .coolantFilterExpire => Sys2Proof.Machine.execCoolantFilterExpire s
  | .railsOkLoss => Sys2Proof.Machine.execRailsOkLoss s
  | .idleEntry => Sys2Proof.Machine.execIdleEntry s
  | .stateReqActive => Sys2Proof.Machine.execStateReqActive s
  | .stateReqParked => Sys2Proof.Machine.execStateReqParked s
  | .stateReqFolded => Sys2Proof.Machine.execStateReqFolded s
  | .ctlclkSourceSelect root => Sys2Proof.Machine.execCtlclkSourceSelect root s
  | .wake => Sys2Proof.Machine.execWake s
  | .coldStart bootSel i3c maddr => Sys2Proof.Machine.execColdStart bootSel i3c maddr s
  | .bootPhaseComplete ok ms => Sys2Proof.Machine.execBootPhaseComplete ok ms s
  | .bringUpEntry table unit ok => Sys2Proof.Machine.execBringUpEntry table unit ok s
  | .resetCmp => Sys2Proof.Machine.execResetCmp s
  | .resetMem => Sys2Proof.Machine.execResetMem s
  | .resetHif => Sys2Proof.Machine.execResetHif s
  | .resetFull bootSel => Sys2Proof.Machine.execResetFull bootSel s
  | .fenceTimeout => Sys2Proof.Machine.execFenceTimeout s
  | .cmpResetComplete written => Sys2Proof.Machine.execCmpResetComplete written s
  | .hostLinkDown => Sys2Proof.Machine.execHostLinkDown s
  | .hostLinkUp modes width => Sys2Proof.Machine.execHostLinkUp modes width s
  | .statusByteRead bytes => Sys2Proof.Machine.execStatusByteRead bytes s
  | .setdasa staticAddr dyn => Sys2Proof.Machine.execSetdasa staticAddr dyn s
  | .rstdaa => Sys2Proof.Machine.execRstdaa s
  | .status => Sys2Proof.Machine.execStatus s
  | .readReg addr => Sys2Proof.Machine.execReadReg addr s
  | .setCaps tray sprint => Sys2Proof.Machine.execSetCaps tray sprint s
  | .reset domain bootSel => Sys2Proof.Machine.execReset domain bootSel s
  | .power req => Sys2Proof.Machine.execPower req s
  | .restart bootSel i3c maddr => Sys2Proof.Machine.execRestart bootSel i3c maddr s
  | .flashRead offset len => Sys2Proof.Machine.execFlashRead offset len s
  | .flashErase offset => Sys2Proof.Machine.execFlashErase offset s
  | .flashWrite offset bytes => Sys2Proof.Machine.execFlashWrite offset bytes s
  | .rotateOwner policy key held => Sys2Proof.Machine.execRotateOwner policy key held s
  | .testEnable => Sys2Proof.Machine.execTestEnable s
  | .testDisable => Sys2Proof.Machine.execTestDisable s
  | .clearOos => Sys2Proof.Machine.execClearOos s
  | .eraseHelper => Sys2Proof.Machine.execEraseHelper s
  | .badPecCommand frame => Sys2Proof.Machine.execBadPecCommand frame s
  | .landTest r => Sys2Proof.Machine.execLandTest r s
  | .presenceAssert => Sys2Proof.Machine.execPresenceAssert s
  | .identityKeyReady => Sys2Proof.Machine.execIdentityKeyReady s
  | .spdmGetVersion => Sys2Proof.Machine.execSpdmGetVersion s
  | .spdmGetCapabilities req => Sys2Proof.Machine.execSpdmGetCapabilities req s
  | .negotiateAlgorithms req => Sys2Proof.Machine.execNegotiateAlgorithms req s
  | .spdmGetCertificate slot off len => Sys2Proof.Machine.execSpdmGetCertificate slot off len s
  | .challenge slot kind nonce context => Sys2Proof.Machine.execChallenge slot kind nonce context s
  | .getMeasurements sign index nonce context => Sys2Proof.Machine.execGetMeasurements sign index nonce context s
  | .bypass => Sys2Proof.Machine.execBypass s
  | .idcode => Sys2Proof.Machine.execIdcode s
  | .samplePreload pins cells => Sys2Proof.Machine.execSamplePreload pins cells s
  | .extest => Sys2Proof.Machine.execExtest s
  | .clamp => Sys2Proof.Machine.execClamp s
  | .highz => Sys2Proof.Machine.execHighz s
  | .vrcFrameRepeat => Sys2Proof.Machine.execVrcFrameRepeat s
  | .railsOkAssert => Sys2Proof.Machine.execRailsOkAssert s
  | .nakRepeatTimeout port => Sys2Proof.Machine.execNakRepeatTimeout port s
  | .lintPackLoadComplete => Sys2Proof.Machine.execLintPackLoadComplete s
  | .mirrorUpdateComplete => Sys2Proof.Machine.execMirrorUpdateComplete s
  | .enec => Sys2Proof.Machine.execEnec s
  | .aonPowerLoss => Sys2Proof.Machine.execAonPowerLoss s

end Sys2Proof.Machine
end

