-- ==== Sys2Proof/Machine/Step.lean ====
section
/-!
DEFINITION. One step of the block: the command at the front of the queue, or a tick of CTLCLK when none waits.
-/
namespace Sys2Proof.Machine

/-- The command at the front of the queue is carried out with the rest of the queue. On an empty queue one CTLCLK tick passes:
Bobbin time and AON time move on (R330, R450; DESIGN CHOICE, log 5). -/
def step (s : State) : Host.Outcome State Fault Refusal :=
  match s.pending with
  | [] => .next (tick s)
  | c :: cs => exec c { s with pending := cs }

/-- No row of the opcode table gives its command bits, so no word spells a command and the state is unchanged. -/
def State.withFetchWord (s : State) (nbits w : Nat) : State :=
  match decodeTableWord nbits w with
  | some c => { s with pending := c :: s.pending }
  | none => s

end Sys2Proof.Machine
end

