-- ==== Sys2Proof/WellFormed.lean ====
section
/-!
DEFINITION. Which commands are well formed: the bounds on what the outside world supplies that the types of the operands do
not carry. The machine gives every command a meaning, well formed or not; a claim that needs a bound says so with `Instr.wf`.
-/
namespace Sys2Proof

/-- A packet carries at most 4,072 payload bytes: 64 cells of 64 bytes, less header and trailer (R281). -/
def wfPacket (p : Packet) : Bool := p.payload.length ≤ 4072

/-- A transfer is at most 2^35 bytes (R282). -/
def wfTransfer (n : Nat) : Bool := n ≤ 2 ^ 35

/-- Group records have 128 bytes each, and one packet holds at most 31 (R281, R345). -/
def wfGroups (l : List (List Word)) : Bool := l.length ≤ 31 && l.all (fun g => g.length == 16)

/-- Bytes of a stream packet beside `used` other payload bytes (R281, R348). -/
def wfBody (bytes : List Byte) (used : Nat) : Bool := bytes.length + used ≤ 4072

/-- A commit record, or a request for one, has words to one packet (R281, R348). -/
def wfRecord (ws : List Word) : Bool := 8 * ws.length ≤ 4072

/-- A packet of a stream, by its sub-kind (R348). -/
def wfStream : StreamPkt → Bool
  | .group l => wfGroups l
  | .data _ b => wfBody b 0
  | .efb _ b => wfBody b 8
  | .record w => wfRecord w
  | .opening .. | .closing .. | .ack .. => true

/-- An access of the device memory window names at least one byte (R371). -/
def wfWindow (n : Nat) : Bool := 1 ≤ n

/-- A DATA block carries at most four cells (R259, R260). -/
def wfBlock (cells : Nat) : Bool := cells ≤ 4

/-- Bias samples of 16 lanes for each of 12 ports (R276). -/
def wfBias (l : List (List (BitVec 16))) : Bool := l.length == 12 && l.all (fun p => p.length == 16)

/-- A link partner supports some mode, and the link has a width that it can train at (R369, R370, R402). -/
def wfLink (modes width : Nat) : Bool := modes != 0 && [4, 8, 16].contains width

/-- Whether a command is well formed. -/
def Instr.wf : Instr → Bool
  | .verifyReceive _ _ _ _ _ bytes => wfTransfer bytes.toNat
  | .announceReceive _ p => wfPacket p
  | .collPacketReceive _ _ _ p => wfPacket p
  | .p2pPacketReceive _ _ _ _ total p => wfPacket p && wfTransfer total.toNat
  | .abortedPacketReceive _ _ _ total p => wfPacket p && wfTransfer total.toNat
  | .headCellRoute _ _ more _ p => wfBlock (more.val + 1) && wfPacket p
  | .dataBlockReceive _ _ _ _ _ more => wfBlock more.length
  | .seamGroup _ _ records => wfGroups records
  | .seamData _ _ _ bytes => wfBody bytes 0
  | .seamEfb _ _ _ bytes => wfBody bytes 8
  | .seamRecord _ _ words => wfRecord words
  | .ckptPacketReceive _ _ pkt => wfStream pkt
  | .loadPacketReceive _ _ _ pkt => wfStream pkt
  | .windowRead _ len => wfWindow len.toNat
  | .windowWrite _ bytes => wfWindow bytes.length
  | .stackTempRead temps => temps.length == 8
  | .trainingStateDone _ _ syms => syms.length == 16
  | .fibreFaultClassify _ rxp lsp _ => rxp.length == 16 && lsp.length == 16
  | .laserAgeingSample bias => wfBias bias
  | .junctionRead temps => temps.length == 48
  | .hostLinkUp modes width => wfLink modes.toNat width.toNat
  | .rotateOwner _ key _ => key.length == 512
  | .samplePreload pins cells => pins.length == cells.length
  | .ringDoorbellSnoop .. | .doorbellWrite .. | .ringFetch .. | .gemm .. | .tileJobIssue ..
  | .passStagingAllocate .. | .partialSlotReserve .. | .tileJobDrain .. | .statisticsFold .. | .descriptorRetire ..
  | .descriptorTimeout .. | .normFwd .. | .rmsFwd .. | .smaxFwd .. | .normBwd .. | .rmsBwd .. | .smaxBwd ..
  | .add .. | .mul .. | .scale .. | .cast .. | .act .. | .actBwd .. | .dropout .. | .allreduce ..
  | .reduceScatter .. | .allgather .. | .broadcast .. | .send .. | .recv .. | .hostIn .. | .hostOut ..
  | .moveLocal .. | .dmBurstComplete .. | .dmHalt .. | .dmResume .. | .dmAbort .. | .dmBurstAged .. | .nop ..
  | .stepOpen .. | .stepClose .. | .stepVerdictContribute .. | .voteSeal .. | .voteResolve .. | .optBind ..
  | .ctrSet .. | .barrier .. | .barrierRelease .. | .steamPreRampStep .. | .startWaveRelease .. | .caps ..
  | .noticeHoldoffExpire .. | .voteCellReceive .. | .voteComplete .. | .voteTimeout .. | .ownUpdateComplete ..
  | .stepDiscardComplete .. | .verifySend .. | .creditReceive .. | .creditTimerExpire .. | .discoverReceive ..
  | .discoverPeriod .. | .drainRoundReceive .. | .drainRoundGap | .drainLate | .forceRelease | .bobbinSync
  | .bobbinPacketReceive .. | .bobbinSet .. | .seamBegin .. | .seamEnd .. | .seamAck .. | .seamStreamTimeout
  | .seamStreamRelease | .imageTransferComplete | .fill .. | .load .. | .slot .. | .jobStart .. | .pressCopyComplete
  | .ckptNow | .drainComplete | .drainAbandon .. | .restorePrepare .. | .restoreCommit | .restoreComplete
  | .restoreAbort | .groupCommitSstore | .partitionQuietApply .. | .groupCommitHbm | .groupCommitRoute
  | .groupCommitSeam | .groupCommitOpp | .ringEnable .. | .ringDisable .. | .stepcfgWrite .. | .lintPackLoad
  | .lintItemStart .. | .lintItemComplete .. | .lintDeadlineMiss .. | .ceThresholdSecond | .tgStart
  | .tgRunComplete .. | .portEnable .. | .trainingFailRetry .. | .trainBlockReceive .. | .laneBad ..
  | .patrolScrub | .portDead .. | .retrain .. | .nakReceive .. | .ackTimeout .. | .markReceive .. | .powerAllocation ..
  | .oppSelectionHeld .. | .rampStep | .vrSettleExpire | .sprintEnd | .droopDetect | .droopStretchEnd ..
  | .droopQuietExpire .. | .steamGapExpire .. | .coolantFilterExpire | .railsOkLoss | .idleEntry | .stateReqActive
  | .stateReqParked | .stateReqFolded | .ctlclkSourceSelect .. | .wake | .coldStart .. | .bootPhaseComplete ..
  | .bringUpEntry .. | .resetCmp | .resetMem | .resetHif | .resetFull .. | .fenceTimeout | .cmpResetComplete ..
  | .hostLinkDown | .statusByteRead .. | .setdasa .. | .rstdaa | .status | .readReg .. | .setCaps .. | .reset ..
  | .power .. | .restart .. | .flashRead .. | .flashErase .. | .flashWrite .. | .testEnable | .testDisable
  | .clearOos | .eraseHelper | .badPecCommand .. | .landTest .. | .presenceAssert | .identityKeyReady | .spdmGetVersion
  | .spdmGetCapabilities .. | .negotiateAlgorithms .. | .spdmGetCertificate .. | .challenge .. | .getMeasurements ..
  | .bypass | .idcode | .extest | .clamp | .highz | .vrcFrameRepeat | .railsOkAssert | .nakRepeatTimeout ..
  | .lintPackLoadComplete | .mirrorUpdateComplete | .enec | .aonPowerLoss | .setupRegisterWrite .. => true

end Sys2Proof
end

