-- ==== Sys2Proof/Safety.lean ====
section
/-!
DEFINITION. The terms the claims use: when a descriptor may start, which registers a command leaves alone, which bytes an
element occupies, and the canonical form of every sparse map of the state.
-/
namespace Sys2Proof.Machine

/-- Every register but those listed holds what it held. -/
def RegsKept (s t : State) (changed : List Nat) : Prop := ∀ a, a ∉ changed → rdReg t a = rdReg s a

/-- Descriptor `d` of context `c` and ring `r`, of the class and operation given, starts now: it is fetched, eligible (R66 to
R69), may use the compute units if it needs them (R100), and its step tag matches a live step that takes work, or it carries
none (R18, R20, R50). -/
abbrev Starts (s : State) (c r cnt cls op : Nat) (d : Desc) : Prop :=
  findDesc s c r cnt = some d ∧ dClass d = cls ∧ dOp d = op ∧ d.run = .fetched ∧ eligible s d = true
    ∧ (dCompute d = true → mayTake s c = true)
    ∧ (tagged s c = false
        ∨ (stepOfTag s (dStag d)).any (fun x => !x.forced && x.st != .discarding && x.st != .stopped) = true)

/-- Descriptor `d` is no longer in flight in `t`; every other one is. -/
abbrev Gone (s t : State) (d : Desc) : Prop := t.inflight = s.inflight.filter (fun x => !sameDesc x d)

/-- Descriptor `d` of the step context belongs to the live step `x` (R18). -/
abbrev InStep (s : State) (c : Nat) (d : Desc) (x : StepRec) : Prop :=
  tagged s c = true ∧ stepOfTag s (dStag d) = some x ∧ findStep s x.num = some x

/-- The host reaches set-up space: its link is up and the device takes its writes (R476, R479). -/
abbrev HostReaches (s : State) : Prop := linkUp s = true ∧ notReady s = false

/-- Byte address `a` holds a bit of element `pos` of a tensor, or its scale (R61, R103, R105). -/
abbrev InElem (t : Tensor) (base pos a : Nat) : Prop :=
  (elemBitAddr t base pos / 8 ≤ a ∧ a < (elemBitAddr t base pos + fmtBits (tFmt t) + 7) / 8)
    ∨ (fmtBlocked (tFmt t) = true ∧ a = elemScaleAddr t base pos)

/-- No Tack error stands anywhere: every stored word, every copy in an on-die store and every side-memory entry is clean (R231,
R232). -/
abbrev NoUpset (s : State) : Prop := s.syn = [] ∧ s.copySyn = [] ∧ s.sideSyn = []

/-- No live step notes a range as unclean (R26). -/
abbrev Untainted (s : State) : Prop := ∀ x ∈ s.steps, x.taint = []

/-- The registers in which accesses to device memory, and prefetch, are counted (R205, R229). -/
def accessRegs : List Nat :=
  [R.SSTORE_CACHE_HIT, R.SSTORE_CACHE_MISS, R.SSTORE_WRITEBACK, R.SSTORE_PF_BYTES] ++ (List.range 16).map R.HBM_REGBYTES

/-- No two elements at the positions of a list share a byte, and no position stands in it twice. -/
abbrev Apart (t : Tensor) (base : Nat) (ps : List Nat) : Prop :=
  ps.Nodup ∧ ∀ p ∈ ps, ∀ q ∈ ps, p ≠ q → ∀ a, ¬ (InElem t base p a ∧ InElem t base q a)

/-- An FP32 element holds a value, rounded once (R107). -/
abbrev Holds32 (s : State) (t : Tensor) (base pos : Nat) (v : FV) : Prop :=
  memBits s (elemBitAddr t base pos) 32 = fpEncode .fp32 v % 2 ^ 32

/-- An ANNOUNCE packet of a kind for a descriptor has left this device towards a neighbour (R316). -/
abbrev Announced (t : State) (dst kind : Nat) (p2p : Bool) (dirn axis tag stag : Nat) : Prop :=
  ∃ q : Packet, OutMsg.pkt q ∈ t.out ∧ q.typ = 7#4 ∧ q.dst = BitVec.ofNat 14 dst ∧ q.stag = BitVec.ofNat 2 stag
    ∧ (readyOf q).kind = kind ∧ (readyOf q).p2p = p2p ∧ (readyOf q).dirn = dirn ∧ (readyOf q).axis = axis
    ∧ (readyOf q).tag = tag

/-- Whether a held record is the READY of a SEND (R325). -/
def readyOfSend (s : State) (d : Desc) (x : Ready) : Bool :=
  x.p2p && x.kind == 1 && x.tag == cTag d && x.stag == dStag d && x.axis == p2pAxis d && x.dirn == p2pDirn d
    && x.src == p2pPeer s d

/-- The bytes of a SEND have left this device in packets of at most 4,072 bytes, each with its place (R281, R326). -/
abbrev SentAll (s t : State) (d : Desc) (bs : List Byte) : Prop :=
  ∀ i, 4072 * i < bs.length → ∃ q : Packet, OutMsg.pkt q ∈ t.out ∧ q.typ = 9#4 ∧ q.dst = BitVec.ofNat 14 (p2pPeer s d)
    ∧ q.tag = BitVec.ofNat 32 (cTag d) ∧ q.stag = BitVec.ofNat 2 (dStag d) ∧ q.offset = BitVec.ofNat 32 (509 * i)
    ∧ q.payload = (bs.drop (4072 * i)).take 4072 ∧ q.abort = false

/-- `s` after accesses of agents to device memory: the counters, the cache and the notes of requests as in `t` (R192, R205). -/
abbrev afterAccess (s t : State) : State :=
  { s with regs := t.regs, cache := t.cache, xbarReqs := t.xbarReqs, qfullReqs := t.qfullReqs }

/-- The image offsets and lengths of what the first `n` elements of a group occupy: P, V1, W, W8, and with ADAMW V2 (R345). -/
def groupParts (g : GroupRec) (n : Nat) : List (Nat × Nat) :=
  [(g.pOff, 4 * n), (g.v1Off, 4 * n), (g.wOff, 2 * n), (g.w8Off, n)] ++ (if g.kind = 0 then [(g.v2Off, 4 * n)] else [])

/-- No two parts of a group overlap. -/
abbrev GroupApart (g : GroupRec) (n : Nat) : Prop :=
  (groupParts g n).Pairwise (fun x y => x.1 + x.2 ≤ y.1 ∨ y.1 + y.2 ≤ x.1)

/-- The first `n` elements of a group, with an unblocked W8, hold in `t` what the optimiser makes of those in `s` (R90, R128). -/
abbrev Updated (s t : State) (img : Nat → Nat) (g : GroupRec) (grad : Nat → FV) (n : Nat) : Prop :=
  ∀ e, e < n →
    let r := optElem g (grad e) (memF32 s (img (g.v1Off + 4 * e)))
      (if g.kind = 0 then memF32 s (img (g.v2Off + 4 * e)) else fvZero) (memF32 s (img (g.pOff + 4 * e)))
    memNat t (img (g.pOff + 4 * e)) 4 = fpEncode .fp32 r.2.2 % 2 ^ 32
      ∧ memNat t (img (g.v1Off + 4 * e)) 4 = fpEncode .fp32 r.1 % 2 ^ 32
      ∧ (g.kind = 0 → memNat t (img (g.v2Off + 4 * e)) 4 = fpEncode .fp32 r.2.1 % 2 ^ 32)
      ∧ memNat t (img (g.wOff + 2 * e)) 2 = fpEncode .bf16 r.2.2 % 2 ^ 16
      ∧ memNat t (img (g.w8Off + e)) 1
          = fpEncode ((fmtOfCode g.w8fmt).getD .fp8E4M3) (memF32 t (img (g.pOff + 4 * e))) % 2 ^ 8

/-- No cell waits at any port. -/
def Quiet (s : State) : Prop := (∀ n v, (vcRt s n v).queue = []) ∧ ∀ n, (portRt s n).waitQ = [] ∧ (portRt s n).bobQ = []

/-- Port `n` may send a cell of its CTL channel on its own (R261, R272, R288). -/
abbrev CanSend (s : State) (n : Nat) : Prop :=
  n < 12 ∧ portState s n = 6 ∧ (portRt s n).retry.length < 4096 ∧ (portRt s n).narrowing = false ∧ bonded s = false
    ∧ (vcRt s n 0).outst < 64

/-- One packet of one cell has left port `n` in a block of its own, and nothing else has left. -/
abbrev SentAlone (s t : State) (n : Nat) (p : Packet) : Prop :=
  t.out = s.out ++ [.block n (blockLane s n (portRt s n).txNext) (portRt s n).txNext
    (blockSymbols (outHeader n 0 [⟨0, p, 0⟩] s).1 (blockBody [⟨0, p, 0⟩]))]

/-- A register whose writes set and clear its fields and do nothing more (R482): no trigger and no rule of its own. -/
def plainReg (a : Nat) : Bool :=
  !([R.RST_CTL, R.SSTORE_GROUP_COMMIT, R.HBM_GROUP_COMMIT, R.ROUTE_GROUP_COMMIT, R.SEAM_GROUP_COMMIT, R.OPP_GROUP_COMMIT,
      R.HBM_TG_CTL, R.LINT_CTL, R.ROUTE_CTL, R.BOBBIN_SET, R.PWR_CTL, R.SEAM_XFER, R.SEAM_CKPT_CTL, R.SEAM_RESTORE,
      R.SEAM_JOB_START, R.CLK_CTL].contains a)
    && !(0x30000 ≤ a && a < 0x44000 && a % 0x1000 == 0) && !(0x60100 ≤ a && a < 0x60700 && a % 0x80 == 0) && !(0x80800 ≤ a && a < 0x80A00)
    && !(0x100000 ≤ a && a < 0x110000 && 0x28 ≤ a % 0x400 && a % 0x400 ≤ 0x58 && a % 16 == 8)
    && !(0x100000 ≤ a && a < 0x110000 && a % 0x400 == R.CTX_WAIT 0 - 0x100000) && !(0x110000 ≤ a && a < 0x114000 && a % 0x100 == 0)

/-- The commands that may change the flash (R452, R460, R466, R471): the flash and presence commands, a start-up phase, in which
the device may enrol, and whatever may ask for a counted reset, which may write the out-of-service record. -/
def mayFlash : Instr → Bool
  | .flashErase _ | .flashWrite _ _ | .rotateOwner _ _ _ | .clearOos | .eraseHelper | .bootPhaseComplete _ _
  | .bringUpEntry _ _ _ | .setupRegisterWrite _ _ _ | .resetCmp | .resetMem | .resetFull _ | .reset _ _ => true
  | _ => false

/-- Two exact values are the same: both NaN, the same infinity, or the same sign and magnitude (R101). -/
def SameValue : FV → FV → Prop
  | .nan, .nan => True
  | .inf a, .inf b => a = b
  | .fin n1 m1 e1, .fin n2 m2 e2 => n1 = n2 ∧ m1 * 2 ^ (e1 - min e1 e2).toNat = m2 * 2 ^ (e2 - min e1 e2).toNat
  | _, _ => False

/-- The register file, the memories and the counters are in canonical form: addresses rise strictly and nothing listed equals
what an unlisted address reads as. -/
structure Canonical (s : State) : Prop where
  regs : smWf regReset s.regs = true
  force : smWf regReset s.force = true
  mem : smWf memDefault s.mem = true
  syn : smWf (fun _ => 0) s.syn = true
  host : smWf memDefault s.host = true
  flash : smWf flashDefault s.flash = true
  sideMem : smWf (fun _ => (0 : Word)) s.sideMem = true
  ctrs : smWf (fun _ => 0) s.ctrs = true
  sideSyn : smWf (fun _ => 0) s.sideSyn = true

end Sys2Proof.Machine
end

