-- ==== Sys2Proof/Certificates/Slice0/Obligations.lean ====
section
/-!
DEFINITION. What the model is claimed to do: one statement for each group of commands of one shape, each with the rules of spec/
it rests on. Where a statement says *derived* of a clause, that clause is the model's reading or choice.
-/
open Sys2Proof Sys2Proof.Machine

/-! ### The whole machine -/

/-- DESIGN CHOICE (log 5): a block takes its commands first in, first out. -/
def Obligations.StepRunsFrontCommand : Prop :=
  ∀ (s : State) (c : Instr) (cs : List Instr), s.pending = c :: cs → step s = exec c { s with pending := cs }

/-- With no command waiting one CTLCLK tick passes (the model's choice, log 5): time moves on. Where no port of a bond has its turn
and no descriptor waits for a neighbour nothing else changes; in every case memory, the rings and the descriptors in flight stay as
they are, and of the registers only the counters of waits may change. A CE with a descriptor that waits for a neighbour counts the
time once (R341). -/
def Obligations.IdleStepIsOneTick : Prop :=
  ∀ s : State, s.pending = [] →
    let ns := fun (t : State) => (nowNs t + 2 ^ 64 - nowNs s) % 2 ^ 64
    ∃ t, step s = .next t
      ∧ t = { s with bob := t.bob, aon := t.aon, regs := t.regs, steps := t.steps, ports := t.ports, out := t.out,
                     bondSeq := t.bondSeq }
      ∧ t.aon = s.aon + nominalRate s
      ∧ (s.rtrUp = true → t.bob = (s.bob + bobRate s) % 2 ^ 104) ∧ (s.rtrUp = false → t.bob = s.bob)
      ∧ RegsKept s t (R.COLL_SEND_WAIT_NS :: (List.range 4).map R.COLL_CE_WAIT_NS)
      ∧ (∀ a, a < 4 → rf t (F.COLL_CE_WAIT_NS a)
          = (rf s (F.COLL_CE_WAIT_NS a) + (if s.inflight.any (fun d => (waitAxes d).contains a) then ns t else 0)) % 2 ^ 64)
      ∧ ((∀ d ∈ s.inflight, waitAxes d = []) → t.regs = s.regs ∧ t.steps = s.steps)
      ∧ (bonded s = false → t.out = s.out ∧ t.ports = s.ports ∧ t.bondSeq = s.bondSeq)

/-- Every command, in every state, is answered with a next state: no fault and no refusal. It leaves the commands still
waiting as they are, and the flash too, unless it is one of the commands that `mayFlash` lists. That an event whose
conditions do not hold leaves the state as it is, instead of stopping the run, is the model's choice (log 64). -/
def Obligations.EveryCommandCompletes : Prop :=
  ∀ (c : Instr) (s : State), ∃ t, exec c s = .next t ∧ t.pending = s.pending ∧ (mayFlash c = false → t.flash = s.flash)

/-- The canonical form of the register file, the memories and the counters is an invariant of every step, from every state
that has it. -/
def Obligations.StepKeepsCanonicalForm : Prop :=
  ∀ s t : State, Canonical s → step s = .next t → Canonical t

/-- The machine right after reset is canonical, waits for nothing and holds the reset values the spec gives (R483): the
device code, the reset and escalation settings, the vote time-out, the keep buffer, the scrub and step settings; every ring
is disabled, no step is live, and RST.STAT shows phase 0. -/
def Obligations.ResetHoldsTheResetValues : Prop :=
  Canonical State.reset ∧ State.reset.pending = [] ∧ State.reset.steps = [] ∧ State.reset.inflight = []
    ∧ rf State.reset F.ID_DEV_DEVICE_CODE = 0x9160 ∧ rf State.reset F.RST_STAT_PHASE = 0 ∧ rf State.reset F.RST_STAT_BUSY = 0
    ∧ rf State.reset F.RST_ESC_COUNT = 3 ∧ rf State.reset F.RST_ESC_WINDOW_S = 600
    ∧ rf State.reset F.STEPCFG_CTL_VOTE_TIMEOUT_MS = 250 ∧ rf State.reset F.STEPCFG_KEEP_BASE_ADDR = 0xB7C0000000
    ∧ rf State.reset F.STEPCFG_KEEP_SIZE_MIB = 0x8000
    ∧ ∀ c, c < 64 → ∀ r, r < 4 → ringOn State.reset c r = false

/-! ### Doorbells, rings and descriptors in flight -/

/-- A write of HIF.DBn in a PCIe mode completes for every ring, enabled or not, and every count (R380, R389): a count that runs ahead
by at most the slots of the ring becomes the producer count, and the gap at which fetching stopped is over; on ring 3 the notices held
back are then written, in order, one to each slot that the device owns; on every other ring nothing else changes. A count that runs
back or overruns sets its error bit alone. A write to a ring that is not enabled changes nothing, and in the CXL modes none does
(R389). A snoop of a doorbell line in a CXL mode, with a ring of the context enabled, completes whatever the line holds (R386, R388):
the snoop is counted, the line is read again and held again; with no changed count the snoop is spurious and counted so, and nothing
more happens; every changed count of an enabled ring of descriptors that fits becomes its producer count. -/
def Obligations.DoorbellsSetProducerCounts : Prop :=
  (∀ (s : State) (ctx : Fin 64) (ring : BitVec 2) (prod : BitVec 32),
     HostReaches s → linkCxl s = false → ringOn s ctx.val ring.toNat = true →
     let c := ctx.val
     let r := ring.toNat
     let x := ringRt s c r
     let ahead := (prod.toNat + 2 ^ 32 - x.prod) % 2 ^ 32
     let room := 2 ^ rf s (F.CTX_RING_CTL_LOG2 c r)
     let used := (prod.toNat + 2 ^ 32 - oldestOwned s c r) % 2 ^ 32
     ((ahead < 2 ^ 31 ∧ used ≤ room ∧ (r ≠ 3 ∨ (ctxRt s c).held = [])) →
       ∃ t, exec (.doorbellWrite ctx ring prod) s = .next t ∧ t = { s with rings := t.rings }
         ∧ ringRt t c r = { x with prod := prod.toNat, gap := false }
         ∧ ∀ c' r', 4 * c' + r' ≠ 4 * c + r → ringRt t c' r' = ringRt s c' r') ∧
     ((ahead < 2 ^ 31 ∧ used ≤ room ∧ r = 3) →
       ∃ t k, exec (.doorbellWrite ctx ring prod) s = .next t
         ∧ t = { s with regs := t.regs, rings := t.rings, ctxs := t.ctxs, host := t.host, out := t.out }
         ∧ RegsKept s t [0xF08000 + rf s (F.CTX_INT_VEC c) / 64 * 8]
         ∧ (ringRt t c 3).prod = prod.toNat ∧ (ringRt t c 3).gap = false
         ∧ (ringRt t c 3).cons % 2 ^ 32 = (x.cons + k) % 2 ^ 32
         ∧ k ≤ (ctxRt s c).held.length ∧ (ctxRt t c).held = (ctxRt s c).held.drop k ∧ (ctxRt t c).seq = (ctxRt s c).seq
         ∧ ∀ c' r', 4 * c' + r' ≠ 4 * c + 3 → ringRt t c' r' = ringRt s c' r') ∧
     (2 ^ 31 ≤ ahead →
       ∃ t, exec (.doorbellWrite ctx ring prod) s = .next t ∧ t = { s with regs := t.regs }
         ∧ RegsKept s t [R.CTX_ERR c] ∧ rf t (F.CTX_ERR_DB_BACK c) = 1
         ∧ rf t (F.CTX_ERR_OVERRUN c) = rf s (F.CTX_ERR_OVERRUN c)) ∧
     ((ahead < 2 ^ 31 ∧ room < used) →
       ∃ t, exec (.doorbellWrite ctx ring prod) s = .next t ∧ t = { s with regs := t.regs }
         ∧ RegsKept s t [R.CTX_ERR c] ∧ rf t (F.CTX_ERR_OVERRUN c) = 1
         ∧ rf t (F.CTX_ERR_DB_BACK c) = rf s (F.CTX_ERR_DB_BACK c))) ∧
  (∀ (s : State) (ctx : Fin 64) (ring : BitVec 2) (prod : BitVec 32),
     HostReaches s → (linkCxl s = true ∨ ringOn s ctx.val ring.toNat = false) →
     exec (.doorbellWrite ctx ring prod) s = .next s) ∧
  (∀ (s : State) (ctx : Fin 64), linkUp s = true → linkCxl s = true →
     (∃ r, r < 4 ∧ ringOn s ctx.val r = true) →
     let c := ctx.val
     ∃ t, exec (.ringDoorbellSnoop ctx) s = .next t
       ∧ (∃ more, t.out = s.out ++ .rdShared (rf s (F.CTX_DB_ADDR c)) :: more)
       ∧ c ∈ t.dbHeld ∧ (∀ c', c' ≠ c → (c' ∈ t.dbHeld ↔ c' ∈ s.dbHeld))
       ∧ RegsKept s t [R.HIF_DB_SNOOPS, R.HIF_DB_SPURIOUS, R.CTX_ERR c, 0xF08000 + rf s (F.CTX_INT_VEC c) / 64 * 8]
       ∧ rf t F.HIF_DB_SNOOPS = (rf s F.HIF_DB_SNOOPS + 1) % 2 ^ 64
       ∧ t.mem = s.mem ∧ t.steps = s.steps ∧ t.inflight = s.inflight
       ∧ (changedRings s c = [] →
           t = { s with regs := t.regs, out := t.out, dbHeld := t.dbHeld }
             ∧ t.out = s.out ++ [.rdShared (rf s (F.CTX_DB_ADDR c))]
             ∧ rf t F.HIF_DB_SPURIOUS = (rf s F.HIF_DB_SPURIOUS + 1) % 2 ^ 64)
       ∧ (changedRings s c ≠ [] → rf t F.HIF_DB_SPURIOUS = rf s F.HIF_DB_SPURIOUS)
       ∧ ∀ r prod, r < 3 → (r, prod) ∈ changedRings s c → ringOn s c r = true →
           (prod + 2 ^ 32 - (ringRt s c r).prod) % 2 ^ 32 < 2 ^ 31 →
           (prod + 2 ^ 32 - oldestOwned s c r) % 2 ^ 32 ≤ 2 ^ rf s (F.CTX_RING_CTL_LOG2 c r) →
           ringRt t c r = { ringRt s c r with prod := prod, gap := false })

/-- A ring whose turn it is not is not fetched (R384; the order of turns within a context's rings is the model's choice, log 140).
The fetch turn of a ring whose next slot is not owned by the device (R379): the gap is counted and the ring waits for its next
doorbell. The fetch turn takes an owned slot (R378, R379): the consumer count moves on by one, and the descriptor in flight carries
the eight words of its slot. Stated for a ring with one slot posted, on a context
that is not the step context, for a descriptor that the device accepts (R96), and while the compute units have no holder. -/
def Obligations.FetchTakesOwnedSlots : Prop :=
  (∀ (s : State) (ctx : Fin 64) (ring : Fin 3), fetchTurnOf s ctx.val ring.val = false →
     exec (.ringFetch ctx ring) s = .next s) ∧
  (∀ (s : State) (ctx : Fin 64) (ring : Fin 3), fetchTurnOf s ctx.val ring.val = true →
     let c := ctx.val
     let r := ring.val
     let x := ringRt s c r
     bitsOf (hostWord s (slotAddr s c r x.cons)).toNat 63 1 = 0 → s.holder = none →
       ∃ t, exec (.ringFetch ctx ring) s = .next t
         ∧ t = { s with regs := t.regs, rings := t.rings, idleAt := t.idleAt, idleNs := t.idleNs, fetchAt := 3 * c + r,
                        sprintRefused := t.sprintRefused }
         ∧ RegsKept s t [R.CTX_OWN_GAP c]
         ∧ rf t (F.CTX_OWN_GAP c) = (rf s (F.CTX_OWN_GAP c) + 1) % 2 ^ 64
         ∧ ringRt t c r = { x with gap := true }) ∧
  (∀ (s : State) (ctx : Fin 64) (ring : Fin 3), fetchTurnOf s ctx.val ring.val = true →
     let c := ctx.val
     let r := ring.val
     let x := ringRt s c r
     let ws := hostWords s (slotAddr s c r x.cons) 8
     x.prod = (x.cons + 1) % 2 ^ 32 → s.holder = none → c ≠ stepCtx s →
     bitsOf (hostWord s (slotAddr s c r x.cons)).toNat 63 1 = 1 →
     refuseCause collCause s (newDesc c r x.cons ws none 0) = none →
       ∃ t d, exec (.ringFetch ctx ring) s = .next t ∧ (ringRt t c r).cons = (x.cons + 1) % 2 ^ 32 ∧ t.fetchAt = 3 * c + r
         ∧ t.inflight = s.inflight ++ [d] ∧ d.ctx = c ∧ d.ring = r ∧ d.cnt = x.cons ∧ d.words = ws ∧ d.run = .fetched
         ∧ t.mem = s.mem ∧ t.host = s.host)

/-- Enabling a ring (R383, R386, R390, R451): under the rule's conditions ENABLE is 1, LOG2 is as written and both counts are 0, and in a
CXL mode the device takes the context's doorbell line unless it holds it; enabling one that is on changes nothing, and is refused while
the device is out of service (R451); disabling one (R383) leaves LOG2 and its counts, unless it is a ring of the step context while a step is live, which is
refused. The side-memory records of a context go when its last ring is disabled (R183; that this is when the context is disabled
is the model's choice, log 116). -/
def Obligations.RingEnableAndDisable : Prop :=
  ∀ (s : State) (ctx : Fin 64) (ring : Fin 4) (log2 : BitVec 5), HostReaches s →
    let c := ctx.val
    let r := ring.val
    ((ringOn s c r = false ∧ 1 ≤ rf s (F.CTX_CFG_FENEX_REV c) ∧ rf s (F.CTX_CFG_FENEX_REV c) ≤ 3 ∧ ringBusy s c r = false
        ∧ 4 ≤ log2.toNat ∧ log2.toNat ≤ 16 ∧ rf s (F.CTX_RING_BASE c r) % 4096 = 0
        ∧ (r = 2 → chanTaken s c = false) ∧ rf s F.RST_STAT_OOS = 0) →
      ∃ t, exec (.ringEnable ctx ring log2) s = .next t
        ∧ t = { s with regs := t.regs, rings := t.rings, collIdx := t.collIdx, out := t.out, dbHeld := t.dbHeld }
        ∧ (linkCxl s = true → c ∈ t.dbHeld) ∧ (linkCxl s = false ∨ c ∈ s.dbHeld → t.out = s.out ∧ t.dbHeld = s.dbHeld)
        ∧ RegsKept s t [R.CTX_RING_CTL c r] ∧ ringOn t c r = true ∧ rf t (F.CTX_RING_CTL_LOG2 c r) = log2.toNat
        ∧ (ringRt t c r).prod = 0 ∧ (ringRt t c r).cons = 0 ∧ (ringRt t c r).gap = false) ∧
    ((ringOn s c r = true ∧ rf s (F.CTX_RING_CTL_LOG2 c r) = log2.toNat ∧ rf s F.RST_STAT_OOS = 0) →
      exec (.ringEnable ctx ring log2) s = .next s) ∧
    ((ringOn s c r = true ∧ rf s F.RST_STAT_OOS = 1) →
      ∃ t, exec (.ringEnable ctx ring log2) s = .next t ∧ t = { s with regs := t.regs } ∧ ringOn t c r = true
        ∧ rf t F.SETUP_ERR_COUNT = (rf s F.SETUP_ERR_COUNT + 1) % 2 ^ 64) ∧
    ((ringOn s c r = true ∧ ¬ (c = stepCtx s ∧ s.steps ≠ [])) →
      ∃ t, exec (.ringDisable ctx ring) s = .next t
        ∧ t = { s with regs := t.regs, rings := t.rings, side := t.side, dbHeld := t.dbHeld }
        ∧ RegsKept s t [R.CTX_RING_CTL c r] ∧ ringOn t c r = false
        ∧ rf t (F.CTX_RING_CTL_LOG2 c r) = rf s (F.CTX_RING_CTL_LOG2 c r)
        ∧ (ringRt t c r).prod = (ringRt s c r).prod ∧ (ringRt t c r).cons = (ringRt s c r).cons
        ∧ t.side = (if (List.range 4).any (fun x => ringOn t c x) then s.side else s.side.filter (fun e => e.ctx != c))) ∧
    ((ringOn s c r = true ∧ c = stepCtx s ∧ s.steps ≠ []) →
      ∃ t, exec (.ringDisable ctx ring) s = .next t ∧ t = { s with regs := t.regs } ∧ ringOn t c r = true
        ∧ rf t F.SETUP_ERR_COUNT = (rf s F.SETUP_ERR_COUNT + 1) % 2 ^ 64)

/-- What a retirement leaves (R68, R73): word 7 of the slot carries status, cause and result, OWN is clear, the descriptor is
no longer in flight, SIG_CTR moves on only with status DONE, and device memory is untouched. Stated with the host link up, for a
slot that does not wrap around the end of host addresses; a user channel, which has no write-back (R393), is left out. A
descriptor whose step tag matches no live step, with none in flight that opens it and nothing before it that holds it back, retires
refused (R18). A
descriptor whose timer expires retires with status TIMEOUT and cause TIMEOUT (R72, R73): it is no longer in flight and signals
nothing. The end of a notice hold-off (R399): a notice written during it raises the context's vector once; otherwise the interval
is over. Stated for a vector that the MSI-X table leaves unmasked. -/
def Obligations.RetirementWritesBack : Prop :=
  (∀ (s : State) (ctx : Fin 64) (ring : Fin 3) (cnt : BitVec 32) (d : Desc),
     findDesc s ctx.val ring.val cnt.toNat = some d → d.run = .finished → d.refused = none → retireTurn s d = true →
     (ring.val = 2 → dmChan s ctx.val < 48) →
     linkUp s = true → slotAddr s ctx.val ring.val cnt.toNat + 64 ≤ 2 ^ 64 →
     let a := slotAddr s ctx.val ring.val cnt.toNat
     let k := ctrKey s d.ctx (dStag d) (bitsOf (dWord d 0) 16 8)
     ∃ t, exec (.descriptorRetire ctx ring cnt false) s = .next t
       ∧ t.inflight = s.inflight.filter (fun x => !sameDesc x d)
       ∧ t.mem = s.mem ∧ t.syn = s.syn
       ∧ bitsOf (hostWord t (a + 56)).toNat 0 8 = (if d.fails = [] then 1 else 3)
       ∧ bitsOf (hostWord t (a + 56)).toNat 8 8 = failCause d.fails % 256
       ∧ bitsOf (hostWord t (a + 56)).toNat 16 8 = d.result % 256
       ∧ bitsOf (hostWord t a).toNat 63 1 = 0
       ∧ ((d.fails = [] ∧ bitsOf (dWord d 0) 36 1 = 1) → ctrGet t k = (ctrGet s k + 1) % 2 ^ 16)
       ∧ (¬ (d.fails = [] ∧ bitsOf (dWord d 0) 36 1 = 1) → t.ctrs = s.ctrs)) ∧
  (∀ (s : State) (ctx : Fin 64) (ring : Fin 3) (cnt : BitVec 32) (d : Desc) (acctErr : Bool),
     findDesc s ctx.val ring.val cnt.toNat = some d → staleTag s d = true → ring.val ≠ 2 →
     ∃ t, exec (.descriptorRetire ctx ring cnt acctErr) s = .next t ∧ Gone s t d ∧ t.ctrs = s.ctrs ∧ t.mem = s.mem ∧ t.syn = s.syn) ∧
  (∀ (s : State) (ctx : Fin 64) (ring : Fin 3) (cnt : BitVec 32) (d : Desc),
     findDesc s ctx.val ring.val cnt.toNat = some d → timerRuns s d = true →
     ∃ t, exec (.descriptorTimeout ctx ring cnt) s = .next t
       ∧ findDesc t ctx.val ring.val cnt.toNat = none ∧ (ring.val ≠ 2 → Gone s t d)
       ∧ t.ctrs = s.ctrs ∧ t.mem = s.mem ∧ t.syn = s.syn) ∧
  (∀ (s : State) (ctx : Fin 64), (ctxRt s ctx.val).holdoff = true →
     let c := ctx.val
     let v := rf s (F.CTX_INT_VEC c)
     (((ctxRt s c).pendInt = true ∧ rf s (F.CTX_INT_MASK c) = 0 ∧ bitsOf (rdReg s (0xF00008 + 16 * v)).toNat 32 1 = 0) →
       ∃ t, exec (.noticeHoldoffExpire ctx) s = .next t ∧ t = { s with out := t.out, ctxs := t.ctxs }
         ∧ t.out = s.out ++ [.msix v] ∧ (ctxRt t c).pendInt = false
         ∧ (ctxRt t c).seq = (ctxRt s c).seq ∧ (ctxRt t c).held = (ctxRt s c).held) ∧
     (((ctxRt s c).pendInt = false ∨ rf s (F.CTX_INT_MASK c) ≠ 0) →
       ∃ t, exec (.noticeHoldoffExpire ctx) s = .next t ∧ t = { s with ctxs := t.ctxs }
         ∧ (ctxRt t c).holdoff = false ∧ (ctxRt t c).pendInt = false
         ∧ (ctxRt t c).seq = (ctxRt s c).seq ∧ (ctxRt t c).held = (ctxRt s c).held))

/-! ### Elementwise and row operations -/

/-- An ELEM descriptor that starts (ADD, MUL, SCALE, CAST, ACT, ACT_BWD, DROPOUT) runs to its end (R82, R127): with no Tack error anywhere it finishes without a failure,
and the only bytes of device memory it may change are those of the first COUNT elements of OUT, and of AUX for ACT. Host
memory, counters and rings stay as they are, and so do the steps when no unclean range is noted; of the registers only those that
count accesses may change. The values an ELEM descriptor writes (R82, R127): with OUT a plain FP32 vector of at least COUNT
elements, element i of OUT is the operation's value of the inputs as they stood, rounded once. The gate form of ACT also writes
AUX, which must not overlap OUT. DROPOUT draws by its step's key and has a statement of its own. A DROPOUT in a live step draws
with the key and the number of that step (R124 to R126): an element whose uniform number lies below PARAM is written as zero.
Stated for OUT a plain FP32 vector. -/
def Obligations.ElemWritesItsResult : Prop :=
  (∀ (s : State) (r : DescRef) (op : Nat) (d : Desc), 1 ≤ op → op ≤ 7 → Starts s r.ctx.val 0 r.cnt.toNat 2 op d → NoUpset s →
     let c := elemCtx s d 0 0
     ∃ t d', exec (match op with | 1 => .add r | 2 => .mul r | 3 => .scale r | 4 => .cast r | 5 => .act r | 6 => .actBwd r | _ => .dropout r)
         s = .next t
       ∧ findDesc t r.ctx.val 0 r.cnt.toNat = some d' ∧ d'.run = .finished ∧ d'.fails = d.fails ∧ d'.words = d.words
       ∧ NoUpset t ∧ t.host = s.host ∧ t.ctrs = s.ctrs ∧ t.rings = s.rings ∧ RegsKept s t accessRegs
       ∧ (Untainted s → t.steps = s.steps)
       ∧ ∀ a, (∀ i, i < c.count → ¬ InElem c.outp c.bo i a ∧ (op = 5 → c.gated = true → ¬ InElem c.aux c.ba i a)) →
           memGet t a = memGet s a) ∧
  (∀ (s : State) (r : DescRef) (op : Nat) (d : Desc), 1 ≤ op → op ≤ 6 → Starts s r.ctx.val 0 r.cnt.toNat 2 op d → NoUpset s →
     let c := elemCtx s d 0 0
     tFmt c.outp = .fp32 → c.outp.layout = 0 → c.outp.rank = 0 → c.count ≤ c.outp.d0 →
     (∀ i j a, i < c.count → j < c.count → InElem c.outp c.bo i a → ¬ (op = 5 ∧ c.gated = true ∧ InElem c.aux c.ba j a)) →
     ∃ t, exec (match op with | 1 => .add r | 2 => .mul r | 3 => .scale r | 4 => .cast r | 5 => .act r | 6 => .actBwd r | _ => .dropout r)
         s = .next t
       ∧ ∀ i, i < c.count → ∀ v,
           (elemOp op c i (elemGet s [] c.in1 c.b1 i)
             (if elemReads2 op then elemGet s [] c.in2 c.b2 i else some fvZero)
             (if op = 6 ∧ c.gated = true then elemGet s [] c.aux c.ba i else some fvZero)).1 = some v →
           Holds32 t c.outp c.bo i v) ∧
  (∀ (s : State) (r : DescRef) (d : Desc) (x : StepRec), Starts s r.ctx.val 0 r.cnt.toNat 2 7 d → NoUpset s →
     tagged s r.ctx.val = true → stepOfTag s (dStag d) = some x → findStep s x.num = some x →
     let c := elemCtx s d x.key x.num
     tFmt c.outp = .fp32 → c.outp.layout = 0 → c.outp.rank = 0 → c.count ≤ c.outp.d0 →
     ∃ t, exec (.dropout r) s = .next t
       ∧ ∀ i, i < c.count →
           fvLt (uniformOf (randomWord x.key x.num c.strm ((c.origin + i) % 2 ^ 64))) c.param = true →
           memBits t (elemBitAddr c.outp c.bo i) 32 = 0)

/-- A ROW descriptor that starts (NORM_FWD, RMS_FWD, SMAX_FWD, NORM_BWD, RMS_BWD, SMAX_BWD) runs to its end (R81, R177 to R179): with no Tack error anywhere it finishes without a
failure, and the only bytes of device memory it may change are those of Y, of STATS in a forward form, and of DGAIN and DBIAS
in a backward form. Host memory, counters and rings stay as they are, and so do the steps when no unclean range is noted; of the
registers only those that count accesses may change. Where no side-memory record is held, Y is an FP32 tensor whose elements
share no byte, and the other outputs do not overlap it, the elements of Y are the operation's values of the inputs as they stood,
rounded once, and in a forward form the statistics of each row enter its side-memory entry (R177, R178, R180). -/
def Obligations.RowRunsToItsEnd : Prop :=
  ∀ (s : State) (r : DescRef) (op : Nat) (d : Desc), 1 ≤ op → op ≤ 6 → Starts s r.ctx.val 0 r.cnt.toNat 1 op d → NoUpset s →
    let c := rowCtx s d
    let base := fun (t : Tensor) => tBase s t c.stag
    ∃ t d', exec (match op with | 1 => .normFwd r | 2 => .rmsFwd r | 3 => .smaxFwd r | 4 => .normBwd r | 5 => .rmsBwd r | _ => .smaxBwd r)
        s = .next t
      ∧ findDesc t r.ctx.val 0 r.cnt.toNat = some d' ∧ d'.run = .finished ∧ d'.fails = d.fails ∧ d'.words = d.words
      ∧ NoUpset t ∧ t.host = s.host ∧ t.ctrs = s.ctrs ∧ t.rings = s.rings ∧ RegsKept s t accessRegs
      ∧ (Untainted s → t.steps = s.steps)
      ∧ (∀ a, (∀ i, i < c.rows * c.len → ¬ InElem c.y (base c.y) i a) →
          (op ≤ 3 → ∀ i, i < 2 * c.rows → ¬ InElem c.stats (base c.stats) i a) →
          (4 ≤ op → ∀ i, i < c.len → ¬ InElem c.dgain (base c.dgain) i a ∧ ¬ InElem c.dbias (base c.dbias) i a) →
          memGet t a = memGet s a)
      ∧ (s.side = [] →
          (op ≤ 3 → ∀ i b e st, i < c.rows → sideEntry (bitsOf (dWord d 5) 0 15) i = some (b, e) →
            (rowOne s [] [] c d i).1 = some st → smGet (fun _ => (0 : Word)) t.sideMem (32768 * b + e) = sideWord st)
          ∧ (tFmt c.y = .fp32 → Apart c.y (base c.y) (List.range (c.rows * c.len)) →
            (∀ i a, i < c.rows * c.len → InElem c.y (base c.y) i a →
              (op ≤ 3 → named c.stats = true → ∀ k, k < 2 * c.rows → ¬ InElem c.stats (base c.stats) k a)
              ∧ (4 ≤ op → ∀ k, k < c.len → (named c.dgain = true → ¬ InElem c.dgain (base c.dgain) k a)
                  ∧ (named c.dbias = true → ¬ InElem c.dbias (base c.dbias) k a))) →
            ∀ i, i < c.rows → ∀ p ∈ (rowOne s [] [] c d i).2, ∀ v, p.2 = some v → Holds32 t c.y (base c.y) p.1 v))

/-! ### Numbers -/

/-- Every FP8 E4M3, FP8 E5M2, BF16 and FP32 code that is no NaN is the encoding of the value it stands for (R101, R107):
decode and encode agree, and no bit of sign, exponent or significand is lost between memory and arithmetic. -/
def Obligations.FloatCodesRoundTrip : Prop :=
  (∀ c : BitVec 8, (fpDecode .fp8E4M3 c.toNat ≠ .nan → fpEncode .fp8E4M3 (fpDecode .fp8E4M3 c.toNat) = c.toNat)
     ∧ (fpDecode .fp8E5M2 c.toNat ≠ .nan → fpEncode .fp8E5M2 (fpDecode .fp8E5M2 c.toNat) = c.toNat)) ∧
  ((∀ c : BitVec 16, fpDecode .bf16 c.toNat ≠ .nan → fpEncode .bf16 (fpDecode .bf16 c.toNat) = c.toNat)
     ∧ ∀ c : BitVec 32, fpDecode .fp32 c.toNat ≠ .nan → fpEncode .fp32 (fpDecode .fp32 c.toNat) = c.toNat)

/-- The uniform value of a random word (R125): the upper 24 bits times 2⁻²⁴, at least 0, below 1, and an FP32 value without
rounding. -/
def Obligations.UniformValuesAreExact : Prop :=
  ∀ w : BitVec 32, SameValue (uniformOf w.toNat) (.fin false (w.toNat / 2 ^ 8) (-24))
    ∧ fvLt (uniformOf w.toNat) fvZero = false ∧ fvLt (uniformOf w.toNat) (fvOfNat 1) = true
    ∧ SameValue (fpDecode .fp32 (fpEncode .fp32 (uniformOf w.toNat))) (uniformOf w.toNat)

/-- A CAST from a byte format to BF16 never rounds (R186): the BF16 code of every FP8 E4M3 and FP8 E5M2 value, and of every
BE8 element m × 2^(s − 133) with |m| ≤ 127 and a scale byte s up to 254, stands for that very value. The BE8 element has at
most 7 significant bits and, where it is not 0, a magnitude from 2⁻¹³³ to 127 × 2¹²¹. -/
def Obligations.ByteFormatsCastExactly : Prop :=
  (∀ c : BitVec 8, SameValue (fpDecode .bf16 (fpEncode .bf16 (elemValue .fp8E4M3 0 c.toNat))) (elemValue .fp8E4M3 0 c.toNat)
    ∧ SameValue (fpDecode .bf16 (fpEncode .bf16 (elemValue .fp8E5M2 0 c.toNat))) (elemValue .fp8E5M2 0 c.toNat)) ∧
  (∀ m s : BitVec 8, m ≠ 0x80 → s ≠ 0xFF →
    SameValue (elemValue .be8 s.toNat m.toNat) (.fin m.msb m.toInt.natAbs ((s.toNat : Int) - 133))
      ∧ m.toInt.natAbs < 2 ^ 7 ∧ m.toInt.natAbs * 2 ^ s.toNat ≤ 127 * 2 ^ 254 ∧ (m ≠ 0 → 1 ≤ m.toInt.natAbs * 2 ^ s.toNat)
      ∧ SameValue (fpDecode .bf16 (fpEncode .bf16 (elemValue .be8 s.toNat m.toNat))) (elemValue .be8 s.toNat m.toNat))

/-! ### Matrix engines -/

/-- A GEMM that starts (R133, R146): its passes and tile jobs are those of its split, which it keeps, none of them allocated or
issued; memory, host memory and registers are untouched. The next pass of the GEMM whose tile job is next in the order of R150
gets its staging when there is room (R196); the cycles it waited are counted. The KPART − 1 partial slots of the tile whose
partition 0 is next are reserved when the pool has room for them (R197); the cycles waited are counted. The next tile job goes to
an engine that may take it (R114, R138, R150, R151, R155, R405): once the masks before it are read, `d2` in state `s2`, the job counts
as issued on that array, the stalls and Steam cycles are counted for the bay, and the pattern generators of every quad have stepped as
often as the quad ran Steam ops (R153). Stated with CTLCLK on ROOT. -/
def Obligations.GemmIsSplitAndIssued : Prop :=
  (∀ (s : State) (r : DescRef) (d : Desc), Starts s r.ctx.val 0 r.cnt.toNat 0 1 d →
     let g := gemmOf d
     let sp := splitOf s d.ctx g
     ∃ t d', exec (.gemm r) s = .next t
       ∧ t = { s with inflight := t.inflight, side := t.side, holder := t.holder, heldSince := t.heldSince,
                      mbWait := t.mbWait, pushed := t.pushed, waveT := t.waveT, waveDue := t.waveDue, steps := t.steps,
                      idleAt := t.idleAt, idleNs := t.idleNs, sprintRefused := t.sprintRefused }
       ∧ t.holder = some r.ctx.val ∧ (Untainted s → t.steps = s.steps)
       ∧ findDesc t r.ctx.val 0 r.cnt.toNat = some d' ∧ d'.words = d.words ∧ d'.mx.split = sp ∧ d'.mx.jobs = jobsOf g sp
       ∧ d'.mx.passes = sp.ns * sp.ms * sp.segs ∧ d'.mx.allocated = 0
       ∧ ((jobsOf g sp ≠ []) → d'.run = .running)) ∧
  (∀ (s s1 s2 : State) (r : DescRef) (d1 d2 : Desc) (j : TileJob) (waited : BitVec 64),
     issuing s r = some (some (j, d2, s2), d1, s1) → d1.mx.allocated ≤ j.pass →
     passBytes s1 d1.ctx (gemmOf d1) d1.mx.split j.pass ≤ stagingCap s1 - stagingUsed s1 →
     (∀ o ∈ passRuns s1 d1 (gemmOf d1) d1.mx.split j.pass, accessHeld s1 .operand o.2 = false) →
     ∃ t d', exec (.passStagingAllocate r waited) s = .next t ∧ t.mem = s1.mem ∧ t.host = s1.host
       ∧ RegsKept s1 t (R.SSTORE_STAGE_WAIT :: R.SSTORE_PF_USED :: accessRegs)
       ∧ rf t F.SSTORE_STAGE_WAIT = (rf s1 F.SSTORE_STAGE_WAIT + waited.toNat) % 2 ^ 64
       ∧ findDesc t r.ctx.val 0 r.cnt.toNat = some d' ∧ d'.mx.allocated = j.pass + 1 ∧ d'.mx.jobs = d1.mx.jobs) ∧
  (∀ (s s1 s2 : State) (r : DescRef) (d1 d2 : Desc) (j : TileJob) (band col : BitVec 32) (waited : BitVec 64),
     issuing s r = some (some (j, d2, s2), d1, s1) → needsSlots d1 j = true → j.band = band.toNat → j.col = col.toNat →
     poolUsed s1 + ((gemmOf d1).kpart - 1) * slotBytes (gemmOf d1) ≤ 8 * 2 ^ 20 →
     ∃ t d', exec (.partialSlotReserve r band col waited) s = .next t
       ∧ t = { s1 with regs := t.regs, inflight := t.inflight } ∧ RegsKept s1 t [R.SSTORE_SLOT_WAIT]
       ∧ rf t F.SSTORE_SLOT_WAIT = (rf s1 F.SSTORE_SLOT_WAIT + waited.toNat) % 2 ^ 64
       ∧ findDesc t r.ctx.val 0 r.cnt.toNat = some d' ∧ d'.mx.reserved = d1.mx.reserved ++ [(j.band, j.col)]) ∧
  (∀ (s s1 s2 : State) (r : DescRef) (d1 d2 : Desc) (j : TileJob) (bay : Fin 20) (me : Fin 8) (quad : Fin 4)
     (feed : BitVec 64) (steam : List (BitVec 64)), s.cmpUp = true → s.memUp = true → unitsClocked s = true →
     engBarred s bay.val me.val = false → waveWaits s bay.val me.val = false →
     issuing s r = some (some (j, d2, s2), d1, s1) →
     let g := gemmOf d1
     let q := (gArray g quad.val).1
     j.pass < d1.mx.allocated → segmentReady d1 j = true → arrayTakes s1 bay.val me.val g q j = true →
     servedFirst s1 bay.val me.val q g = true →
     (needsSlots d2 j = true → poolUsed s2 + ((gemmOf d2).kpart - 1) * slotBytes (gemmOf d2) ≤ 8 * 2 ^ 20) →
     ∃ t d', exec (.tileJobIssue r bay me quad feed steam) s = .next t
       ∧ findDesc t r.ctx.val 0 r.cnt.toNat = some d'
       ∧ d'.mx.jobs = d2.mx.jobs.map (fun i => if i = j then
           { j with issued := true, bay := bay.val, me := me.val, quad := q, order := nextOrder s2 } else i)
       ∧ d'.mx.reserved = d2.mx.reserved ++ (if needsSlots d2 j then [(j.band, j.col)] else [])
       ∧ t.mem = s2.mem ∧ t.host = s2.host ∧ (engRt t bay.val me.val).steam = false ∧ t.lastBay = bay.val
       ∧ rf t (F.BAY_FEED_STALL bay.val) = (rf s2 (F.BAY_FEED_STALL bay.val) + feed.toNat) % 2 ^ 64
       ∧ rf t (F.BAY_DRAIN_STALL bay.val)
           = (rf s2 (F.BAY_DRAIN_STALL bay.val) + drainStall s2 bay.val me.val (gemmOf d2) q) % 2 ^ 64
       ∧ rf t (F.BAY_STEAM_CYCLES bay.val)
           = (rf s2 (F.BAY_STEAM_CYCLES bay.val) + (steam.map (·.toNat)).foldl (· + ·) 0) % 2 ^ 64
       ∧ ∀ x, x < 4 → let k := 4 * (8 * bay.val + me.val) + x
           smGet (fun _ => 0) t.steamRun k = smGet (fun _ => 0) s2.steamRun k + (steam.map (·.toNat)).getD x 0)

/-- An issued tile job drains with no fault in its cells and no Tack error anywhere (R114, R118, R120, R137, R142): the job
counts as drained; while other jobs of its tile are still to drain, device memory is untouched and its accumulators are kept, and
when it is the last the only bytes that may change are those of D's elements in the tile. Where D is FP32 and its elements there
share no byte, the element of each unmasked row and column is then the total of the partitions in increasing number, with the
epilogue's operation on E, rounded once. Failed comparisons of groups in a tile job (R157, R158): the engine is suspect, they are
counted for its bay, and the descriptor fails with cause RESIDUE. The comparisons that fail while quads run Steam ops are counted for
their bay and put the engine at the head of its sweep (R154, R246). The statistics of a band whose tile jobs have all drained are folded (R121,
R143): the band counts as folded, and the only bytes that may change are those of STAT; the two elements of a row hold the maximum
and the sum that the rule gives, where the elements of STAT share no byte. -/
def Obligations.TileJobsDrain : Prop :=
  (∀ (s : State) (r : DescRef) (d : Desc) (j : TileJob) (pass band col part seg : BitVec 32), runningGemm s r = some d →
     NoUpset s →
     d.mx.jobs.find? (fun j => j.issued && !j.drained && j.pass == pass.toNat && j.band == band.toNat
       && j.col == col.toNat && j.part == part.toNat && j.seg == seg.toNat) = some j →
     drainHeld s d j = false →
     let g := gemmOf d
     let D := tensorEntry s d.ctx g.d
     let db := tBase s D (dStag d)
     let E := tensorEntry s d.ctx g.e
     let jobs := d.mx.jobs.map (fun i => if i = j then { i with drained := true } else i)
     let last := jobs.all (fun i => i.drained || !(i.band == j.band && i.col == j.col))
     let accs := segmentAccs s [] d g j (accOf d j)
     let start := (jobCells d g j).map (fun c =>
       if c.1 && g.accIn && g.acc == 1 then oldD s [] d g c.2.1 c.2.2 else some fvZero)
     let total := combineParts g start ((List.range g.kpart).map (fun p =>
       if p = j.part then accs else (accOf d { j with part := p }).getD []))
     ∃ t d', exec (.tileJobDrain r pass band col part seg [] none) s = .next t
       ∧ findDesc t r.ctx.val 0 r.cnt.toNat = some d' ∧ d'.mx.jobs = jobs ∧ d'.fails = d.fails
       ∧ NoUpset t ∧ t.host = s.host ∧ RegsKept s t accessRegs
       ∧ (last = false → t.mem = s.mem ∧ accOf d' j = some accs)
       ∧ (∀ a, (∀ p ∈ tilePositions s d g j, ¬ InElem D db p a) → memGet t a = memGet s a)
       ∧ (last = true → tFmt D = .fp32 → Apart D db (tilePositions s d g j) →
           ∀ (k row c : Nat) (v : Option FV), (jobCells d g j)[k]? = some (true, row, c) → total[k]? = some v →
             let e := elemGet s [] E (tBase s E (dStag d)) (row * E.d0 + c)
             ∀ y, (match g.epi with
               | 1 | 4 => (fv2 fvAdd v e).map plusZero
               | 2 => (fv2 fvMul v e).map plusZero
               | _ => v.map plusZero) = some y → Holds32 t D db (row * D.d0 + c) y)) ∧
  (∀ (s : State) (r : DescRef) (d : Desc) (j : TileJob) (pass band col part seg : BitVec 32) (ups : List GroupUpset),
     runningGemm s r = some d → NoUpset s → j.bay < 20 → j.me < 8 →
     d.mx.jobs.find? (fun j => j.issued && !j.drained && j.pass == pass.toNat && j.band == band.toNat
       && j.col == col.toNat && j.part == part.toNat && j.seg == seg.toNat) = some j →
     drainHeld s d j = false → residueFails s d (gemmOf d) j ups ≠ [] →
     ∃ t d', exec (.tileJobDrain r pass band col part seg ups none) s = .next t
       ∧ findDesc t r.ctx.val 0 r.cnt.toNat = some d' ∧ 0x12 ∈ d'.fails
       ∧ bitsOf (rf t (F.BAY_ME_ME_SUSPECT j.bay)) j.me 1 = 1
       ∧ rf t (F.BAY_RESIDUE_ERR j.bay)
           = (rf s (F.BAY_RESIDUE_ERR j.bay) + (residueFails s d (gemmOf d) j ups).length) % 2 ^ 64) ∧
  (∀ (s : State) (r : DescRef) (pass band col part seg : BitVec 32) (x : SteamReport),
     let fails := steamFails s x
     let eng := pathMatrix x.bay.val x.me.val 0
     ∃ t, exec (.tileJobDrain r pass band col part seg [] (some x)) s = .next t
       ∧ rf t (F.BAY_RESIDUE_ERR x.bay.val) = (rf s (F.BAY_RESIDUE_ERR x.bay.val) + fails.length) % 2 ^ 64
       ∧ t.lintHead = (if fails = [] ∨ eng ∈ s.lintHead then s.lintHead else eng :: s.lintHead)) ∧
  (∀ (s : State) (r : DescRef) (d : Desc) (band : BitVec 32), runningGemm s r = some d → NoUpset s →
     band.toNat ∈ unfolded d → (∀ j ∈ d.mx.jobs, j.band = band.toNat → j.drained = true) →
     (∀ l ∈ s.lent, l.unit / 4096 ≠ 2) → foldHeld s d band.toNat = false →
     let g := gemmOf d
     let b := band.toNat
     let D := tensorEntry s d.ctx g.d
     let S := tensorEntry s d.ctx g.stat
     let sb := tBase s S (dStag d)
     ∃ t d', exec (.statisticsFold r band) s = .next t
       ∧ findDesc t r.ctx.val 0 r.cnt.toNat = some d' ∧ d'.mx.folded = d.mx.folded ++ [b] ∧ d'.fails = d.fails
       ∧ NoUpset t ∧ t.host = s.host ∧ RegsKept s t accessRegs
       ∧ (∀ a, (∀ i, i < 2 * g.m → ¬ InElem S sb i a) → memGet t a = memGet s a)
       ∧ (tFmt S = .fp32 → Apart S sb (List.range (2 * g.m)) →
           ∀ (k i : Nat) (m x : FV), ((bandRows g b).zip (maskOf d b))[k]? = some (i, true) →
             rowStat ((List.range g.n).map (fun c => elemGet s [] D (tBase s D (dStag d)) (i * D.d0 + c)))
               ((d.mx.rowMax.filter (fun m => m.1 == b)).map (fun m => m.2.2.getD k none)) = (some m, some x) →
             Holds32 t S sb (2 * i) m ∧ Holds32 t S sb (2 * i + 1) x))

/-! ### CTRL descriptors and steps -/

/-- NOP retires at once (R86); CTR_SET (R91) leaves its counter at the value it names, in the bank of its step tag on the
step context, plus one where its own signal goes to that counter. Nothing but the write-back, the counters, a mark of MB_END
(R100) and the noted idle time (R337) changes. OPT_BIND in an OPEN step which at most 4,095 precede (R89, R344): one group record more, after
those before it. CAPS (R92): with the host link up, the eight words of the capability record stand at the host address the
descriptor names; it retires. Stated for a destination that does not wrap around host addresses and does not overlap the
descriptor's own slot. -/
def Obligations.CtrlDescriptorsRetire : Prop :=
  (∀ (s : State) (r : DescRef) (d : Desc),
     let c := r.ctx.val
     let sig := ctrKey s d.ctx (dStag d) (bitsOf (dWord d 0) 16 8)
     let own := bitsOf (dWord d 0) 36 1
     let key := ctrKey s d.ctx (dStag d) (bitsOf (dWord d 1) 0 8)
     (Starts s c 0 r.cnt.toNat 5 0 d →
       ∃ t, exec (.nop r) s = .next t
         ∧ t = { s with inflight := t.inflight, host := t.host, wbWait := t.wbWait, ctrs := t.ctrs, mbWait := t.mbWait,
                        steps := t.steps, idleAt := t.idleAt, idleNs := t.idleNs, sprintRefused := t.sprintRefused } ∧ Gone s t d
         ∧ (Untainted s → t.steps = s.steps)
         ∧ (own = 1 → ctrGet t sig = (ctrGet s sig + 1) % 2 ^ 16 ∧ ∀ k, k ≠ sig → ctrGet t k = ctrGet s k)
         ∧ (own = 0 → t.ctrs = s.ctrs)) ∧
     (Starts s c 0 r.cnt.toNat 5 9 d →
       ∃ t, exec (.ctrSet r) s = .next t
         ∧ t = { s with inflight := t.inflight, host := t.host, wbWait := t.wbWait, ctrs := t.ctrs, mbWait := t.mbWait,
                        steps := t.steps, idleAt := t.idleAt, idleNs := t.idleNs, sprintRefused := t.sprintRefused } ∧ Gone s t d
         ∧ (Untainted s → t.steps = s.steps)
         ∧ ctrGet t key = (bitsOf (dWord d 1) 8 16 + (if sig = key then own else 0)) % 2 ^ 16
         ∧ ∀ k, k ≠ key → (k = sig → own = 0) → ctrGet t k = ctrGet s k)) ∧
  (∀ (s : State) (r : DescRef) (d : Desc) (x : StepRec), Starts s r.ctx.val 0 r.cnt.toNat 5 8 d → InStep s r.ctx.val d x →
     x.st = .opened → bindsBefore { d with step := some x.num } x s ≤ 4095 →
     ∃ t x', exec (.optBind r) s = .next t ∧ Gone s t d ∧ findStep t x.num = some x'
       ∧ x'.groupRecs = x.groupRecs ++ [recordOf s d x.num] ∧ x'.st = .opened
       ∧ t.mem = s.mem ∧ t.syn = s.syn ∧ t.regs = s.regs) ∧
  (∀ (s : State) (r : DescRef) (d : Desc), Starts s r.ctx.val 0 r.cnt.toNat 5 11 d → linkUp s = true →
     let a := dWord d 1
     let b := slotAddr s r.ctx.val 0 r.cnt.toNat
     a + 64 ≤ 2 ^ 64 → b + 64 ≤ 2 ^ 64 → (a + 64 ≤ b ∨ b + 64 ≤ a) →
     ∃ t, exec (.caps r) s = .next t
       ∧ t = { s with inflight := t.inflight, host := t.host, ctrs := t.ctrs, mbWait := t.mbWait, steps := t.steps,
                      idleAt := t.idleAt, idleNs := t.idleNs, sprintRefused := t.sprintRefused } ∧ Gone s t d
       ∧ (Untainted s → t.steps = s.steps)
       ∧ hostWords t a 8 = capsWords (rf s (F.CTX_CFG_FENEX_REV r.ctx.val))
       ∧ ∀ x, x < 2 ^ 64 → (x < a ∨ a + 64 ≤ x) → (x < b ∨ b + 64 ≤ x) → hostGet t x = hostGet s x)

/-- The capability record under Fenex 3, field by field (R92). -/
def Obligations.CapsRecordUnderFenex3 : Prop :=
  let w := fun i => ((capsWords 3).getD i 0).toNat
  (capsWords 3).length = 8
    ∧ bitsOf (w 0) 0 8 = 1 ∧ bitsOf (w 0) 8 8 = 3 ∧ bitsOf (w 0) 16 16 = 0x9160
    ∧ bitsOf (w 0) 32 8 = Config.stepping.toNat ∧ bitsOf (w 0) 40 24 = 0
    ∧ bitsOf (w 1) 0 16 = 0x7FFE ∧ bitsOf (w 1) 16 16 = 0x001F ∧ bitsOf (w 1) 32 3 = 7 ∧ bitsOf (w 1) 35 3 = 7
    ∧ bitsOf (w 1) 38 2 = 3 ∧ bitsOf (w 1) 40 24 = 0
    ∧ bitsOf (w 2) 0 8 = 64 ∧ bitsOf (w 2) 8 8 = 64 ∧ bitsOf (w 2) 16 16 = 256 ∧ bitsOf (w 2) 32 16 = 65535
    ∧ bitsOf (w 2) 48 8 = 16 ∧ bitsOf (w 2) 56 8 = 0
    ∧ bitsOf (w 3) 0 16 = 16384 ∧ bitsOf (w 3) 16 8 = 64 ∧ bitsOf (w 3) 24 8 = 14 ∧ bitsOf (w 3) 32 16 = 32768
    ∧ bitsOf (w 3) 48 8 = 20 ∧ bitsOf (w 3) 56 8 = 0
    ∧ bitsOf (w 4) 0 16 = 0x0002 ∧ bitsOf (w 4) 16 16 = 0x007E ∧ bitsOf (w 4) 32 16 = 0x00FE
    ∧ bitsOf (w 4) 48 16 = 0x007E
    ∧ bitsOf (w 5) 0 16 = 0x0F1F ∧ bitsOf (w 5) 16 8 = 0x0E ∧ bitsOf (w 5) 24 8 = 0xFF ∧ bitsOf (w 5) 32 4 = 3
    ∧ bitsOf (w 5) 36 28 = 0 ∧ w 6 = 0 ∧ w 7 = 0

/-- BARRIER (R91): one whose time has passed or is reached retires at once, and from then on start waves hold their first
beat, and the engines of those waves that have no tile job run Steam ops on every quad where that is allowed (R153, R155);
one whose time is still to come stays in flight and is released when Bobbin time has reached it. The pre-ramp of an announced
release (R153, R421): at step k the engines MEk with no tile job begin Steam ops where that is allowed, and nothing but the engines
changes. A start wave whose time has come no longer holds its engines (R155, R420); where clock-gated engines restart with it, those
of the wave that have no tile job begin Steam ops where that is allowed (R420). -/
def Obligations.BarriersAndStartWaves : Prop :=
  (∀ (s : State) (r : DescRef) (d : Desc),
     let steams := fun (t : State) => ∀ b w, b < 20 → w ∈ [1, 2, 3, 4, 5, 6, 7] →
       onArray s b w (0, 4) = [] → steamAllowed s b w = true → engRt t b w = ⟨true, 0⟩
     (Starts s r.ctx.val 0 r.cnt.toNat 5 10 d → dWord d 1 ≤ nowNs s →
       ∃ t, exec (.barrier r) s = .next t ∧ Gone s t d ∧ t.waveT = nowNs s ∧ t.waveHeld = [1, 2, 3, 4, 5, 6, 7]
         ∧ steams t ∧ t.mem = s.mem ∧ (Untainted s → t.steps = s.steps)) ∧
     (Starts s r.ctx.val 0 r.cnt.toNat 5 10 d → nowNs s < dWord d 1 →
       ∃ t d', exec (.barrier r) s = .next t ∧ t = { s with inflight := t.inflight, steps := t.steps }
         ∧ (Untainted s → t.steps = s.steps)
         ∧ findDesc t r.ctx.val 0 r.cnt.toNat = some d' ∧ d'.run = .running ∧ d'.words = d.words) ∧
     (findDesc s r.ctx.val 0 r.cnt.toNat = some d → dClass d = 5 → dOp d = 10 → d.run = .running → dWord d 1 ≤ nowNs s →
       ∃ t, exec (.barrierRelease r) s = .next t ∧ Gone s t d ∧ t.waveT = dWord d 1
         ∧ t.waveHeld = [1, 2, 3, 4, 5, 6, 7] ∧ steams t ∧ t.mem = s.mem ∧ t.steps = s.steps)) ∧
  ((∀ (s : State) (k : Fin 8) (b : Nat), preRampDue s k.val = true → s.cmpUp = true → b < 20 →
     onArray s b k.val (0, 4) = [] → steamAllowed s b k.val = true →
     ∃ t, exec (.steamPreRampStep k) s = .next t ∧ t = { s with eng := t.eng } ∧ engRt t b k.val = ⟨true, 0⟩) ∧
   (∀ (s : State) (w : Fin 8), s.waveT + 250 * w.val ≤ nowNs s →
     ∃ t, exec (.startWaveRelease w) s = .next t
       ∧ t = { s with waveHeld := t.waveHeld, waveDue := t.waveDue, eng := t.eng }
       ∧ w.val ∉ t.waveHeld ∧ w.val ∉ t.waveDue
       ∧ (∀ v, v ≠ w.val → (v ∈ t.waveHeld ↔ v ∈ s.waveHeld) ∧ (v ∈ t.waveDue ↔ v ∈ s.waveDue))
       ∧ (w.val ∉ s.waveDue → t.eng = s.eng)
       ∧ (w.val ∈ s.waveDue → s.cmpUp = true → ∀ b, b < 20 → onArray s b w.val (0, 4) = [] → steamAllowed s b w.val = true →
           engRt t b w.val = ⟨true, 0⟩)))

/-- STEP_OPEN (R21 to R23, R67): in sequence after the last hemmed step, with no step live, it makes step n live and OPEN
with the epoch, budget, cursors and key of its words, and sets every counter of its bank to 0; a replay needs a discarded
step. Stated where no other descriptor of the step's tag waits for it. Out of sequence it is refused and no step becomes live. In
overlap mode a second step opens beside one that has closed (R23). STEP_CLOSE takes an OPEN step to CLOSING and stays in flight
until the step's verdict (R19, R29). A CLOSING step with nothing left to wait for contributes its verdict (R19, R29): it goes
to VOTING. Where no vote cell came early, its vote is its own severity, raised to REPLAY with cause MIRROR_NOT_CURRENT when
the mirror is not current, and FIRST_ID names this device unless the verdict is CLEAN. -/
def Obligations.StepsOpenCloseAndVote : Prop :=
  (∀ (s : State) (r : DescRef) (d : Desc), findDesc s r.ctx.val 0 r.cnt.toNat = some d → dClass d = 5 → dOp d = 1 →
     d.run = .fetched → eligible s d = true → r.ctx.val = stepCtx s →
     let n := bitsOf (dWord d 1) 0 48
     let replay := bitsOf (dWord d 1) 48 1
     ((rf s F.STEPSTAT_LAST_HEM_VALID = 1 ∧ rf s F.SEAM_OSTAT_OWN = 0 ∧ s.steps = [] ∧ n = rf s F.STEPSTAT_LAST_HEM_STEP + 1
         ∧ (replay = 1 → n ∈ s.lastDisc)
         ∧ ∀ e ∈ s.inflight, e.ctx = r.ctx.val → e.run = .fetched → namesStep e = false → dStag e ≠ n % 4 ∧ e.step ≠ some n) →
       ∃ t x, exec (.stepOpen r) s = .next t ∧ t.steps = [x] ∧ x.num = n ∧ x.st = .opened ∧ x.sev = 0
         ∧ x.epoch = bitsOf (dWord d 2) 0 32 ∧ x.budget = bitsOf (dWord d 2) 32 32 ∧ x.replay = (replay == 1)
         ∧ x.cursor0.toNat = dWord d 3 ∧ x.cursor1.toNat = dWord d 4 ∧ x.key = dWord d 5 + dWord d 6 * 2 ^ 64
         ∧ t.mem = s.mem ∧ RegsKept s t accessRegs
         ∧ (bitsOf (dWord d 0) 36 1 = 0 → ∀ k, k < 256 → ctrGet t (r.ctx.val * 512 + n % 2 * 256 + k) = 0)) ∧
     ((s.steps = [] ∧ n ≠ rf s F.STEPSTAT_LAST_HEM_STEP + 1) →
       ∃ t, exec (.stepOpen r) s = .next t ∧ t.steps = [] ∧ findDesc t r.ctx.val 0 r.cnt.toNat = none) ∧
     (∀ y, s.steps = [y] → y.st ≠ .opened → n = y.num + 1 → rf s F.STEPCFG_CTL_OVERLAP = 1 →
       rf s F.STEPSTAT_LAST_HEM_VALID = 1 → rf s F.SEAM_OSTAT_OWN = 0 → (replay = 1 → n ∈ s.lastDisc) →
       ∃ t x y', exec (.stepOpen r) s = .next t ∧ t.steps = [y', x] ∧ y'.num = y.num ∧ y'.st = y.st ∧ x.num = n ∧ x.st = .opened)) ∧
  (∀ (s : State) (r : DescRef) (d : Desc) (x : StepRec), Starts s r.ctx.val 0 r.cnt.toNat 5 2 d → InStep s r.ctx.val d x →
     x.st = .opened →
     ∃ t x' d', exec (.stepClose r) s = .next t ∧ t = { s with inflight := t.inflight, steps := t.steps }
       ∧ findStep t x.num = some x' ∧ x'.st = .closing ∧ x'.sev = x.sev ∧ x'.forced = x.forced
       ∧ findDesc t r.ctx.val 0 r.cnt.toNat = some d' ∧ d'.run = .running) ∧
  (∀ (s : State) (step : BitVec 48) (x : StepRec), findStep s step.toNat = some x → x.st = .closing → closeDone s x = true →
     s.ownBad = false → s.cmpUp = true → x.early = [] →
     let sev := if mirrorOk s = true then x.sev else max x.sev 1
     ∃ t x', exec (.stepVerdictContribute step) s = .next t ∧ findStep t step.toNat = some x' ∧ x'.st = .voting
       ∧ x'.vote.sev = sev ∧ x'.vote.firstId = (if sev = 0 then 0x7FFF else selfId s) ∧ t.mem = s.mem)

/-- A vote cell that arrives (R33, R34): dropped and counted for a step that is not live, of another epoch or sealed; held by
an OPEN or CLOSING step; and combined by a VOTING step: the higher severity, the lower FIRST_ID and the cause that came with
it. One whose cells failed their check after the port is dropped and counted (R237). Where the CMP domain takes packets. -/
def Obligations.VoteCellIsCombined : Prop :=
  ∀ (s : State) (axis : Fin 4) (plus : Bool) (cell : VoteCell), consumerUp s 4 = true →
    let n := cell.step.toNat
    let v : Vote := ⟨cell.sev.toNat, cell.firstId.toNat, cell.cause.toNat⟩
    (∃ t, exec (.voteCellReceive axis plus true cell) s = .next t ∧ t = { s with regs := t.regs }
      ∧ rf t F.TACK_ENDPOINT_FAIL = (rf s F.TACK_ENDPOINT_FAIL + 1) % 2 ^ 64) ∧
    ((findStep s n = none ∨ ∃ x, findStep s n = some x ∧ (x.epoch ≠ cell.epoch.toNat ∨ x.sealed = true)) →
      ∃ t, exec (.voteCellReceive axis plus false cell) s = .next t ∧ t = { s with regs := t.regs }
        ∧ RegsKept s t [R.STEPSTAT_VOTE_DROPS]
        ∧ rf t F.STEPSTAT_VOTE_DROPS = (rf s F.STEPSTAT_VOTE_DROPS + 1) % 2 ^ 64) ∧
    (∀ x, findStep s n = some x → x.epoch = cell.epoch.toNat → x.sealed = false → (x.st = .opened ∨ x.st = .closing) →
      ∃ t x', exec (.voteCellReceive axis plus false cell) s = .next t ∧ t = { s with steps := t.steps }
        ∧ findStep t n = some x' ∧ x'.early = x.early ++ [(2 * axis.val + plus.toNat, v)] ∧ x'.st = x.st) ∧
    (∀ x, findStep s n = some x → x.epoch = cell.epoch.toNat → x.sealed = false → x.st = .voting →
      ∃ t x', exec (.voteCellReceive axis plus false cell) s = .next t ∧ findStep t n = some x' ∧ x'.st = .voting
        ∧ x'.vote.sev = max x.vote.sev v.sev ∧ x'.vote.firstId = min x.vote.firstId v.firstId
        ∧ x'.vote.cause = (if v.firstId < x.vote.firstId then v.cause else x.vote.cause) ∧ t.mem = s.mem)

/-- The vote is complete (R35): severity CLEAN records HEM, REPLAY discards the step, STOP stops it; no descriptor memory is
touched by the recording itself of a failure. A vote that times out leaves its step UNRESOLVED (R37); a seal stops it from
taking cells (R38); a resolution decides an UNRESOLVED step, and one against a recorded outcome of the other kind changes no
step (R39, R40). -/
def Obligations.VotesAreDecided : Prop :=
  (∀ (s : State) (step : BitVec 48) (x : StepRec), findStep s step.toNat = some x → voteDone s x = true → s.cmpUp = true →
     (x.vote.sev = 0 →
       ∃ t x', exec (.voteComplete step) s = .next t ∧ findStep t step.toNat = some x' ∧ x'.st = .hemming
         ∧ rf t F.STEPSTAT_LAST_HEM_STEP = step.toNat ∧ rf t F.STEPSTAT_LAST_HEM_VALID = 1
         ∧ rf t F.STEPSTAT_VOTE_OUTCOME = 1 ∧ t.winHold = true ∧ t.outcomes = (step.toNat, x.epoch, 1) :: s.outcomes) ∧
     (x.vote.sev = 1 →
       ∃ t x', exec (.voteComplete step) s = .next t ∧ findStep t step.toNat = some x' ∧ x'.st = .discarding
         ∧ rf t F.STEPSTAT_VOTE_OUTCOME = 2 ∧ (step.toNat, x.epoch, 2) ∈ t.outcomes ∧ t.mem = s.mem) ∧
     (x.vote.sev = 2 →
       ∃ t x', exec (.voteComplete step) s = .next t ∧ findStep t step.toNat = some x' ∧ x'.st = .stopped
         ∧ rf t F.STEPSTAT_VOTE_OUTCOME = 3 ∧ (step.toNat, x.epoch, 2) ∈ t.outcomes ∧ t.mem = s.mem)) ∧
  (∀ (s : State),
     (∀ (step : BitVec 48) (x : StepRec), findStep s step.toNat = some x → x.st = .voting →
       ∃ t x', exec (.voteTimeout step) s = .next t ∧ findStep t step.toNat = some x' ∧ x'.st = .unresolved
         ∧ x'.vote = x.vote ∧ t.mem = s.mem) ∧
     (∀ (r : DescRef) (d : Desc) (x : StepRec), findDesc s r.ctx.val 0 r.cnt.toNat = some d → dClass d = 5 → dOp d = 3 →
       d.run = .fetched → s.cmpUp = true →
       s.steps.find? (fun y => y.num == bitsOf (dWord d 1) 0 48 && y.epoch == bitsOf (dWord d 2) 0 32) = some x →
       findStep s x.num = some x →
       ∃ t x', exec (.voteSeal r) s = .next t ∧ Gone s t d ∧ findStep t x.num = some x' ∧ x'.sealed = true ∧ x'.early = []
         ∧ x'.st = x.st ∧ rf t F.STEPSTAT_VOTE_DROPS = (rf s F.STEPSTAT_VOTE_DROPS + x.early.length) % 2 ^ 64) ∧
     (∀ (r : DescRef) (d : Desc) (x : StepRec), findDesc s r.ctx.val 0 r.cnt.toNat = some d → dClass d = 5 → dOp d = 4 →
       d.run = .fetched → s.cmpUp = true →
       s.steps.find? (fun y => y.num == bitsOf (dWord d 1) 0 48 && y.epoch == bitsOf (dWord d 2) 0 32) = some x →
       findStep s x.num = some x → x.st = .unresolved → outcomeOf s x.num x.epoch = 0 →
       ∃ t x', exec (.voteResolve r) s = .next t ∧ findDesc t r.ctx.val 0 r.cnt.toNat = none ∧ findStep t x.num = some x'
         ∧ x'.st = (if bitsOf (dWord d 2) 32 1 = 1 then .hemming else .discarding)) ∧
     (∀ (r : DescRef) (d : Desc), findDesc s r.ctx.val 0 r.cnt.toNat = some d → dClass d = 5 → dOp d = 4 → d.run = .fetched →
       s.cmpUp = true →
       (outcomeOf s (bitsOf (dWord d 1) 0 48) (bitsOf (dWord d 2) 0 32), bitsOf (dWord d 2) 32 1) ∈ [(1, 0), (2, 1)] →
       ∃ t, exec (.voteResolve r) s = .next t ∧ Gone s t d ∧ t.steps = s.steps))

/-- VOTE_RESOLVE with outcome FAIL at a device that has recorded HEM for the step and epoch (R40): it is refused with a
REFUSED notice of cause VOTE_CONFLICT, written to the notice slot when one is owned and the slots do not overlap, and held
otherwise; no step, outcome, update or state of the device changes. -/
def Obligations.VoteConflictIsRefused : Prop :=
  ∀ (s : State) (r : DescRef) (d : Desc), findDesc s r.ctx.val 0 r.cnt.toNat = some d → dClass d = 5 → dOp d = 4 →
    d.run = .fetched → s.cmpUp = true → outcomeOf s (bitsOf (dWord d 1) 0 48) (bitsOf (dWord d 2) 0 32) = 1 →
    bitsOf (dWord d 2) 32 1 = 0 →
    let c := r.ctx.val
    let b := slotAddr s c 0 r.cnt.toNat
    let conflict := fun (w : Word) => bitsOf w.toNat 52 8 = 1 ∧ bitsOf w.toNat 40 8 = 0x04
    ∃ t, exec (.voteResolve r) s = .next t ∧ Gone s t d ∧ t.steps = s.steps ∧ t.outcomes = s.outcomes ∧ t.upds = s.upds
      ∧ t.mem = s.mem ∧ t.syn = s.syn ∧ t.groups = s.groups ∧ t.kept = s.kept ∧ t.ctrs = s.ctrs ∧ t.winHold = s.winHold
      ∧ rdReg t R.STEPSTAT_LAST_HEM = rdReg s R.STEPSTAT_LAST_HEM
      ∧ (ctxRt t c).seq = ((ctxRt s c).seq + 1) % 2 ^ 24
      ∧ (linkServes s = false → (ctxRt s c).held.length < 64 →
          ∃ w, (ctxRt t c).held = (ctxRt s c).held ++ [w] ∧ conflict (w.words.getD 0 0))
      ∧ (∀ a, noticeSlot s c = some a → (ctxRt s c).held = [] → a + 64 ≤ 2 ^ 64 → b + 64 ≤ 2 ^ 64 → (a + 64 ≤ b ∨ b + 64 ≤ a) →
          (ctxRt t c).held = [] ∧ conflict (hostWord t a))

/-- A step hems or ends. OWN_UPDATE_COMPLETE (R41, R46): the update of the oldest recorded step ends; the step is no longer live, its
kept packets go, and held window reads are released, with the duration of the hold shown; another update that waits holds reads
again. Stated for an update that has begun and whose Seam send has left, with nothing held back, every stored word clean and every block readable. Of a single
group of at most 16,384 elements with an unblocked W8, no two parts of which overlap, every element then holds what the optimiser
makes of it and of its gradient (R90, R128), where no press copy was called for. STEP_DISCARD_COMPLETE (R50): a step that was being
discarded is no longer live and counts as discarded; none of its descriptors is in flight, and every counter of its bank is 0. -/
def Obligations.StepsEnd : Prop :=
  (∀ (s : State) (step : BitVec 48) (u : UpdateRec) (us : List UpdateRec),
     s.upds = u :: us → u.step = step.toNat → u.begun = true → u.sent = true → s.ownBad = false → fillRuns s = false → pressRuns s = false →
     tripped s = false → s.memUp = true → s.cmpUp = true → NoUpset s → s.winHold = true →
     (∀ b ∈ updateBlocks u.records, accessHeld s .update (byteRun ((b.1.getD 16 0).toNat + 2 * b.2.1) (2 * b.2.2)
       ++ blockReads (ownAddr s) (groupOf b.1) b.2.1 b.2.2) = false) →
     ∃ t, exec (.ownUpdateComplete step) s = .next t
       ∧ findStep t step.toNat = none ∧ t.kept = s.kept.filter (fun k => k.step != step.toNat)
       ∧ t.heldReads = [] ∧ t.winHold = (us != []) ∧ t.upds.length = us.length
       ∧ rf t F.STEPSTAT_HOLD_NS_LAST = (nowNs s - s.holdSince) % 2 ^ 32
       ∧ ∀ ws g, u.records = [ws] → g = groupOf ws → u.progress = 0 → u.press = false → g.count ≤ 16384 →
           fmtBlocked ((fmtOfCode g.w8fmt).getD .fp8E4M3) = false → GroupApart g g.count →
           (∀ x ∈ groupParts g g.count, x.1 + x.2 ≤ ff s F.SEAM_STATE_SIZE_BYTES) →
           Updated s t (ownAddr s) g (fun i => fpDecode .bf16 (memNat s ((ws.getD 16 0).toNat + 2 * i) 2)) g.count) ∧
  (∀ (s : State) (step : BitVec 48) (x : StepRec), findStep s step.toNat = some x → (x.st = .discarding ∨ x.st = .stopped) →
     s.cmpUp = true →
     ∃ t, exec (.stepDiscardComplete step) s = .next t ∧ findStep t step.toNat = none ∧ step.toNat ∈ t.lastDisc
       ∧ (∀ e ∈ t.inflight, ¬ (e.ctx = stepCtx s ∧ e.step = some step.toNat))
       ∧ ∀ k, k < 256 → ctrGet t (stepCtx s * 512 + step.toNat % 2 * 256 + k) = 0)

/-- What never changes a verdict (R32): a reader that meets only correctable words, whichever it touches, finds nothing wrong
and leaves every step and every descriptor as it is; so does the scrub of a correctable word; so do the blocks, NAKs, marks
and time-outs of a link-level retry; so do a droop and its end; and so does every event of a change of operating point. -/
def Obligations.RecoverableEventsKeepTheVerdict : Prop :=
  ∀ (s : State),
    let kept := fun (t : State) => t.steps = s.steps ∧ t.inflight = s.inflight
    (∀ touch : Nat → Bool, (∀ w, touch w = true → tackClassify (synGet s w) ≠ .uncorrectable) →
      (checkWords touch s).2 = [] ∧ kept (checkWords touch s).1) ∧
    (tackClassify (synGet s s.scrubAt) ≠ .uncorrectable → ∃ t, exec .patrolScrub s = .next t ∧ kept t) ∧
    (∀ c : Instr,
      ((∃ port corrected fecOk tackOk ack more, c = .dataBlockReceive port corrected fecOk tackOk ack more)
        ∨ (∃ port ack, c = .nakReceive port ack) ∨ (∃ port, c = .ackTimeout port) ∨ (∃ port num ack, c = .markReceive port num ack)
        ∨ (∃ port, c = .nakRepeatTimeout port)
        ∨ c = .droopDetect ∨ (∃ n, c = .droopStretchEnd n) ∨ c = .droopQuietExpire
        ∨ (∃ k, c = .oppSelectionHeld k) ∨ c = .rampStep ∨ c = .vrSettleExpire ∨ c = .vrcFrameRepeat ∨ c = .sprintEnd
        ∨ ∃ root, c = .ctlclkSourceSelect root) →
      ∃ t, exec c s = .next t ∧ kept t)

/-! ### Data movers -/

/-- A MOVE starts (R85, R391): on a channel that is not halted, once the earlier descriptors of its ring have issued all
their bursts, its first burst is issued at once where the channel has fewer than four outstanding; no byte has moved yet. HOST_IN and
HOST_OUT need the host link: on a link with nothing else to serve the burst goes out at once, at the level of PRIO, and while the link
is busy it waits its turn (R392); LOCAL uses no link. Stated for a descriptor that has issued nothing, with MEM and HIF running. A bus
error halts a channel (R394): its error is latched unless an earlier one still is (R395), and the failing burst is the first to be
issued again; where the channel carries only HOST_IN, whose data a halt discards, no burst stays outstanding and no byte moves. RESUME
lets the channel go on and ABORT retires its descriptor (R395); an aged burst is marked (R392). -/
def Obligations.MovesIssueBurstsHaltAndResume : Prop :=
  (∀ (s : State) (r : DescRef) (op : Nat) (d : Desc), 1 ≤ op → op ≤ 3 → Starts s r.ctx.val 2 r.cnt.toNat 4 op d →
     rf s (F.DM_STAT_HALTED (dmChan s r.ctx.val)) ≠ 1 → (op ≠ 3 → linkUp s = true) → s.memUp = true → s.hifUp = true →
     (∀ e ∈ earlierOf s d, e.run = .finished ∨ issuedAll e = true) →
     d.dm = ⟨0, [], [], false, none, [], []⟩ → d.fails = [] → othersOut s d < 4 → 0 < mvLen d →
     (op = 1 → servedFromKeep s d = false) →
     (tagged s r.ctx.val = false ∨ (∃ x, stepOfTag s (dStag d) = some x ∧ d.step = some x.num)) →
     ∃ t d', exec (match op with | 1 => .hostIn r | 2 => .hostOut r | _ => .moveLocal r) s = .next t
       ∧ t = { s with inflight := t.inflight, out := t.out, side := t.side, steps := t.steps, linkAt := t.linkAt }
       ∧ (Untainted s → t.steps = s.steps)
       ∧ findDesc t r.ctx.val 2 r.cnt.toNat = some d' ∧ d'.run = .running ∧ d'.words = d.words
       ∧ d'.dm.outst.head? = some (0, burstLen s d 0) ∧ d'.dm.outst.length + othersOut s d ≤ 4
       ∧ (linkBusy s = true → t.out = s.out)
       ∧ (linkBusy s = false → (∀ e ∈ s.inflight, waitBursts e = []) →
           t.out = s.out ++ (if op = 3 then []
             else [.burst (dmChan s r.ctx.val) 0 (burstLen s d 0) (bitsOf (dWord d 3) 40 2) (op == 2)]))) ∧
  (∀ (s : State) (chan : Fin 64),
     (∀ (off : BitVec 40) (kind : BusError) (d : Desc) (len : Nat), burstOwner s chan.val off.toNat = some (d, len) →
       dOp d ≠ 3 → (∀ e ∈ chanMoves s chan.val, findDesc s e.ctx 2 e.cnt = some e) →
       ∃ t d', exec (.dmHalt chan off kind) s = .next t ∧ rf t (F.DM_STAT_HALTED chan.val) = 1
         ∧ rf t (F.DM_STAT_HALT_ERR chan.val) = 1
         ∧ (rf s (F.DM_STAT_HALT_ERR chan.val) = 0 → rf t (F.DM_STAT_ERR_KIND chan.val) = busErrorCode kind
             ∧ rf t (F.DM_STAT_ERR_DIR chan.val) = (if dOp d = 2 then 1 else 0))
         ∧ (rf s (F.DM_STAT_HALT_ERR chan.val) = 1 →
             rf t (F.DM_STAT_ERR_KIND chan.val) = rf s (F.DM_STAT_ERR_KIND chan.val)
             ∧ rf t (F.DM_STAT_ERR_DIR chan.val) = rf s (F.DM_STAT_ERR_DIR chan.val)
             ∧ rf t (F.DM_ERR_HADDR chan.val) = rf s (F.DM_ERR_HADDR chan.val))
         ∧ findDesc t d.ctx d.ring d.cnt = some d' ∧ d'.dm.stopped = true ∧ d'.dm.redo.head? = some (off.toNat, len)
         ∧ t.ctrs = s.ctrs
         ∧ ((∀ e ∈ chanMoves s chan.val, dOp e = 1) → t.mem = s.mem ∧ ∀ e ∈ chanMoves t chan.val, e.dm.outst = [])) ∧
     (∀ d, haltedOf s chan.val = some d → HostReaches s →
       ∃ t d', exec (.dmResume chan) s = .next t ∧ rf t (F.DM_STAT_HALTED chan.val) = 0
         ∧ findDesc t d.ctx d.ring d.cnt = some d' ∧ d'.dm.stopped = false ∧ t.mem = s.mem ∧ t.host = s.host) ∧
     (∀ d, haltedOf s chan.val = some d → HostReaches s →
       ∃ t, exec (.dmAbort chan) s = .next t ∧ rf t (F.DM_STAT_HALTED chan.val) = 0
         ∧ findDesc t d.ctx d.ring d.cnt = none ∧ t.mem = s.mem ∧ t.ctrs = s.ctrs) ∧
     (∀ (off : BitVec 40) (d : Desc) (len : Nat), burstOwner s chan.val off.toNat = some (d, len) →
       ∃ t d', exec (.dmBurstAged chan off) s = .next t ∧ t = { s with inflight := t.inflight }
         ∧ findDesc t d.ctx d.ring d.cnt = some d' ∧ d'.dm.aged = d.dm.aged ++ [off.toNat] ∧ d'.dm.outst = d.dm.outst))

/-- A burst that completes moves its bytes (R85, R391), with no Tack error anywhere and no bad word met before: HOST_IN from host
to device memory, HOST_OUT from device to host memory, LOCAL within device memory, each byte to its own place and no other byte
changed; the bytes are counted for the channel. A destination word in device memory that the MOVE covers whole is written once, with
the burst that holds its first byte (R216, R518): `x` is the part of the MOVE that is written then. Stated for a HOST_IN whose bytes
are not also kept as a step input (R25), for bursts of at most 4 KiB, and for accesses that do not wait at the controllers. -/
def Obligations.BurstMovesItsBytes : Prop :=
  ∀ (s : State) (chan : Fin 64) (off : BitVec 40) (d : Desc) (len : Nat),
    burstOwner s chan.val off.toNat = some (d, len) → findDesc s d.ctx 2 d.cnt = some d →
    len ≤ 4096 → NoUpset s → d.dm.badAt = none →
    burstHeld s d off.toNat len = false →
    let x := burstSpan s d off.toNat len
    let dev := mvDev s d + x.1
    let counted := fun (t : State) => rf t (F.DM_BYTES chan.val) = (rf s (F.DM_BYTES chan.val) + len) % 2 ^ 64
    (dOp d = 1 → d.step = none →
      ∃ t, exec (.dmBurstComplete chan off) s = .next t ∧ t.host = s.host ∧ NoUpset t ∧ counted t
        ∧ (∀ i, i < x.2 → memGet t (dev + i) = hostGet s (dWord d 1 + x.1 + i))
        ∧ ∀ a, (a < dev ∨ dev + x.2 ≤ a) → memGet t a = memGet s a) ∧
    (dOp d = 2 → linkUp s = true →
      let host := dWord d 1 + off.toNat
      ∃ t, exec (.dmBurstComplete chan off) s = .next t ∧ t.mem = s.mem ∧ NoUpset t ∧ counted t
        ∧ (∀ i, i < len → hostGet t (host + i) = memGet s (mvDev s d + off.toNat + i))
        ∧ ∀ a, (∀ i, i < len → a % 2 ^ 64 ≠ (host + i) % 2 ^ 64) → hostGet t a = hostGet s a) ∧
    (dOp d = 3 →
      ∃ t, exec (.dmBurstComplete chan off) s = .next t ∧ t.host = s.host ∧ NoUpset t ∧ counted t
        ∧ (∀ i, i < x.2 → memGet t (dev + i) = memGet s (mvSrc s d + x.1 + i))
        ∧ ∀ a, (a < dev ∨ dev + x.2 ≤ a) → memGet t a = memGet s a)

/-! ### Collectives and pipeline transfers -/

/-- A reduction, gather or broadcast that starts (R308, R310, R312, R316) opens a stream in each direction of every axis on which
something travels; READY leaves to every neighbour that it receives from, where this device has an identity; and it runs until it
has finished. With no Tack error anywhere and without compression, device memory is untouched while it runs. On one axis, with no
READY held yet, what waits to leave is the rule's first part: in a reduction the half-shard of the next rank against each
direction's flow, in a gather of whole blocks (R516) the device's own halves; at the root of a broadcast both halves on every axis, and elsewhere nothing.
A SEND for which no READY is held stays running and sends nothing; with a READY held for at least its bytes it sends them all and
finishes, and along Z its VERIFY is then due (R284, R325, R326). A RECV of at least one byte, outside a replay, stays running for its
bytes, and its READY is on its way (R325). -/
def Obligations.CollectivesStart : Prop :=
  (∀ (s : State) (r : DescRef) (op : Nat) (d : Desc), 1 ≤ op → op ≤ 4 → Starts s r.ctx.val 1 r.cnt.toNat 3 op d →
     ceFree s d = true → (piecesOf s d).isSome = true → collHeld s d = false → NoUpset s → cComp d = 0 →
     ∃ t d', exec (match op with | 1 => .allreduce r | 2 => .reduceScatter r | 3 => .allgather r | _ => .broadcast r) s = .next t
       ∧ findDesc t r.ctx.val 1 r.cnt.toNat = some d' ∧ (d'.run = .running ∨ d'.run = .finished) ∧ d'.words = d.words
       ∧ d'.coll.streams.map (fun x => (x.axis, x.dirn)) = allDirs s d
       ∧ NoUpset t ∧ (d'.run = .running → t.mem = s.mem)
       ∧ (assigned s = true → ∀ p ∈ allDirs s d, (op = 4 → bcastAxis s d = some p.1) →
           Announced t (flowFrom s p.1 p.2) 1 false p.2 p.1 (transferId d) (dStag d))) ∧
  (∀ (s : State) (r : DescRef) (op : Nat) (d : Desc) (a : Nat), 1 ≤ op → op ≤ 3 → Starts s r.ctx.val 1 r.cnt.toNat 3 op d →
     ceFree s d = true → collHeld s d = false → NoUpset s → cComp d = 0 → liveAxes s d = [a] →
     (∀ x ∈ s.readys, ¬ (x.p2p = false ∧ x.tag = transferId d ∧ x.stag = dStag d)) →
     let S := tensorEntry s d.ctx (cSrc d)
     let base := tBase s S (dStag d)
     (op = 3 → (rawRead s S base 0 (cCount d)).length = packedBytes S (cCount d)) →
     let n := axisSize s a
     let x := myCoord s a
     let vec := (List.range (cCount d)).map (fun i => (elemGet s [] S base i).getD fvZero)
     let first := fun dirn => if op = 3 then byteHalf (rawRead s S base 0 (cCount d)) dirn
       else (shardHalf vec n (if dirn = 1 then (x + n - 1) % n else (x + 1) % n) dirn).flatMap (partBytes (wideInt s d))
     first 1 ≠ [] →
     ∃ t d', exec (match op with | 1 => .allreduce r | 2 => .reduceScatter r | _ => .allgather r) s = .next t
       ∧ findDesc t r.ctx.val 1 r.cnt.toNat = some d' ∧ d'.run = .running ∧ t.mem = s.mem
       ∧ ∀ dirn ∈ [0, 1], (streamOf d' a dirn).out = (if first dirn = [] then [] else [(0, pad8 (first dirn))])
           ∧ (streamOf d' a dirn).sent = 0) ∧
  (∀ (s : State) (r : DescRef) (d : Desc), Starts s r.ctx.val 1 r.cnt.toNat 3 4 d → ceFree s d = true →
     collHeld s d = false → NoUpset s → (∀ x ∈ s.readys, ¬ (x.p2p = false ∧ x.tag = transferId d ∧ x.stag = dStag d)) →
     let S := tensorEntry s d.ctx (cSrc d)
     let own := rawRead s S (tBase s S (dStag d)) 0 (cCount d)
     ((bcastAxis s d = none ∧ liveAxes s d ≠ [] ∧ own ≠ []) →
       ∃ t d', exec (.broadcast r) s = .next t ∧ findDesc t r.ctx.val 1 r.cnt.toNat = some d' ∧ d'.run = .running
         ∧ t.mem = s.mem ∧ d'.coll.own = own
         ∧ ∀ a ∈ liveAxes s d, ∀ dirn ∈ [0, 1], (streamOf d' a dirn).out
             = (if byteHalf own dirn = [] then [] else [(0, pad8 (byteHalf own dirn))])) ∧
     ((bcastAxis s d ≠ none ∧ 0 < packedBytes (tensorEntry s d.ctx (cDst d)) (cCount d)) →
       ∃ t d', exec (.broadcast r) s = .next t ∧ findDesc t r.ctx.val 1 r.cnt.toNat = some d' ∧ d'.run = .running
         ∧ t.mem = s.mem ∧ ∀ x ∈ d'.coll.streams, x.out = [])) ∧
  (∀ (s : State) (r : DescRef) (d : Desc), ceFree s d = true → collHeld s d = false → NoUpset s →
     let S := tensorEntry s d.ctx (cSrc d)
     let own := rawRead s S (tBase s S (dStag d)) 0 (cCount d)
     (Starts s r.ctx.val 1 r.cnt.toNat 3 5 d → d.coll.cap = none → s.readys.find? (readyOfSend s d) = none →
       ∃ t d', exec (.send r) s = .next t ∧ t.out = s.out ∧ t.mem = s.mem ∧ t.host = s.host ∧ t.sends = s.sends
         ∧ RegsKept s t accessRegs
         ∧ findDesc t r.ctx.val 1 r.cnt.toNat = some d' ∧ d'.run = .running ∧ d'.coll.own = own) ∧
     (∀ x, Starts s r.ctx.val 1 r.cnt.toNat 3 5 d → d.fails = [] → s.readys.find? (readyOfSend s d) = some x →
       own.length ≤ x.value →
       ∃ t d', exec (.send r) s = .next t ∧ findDesc t r.ctx.val 1 r.cnt.toNat = some d' ∧ d'.run = .finished
         ∧ d'.fails = [] ∧ t.mem = s.mem ∧ t.readys = s.readys.filter (fun y => !readyOfSend s d y)
         ∧ rf t (F.COLL_CE_BYTES (p2pAxis d)) = (rf s (F.COLL_CE_BYTES (p2pAxis d)) + own.length) % 2 ^ 64
         ∧ (assigned s = true → holdsNew s (cClass d) = false → SentAll s t d own)
         ∧ ∀ y, tagged s r.ctx.val = true → stepOfTag s (dStag d) = some y → y.taint = [] → findStep s y.num = some y →
             p2pAxis d = 2 → t.sends = s.sends ++ [⟨d.ctx, d.cnt, y.num, p2pDirn d, cTag d, own.length⟩]) ∧
     (Starts s r.ctx.val 1 r.cnt.toNat 3 6 d → 0 < packedBytes (tensorEntry s d.ctx (cDst d)) (cCount d) →
       (∀ x, stepOfTag s (dStag d) = some x → findStep s x.num = some x ∧ x.replay = false) → tagged s r.ctx.val = true →
       ∃ t d', exec (.recv r) s = .next t ∧ findDesc t r.ctx.val 1 r.cnt.toNat = some d' ∧ d'.run = .running
         ∧ t.mem = s.mem ∧ t.host = s.host
         ∧ (assigned s = true → Announced t (p2pPeer s d) 1 true (p2pDirn d) (p2pAxis d) (cTag d) (dStag d))))

/-- A READY with a SEND's tag lets it go (R325, R326): a SEND that waits, without a failure and no longer than the capacity
announced, sends all its bytes and finishes; along Z its VERIFY is then due, unless an unclean range feeds it (R26, R284). A READY or
GRANT for which no descriptor runs, and that does not belong to one that has ended, is held, up to 256 for a neighbour and
direction, and counted as dropped beyond (R316). VERIFY (R284): one whose step is not live is dropped at once; one whose step is
live and whose kept packets do not cover its bytes yet is held, up to 256 for a neighbour and direction; one that its kept packets
cover marks them VERIFIED (R26); and the VERIFY of a SEND whose packets have all been sent leaves once and is then no longer due. -/
def Obligations.ReadiesAndVerifies : Prop :=
  (∀ (s : State) (p : Packet) (d : Desc), consumerUp s 7 = true →
     (readyOf p).kind = 1 → (readyOf p).p2p = true → readyFor s (readyOf p) = some d → d.fails = [] →
     d.coll.own.length ≤ (readyOf p).value → fenceSays s p.src.toNat p.tclass.toNat = .take →
     ∃ t d', exec (.announceReceive false p) s = .next t ∧ findDesc t d.ctx d.ring d.cnt = some d' ∧ d'.run = .finished
       ∧ d'.fails = [] ∧ t.mem = s.mem
       ∧ (assigned s = true → holdsNew s (cClass d) = false → SentAll s t d d.coll.own)
       ∧ ∀ n, d.step = some n → p2pAxis d = 2 → sendTainted s d = false →
           t.sends = s.sends ++ [⟨d.ctx, d.cnt, n, p2pDirn d, cTag d, d.coll.own.length⟩]) ∧
  (∀ (s : State) (p : Packet), consumerUp s 7 = true →
     let r := readyOf p
     (r.kind = 1 ∨ r.kind = 2) → readyFor s r = none → readyEnded s r = false →
     fenceSays s p.src.toNat p.tclass.toNat = .take →
     let held := (s.readys.filter (fun x => x.src == r.src && x.dirn == r.dirn)).length
     (held < 256 →
       ∃ t, exec (.announceReceive false p) s = .next t ∧ t = { s with readys := t.readys } ∧ t.readys = s.readys ++ [r]) ∧
     (256 ≤ held →
       ∃ t, exec (.announceReceive false p) s = .next t ∧ t = { s with regs := t.regs } ∧ RegsKept s t [R.COLL_READY_DROP]
         ∧ rf t F.COLL_READY_DROP = (rf s F.COLL_READY_DROP + 1) % 2 ^ 64)) ∧
  (∀ (s : State),
     (∀ (src : BitVec 14) (step : BitVec 48) (plus : Bool) (tag : BitVec 32) (bytes : BitVec 36), consumerUp s 6 = true →
       let v : HeldVerify := ⟨step.toNat, tag.toNat, plus.toNat, src.toNat, bytes.toNat⟩
       (findStep s step.toNat = none → exec (.verifyReceive src step plus false tag bytes) s = .next s) ∧
       (∀ x, findStep s step.toNat = some x → (s.verifies ++ [v]).all (fun y => !verifyCovered s y) = true →
         (s.verifies.filter (fun y => y.src == src.toNat && y.dirn == plus.toNat)).length < 256 →
         ∃ t, exec (.verifyReceive src step plus false tag bytes) s = .next t ∧ t = { s with verifies := t.verifies, kept := t.kept }
           ∧ t.verifies = s.verifies ++ [v] ∧ t.kept = s.kept) ∧
       (∀ x, findStep s step.toNat = some x → verifyCovered s v = true →
         ∃ t, exec (.verifyReceive src step plus false tag bytes) s = .next t ∧ t = { s with verifies := t.verifies, kept := t.kept }
           ∧ v ∉ t.verifies ∧ ∀ k ∈ keptOf s v, { k with verified := true } ∈ t.kept) ∧
       (∀ x, findStep s step.toNat = some x → verifyCovered s v = false →
         256 ≤ (s.verifies.filter (fun y => y.src == src.toNat && y.dirn == plus.toNat)).length →
         ∃ t, exec (.verifyReceive src step plus false tag bytes) s = .next t ∧ t = { s with regs := t.regs }
           ∧ RegsKept s t [R.COLL_READY_DROP] ∧ rf t F.COLL_READY_DROP = (rf s F.COLL_READY_DROP + 1) % 2 ^ 64)) ∧
     (∀ (r : DescRef) (x : SentSend), s.sends.find? (fun x => x.ctx == r.ctx.val && x.cnt == r.cnt.toNat) = some x →
       sendWaits s x = false →
       ∃ t, exec (.verifySend r) s = .next t ∧ t.sends = s.sends.filter (· != x) ∧ t.mem = s.mem ∧ t.steps = s.steps
         ∧ (assigned s = true → ∃ q : Packet, OutMsg.pkt q ∈ t.out ∧ q.typ = 6#4
             ∧ q.dst = BitVec.ofNat 14 (neighbour s 2 (x.dirn == 1)) ∧ q.payload.take 24
               = leBytes (x.step + x.dirn * 2 ^ 48) 8 ++ leBytes x.tag 8 ++ leBytes x.bytes 8)))

/-- A COLL packet joins the stream of its running collective (R310, R315, R316), which finishes when every stage is done and
everything has been sent, and only then writes DST; one whose cells fail their check, or an aborted one, fails it and is counted
(R237, R285). Behind a fence (R317): before the neighbour's fence of this device's own discard a packet of the step context is dropped
and counted; after a fence that came before that discard it waits; and a fence ends one wait for it, or is recorded. A P2P packet
along an axis other than Z reaches its RECV (R326): it is not kept; while bytes are missing the RECV goes on and holds it, and device
memory is untouched; the last byte lets it write DST and finish. Along Z the packet of an OPEN step is kept, where the keep buffer has
room (R25) and the copy does not wait at the controllers. An aborted one is counted and fails its RECV (R285). -/
def Obligations.CollectivePacketsAndFences : Prop :=
  (∀ (s : State) (axis : Fin 4) (plus bad : Bool) (p : Packet) (d : Desc), consumerUp s 8 = true → isFence p = false →
     collFor s p.tag.toNat = some d →
     ((p.typ = 9#4 ∨ p.tag.toNat % 64 = stepCtx s) → fenceSays s p.src.toNat p.tclass.toNat = .take) →
     let effect := fun (t : State) (d' : Desc) => findDesc t d.ctx d.ring d.cnt = some d' ∧ d'.words = d.words
       ∧ ((∃ x ∈ d.coll.streams, x.axis = axis.val ∧ x.dirn = plus.toNat) →
           (streamOf d' axis.val plus.toNat).got
             = (streamOf d axis.val plus.toNat).got + (p.payload.length + 7) / 8 * 8)
       ∧ (dOp d ≤ 3 → (d'.run = .finished ↔ stagesDone t d' = true ∧ ∀ x ∈ d'.coll.streams, x.out = []))
       ∧ (NoUpset s → cComp d = 0 → multiSum s d = false → d'.run ≠ .finished → t.mem = s.mem)
     (∃ t d', exec (.collPacketReceive axis plus bad p) s = .next t ∧ effect t d'
       ∧ ((bad = true ∨ p.abort = true) → 0x11 ∈ d'.fails)
       ∧ rf t F.TACK_ENDPOINT_FAIL = (rf s F.TACK_ENDPOINT_FAIL + bad.toNat) % 2 ^ 64
       ∧ rf t F.ROUTE_CUT_PKTS = (rf s F.ROUTE_CUT_PKTS + p.abort.toNat) % 2 ^ 64) ∧
     (p.typ = 8#4 → ∀ elem total, ∃ t d', exec (.abortedPacketReceive axis plus elem total p) s = .next t ∧ effect t d'
       ∧ 0x11 ∈ d'.fails ∧ rf t F.ROUTE_CUT_PKTS = (rf s F.ROUTE_CUT_PKTS + 1) % 2 ^ 64)) ∧
  (∀ (s : State) (axis : Fin 4) (plus : Bool) (elem total : BitVec 40) (p : Packet), consumerUp s 9 = true → p.typ = 9#4 →
     let f := (p.src.toNat, p.tclass.toNat)
     ((isFence p = false ∧ p.abort = false ∧ f ∈ s.fenceNeed) →
       ∃ t, exec (.p2pPacketReceive axis plus false elem total p) s = .next t ∧ t = { s with regs := t.regs }
         ∧ RegsKept s t [R.COLL_FENCE_DROP] ∧ rf t F.COLL_FENCE_DROP = (rf s F.COLL_FENCE_DROP + 1) % 2 ^ 64) ∧
     ((isFence p = false ∧ p.abort = false ∧ f ∉ s.fenceNeed ∧ f ∈ s.fenceGot) →
       ∃ t, exec (.p2pPacketReceive axis plus false elem total p) s = .next t ∧ t = { s with fenceQ := t.fenceQ }
         ∧ t.fenceQ = s.fenceQ ++ [⟨axis.val, plus, false, elem.toNat, total.toNat, p, s.fenceGot.count f⟩]) ∧
     ((isFence p = true ∧ f ∈ s.fenceNeed) →
       exec (.p2pPacketReceive axis plus false elem total p) s = .next { s with fenceNeed := s.fenceNeed.erase f }) ∧
     ((isFence p = true ∧ f ∉ s.fenceNeed) →
       exec (.p2pPacketReceive axis plus false elem total p) s = .next { s with fenceGot := s.fenceGot ++ [f] })) ∧
  (∀ (s : State) (axis : Fin 4) (plus : Bool) (elem total : BitVec 40) (p : Packet) (x : StepRec) (d : Desc),
     consumerUp s 9 = true → p.typ = 9#4 → isFence p = false → axis.val ≠ 2 →
     fenceSays s p.src.toNat p.tclass.toNat = .take → stepOfTag s p.stag.toNat = some x →
     recvFor s ⟨axis.val, plus, false, elem.toNat, total.toNat, p, 0⟩ = some d →
     (p.abort = false → d.coll.recvd + p.payload.length < total.toNat →
       ∃ t d', exec (.p2pPacketReceive axis plus false elem total p) s = .next t ∧ t.kept = s.kept ∧ t.mem = s.mem
         ∧ findDesc t d.ctx d.ring d.cnt = some d' ∧ d'.run = .running
         ∧ d'.coll.recvd = d.coll.recvd + p.payload.length
         ∧ d'.coll.parts = d.coll.parts ++ [(8 * p.offset.toNat, 0, p.payload)] ∧ d'.fails = d.fails) ∧
     (p.abort = false → NoUpset s → d.fails = [] → d.coll.parts = [] → d.coll.recvd = 0 →
       p.payload.length = total.toNat → elem = total →
       let D := tensorEntry s d.ctx (cDst d)
       let base := tBase s D (dStag d)
       tFmt D = .int8 → D.layout = 0 → D.rank = 0 → total.toNat ≤ cCount d → cCount d ≤ tCount D →
       ∃ t d', exec (.p2pPacketReceive axis plus false elem total p) s = .next t ∧ t.kept = s.kept
         ∧ findDesc t d.ctx d.ring d.cnt = some d' ∧ d'.run = .finished ∧ d'.fails = []
         ∧ (∀ i, i < total.toNat → memGet t (base + i) = p.payload.getD i 0)
         ∧ ∀ a, (a < base ∨ base + total.toNat ≤ a) → memGet t a = memGet s a) ∧
     (d.coll.recvd + p.payload.length < total.toNat →
       ∃ t d', exec (.abortedPacketReceive axis plus elem total p) s = .next t ∧ t.kept = s.kept ∧ t.mem = s.mem
         ∧ findDesc t d.ctx d.ring d.cnt = some d' ∧ 0x11 ∈ d'.fails
         ∧ rf t F.ROUTE_CUT_PKTS = (rf s F.ROUTE_CUT_PKTS + 1) % 2 ^ 64)) ∧
  (∀ (s : State) (plus : Bool) (elem total : BitVec 40) (p : Packet) (x : StepRec) (a : Nat),
     let w : Waiting := ⟨2, plus, false, elem.toNat, total.toNat, p, 0⟩
     consumerUp s 9 = true → p.typ = 9#4 → isFence p = false → p.abort = false → NoUpset s →
     fenceSays s p.src.toNat p.tclass.toNat = .take → stepOfTag s p.stag.toNat = some x → findStep s x.num = some x →
     p2pHeld s w = false → x.st = .opened → x.keepOver = false → s.kept.find? (sameKept (keptOfPkt x.num w)) = none → recvFor s w = none →
     s.verifies = [] → x.keepBytes + p.payload.length ≤ x.budget * 2 ^ 20 → keepPlace s p.payload.length = some a →
     ∃ t, exec (.p2pPacketReceive 2 plus false elem total p) s = .next t
       ∧ t.kept = s.kept ++ [{ keptOfPkt x.num w with addr := a }] ∧ memRead t a p.payload.length = p.payload
       ∧ ∀ b, (b < a ∨ a + p.payload.length ≤ b) → memGet t b = memGet s b)

/-! ### The fabric -/

/-- A head cell of a routed packet that arrives on an ACTIVE port (R283, R293, R297). On a port in MATCH a packet for this device is
consumed and counted for its epoch bit, unless it is of a Seam stream that waits to be taken (R351), or of the step context behind
its sender's fence (R317): that one keeps its cells in the receive buffer and is not counted yet; one whose table entry names no port is dropped, counted and consumed. On a quarantined
port every one is dropped, counted and consumed. One for another device, with an entry that names a port in MATCH, stays whole
with its TTL one less, in a channel of its class: it waits in that port's queue, or has left in a block that stands in a retry
buffer. -/
def Obligations.HeadCellIsConsumedDroppedOrSentOn : Prop :=
  ∀ (s : State) (port : Fin 12) (vc : Fin 8) (more : Fin 4) (p : Packet), portState s port.val = 6 →
    classOk p.typ.toNat p.tclass.toNat = true → 4 ≤ p.typ.toNat →
    let e := p.epochBit.toNat
    let cons : Fld := if p.epochBit = 0 then F.ROUTE_CONS0 else F.ROUTE_CONS1
    let entry := tableEntry s e p.dst.toNat
    let match_ := rf s (F.ROUTE_NBR_STATE port.val) = 1
    let drops := [R.ROUTE_CONS0, R.ROUTE_CONS1, R.ROUTE_NOROUTE, R.ROUTE_QUAR_DROP, R.ROUTE_DROP_FIRST]
    ((match_ ∧ p.dst.toNat = selfId s ∧ assigned s = true ∧ consumerUp s p.typ.toNat = true) →
      ∃ t, exec (.headCellRoute port vc more none p) s = .next t
        ∧ t = { s with regs := t.regs, ports := t.ports, vcs := t.vcs, out := t.out, bondSeq := t.bondSeq,
                       fenceHeld := t.fenceHeld, seamHeld := t.seamHeld }
        ∧ RegsKept s t [cons.reg]
        ∧ (waitsSeam s p = false → t.seamHeld = s.seamHeld)
        ∧ (waitsFence s p = false → t.fenceHeld = s.fenceHeld)
        ∧ (waitsSeam s p = false → waitsFence s p = false → rf t cons = (rf s cons + 1) % 2 ^ 64)
        ∧ (waitsFence s p = true → rf t cons = rf s cons ∧ t.fenceHeld = s.fenceHeld ++
            [⟨carrier s port.val, vc.val, min (min (more.val + 1) (pktCells p)) (pktCells p),
              fencesAhead s p.src.toNat p.tclass.toNat, some p.epochBit⟩])
        ∧ (waitsSeam s p = true → rf t cons = rf s cons ∧ t.seamHeld = s.seamHeld ++
            [⟨carrier s port.val, vc.val, min (min (more.val + 1) (pktCells p)) (pktCells p), p.epochBit⟩])) ∧
    ((match_ ∧ ¬ (p.dst.toNat = selfId s ∧ assigned s = true) ∧ p.ttl ≠ 0
        ∧ (tableState s e = 0 ∨ 12 ≤ entry % 16)) →
      ∃ t, exec (.headCellRoute port vc more none p) s = .next t
        ∧ t = { s with regs := t.regs, ports := t.ports, vcs := t.vcs, out := t.out, bondSeq := t.bondSeq }
        ∧ RegsKept s t drops ∧ rf t cons = (rf s cons + 1) % 2 ^ 64
        ∧ rf t F.ROUTE_NOROUTE = (rf s F.ROUTE_NOROUTE + 1) % 2 ^ 64 ∧ rf t F.ROUTE_QUAR_DROP = rf s F.ROUTE_QUAR_DROP
        ∧ (rf s F.ROUTE_DROP_FIRST_VALID = 0 → rf t F.ROUTE_DROP_FIRST_DST = p.dst.toNat ∧ rf t F.ROUTE_DROP_FIRST_CAUSE = 0)
        ∧ rf t F.ROUTE_DROP_FIRST_VALID = 1) ∧
    (quarantined s port.val = true →
      ∃ t, exec (.headCellRoute port vc more none p) s = .next t
        ∧ t = { s with regs := t.regs, ports := t.ports, vcs := t.vcs, out := t.out, bondSeq := t.bondSeq }
        ∧ RegsKept s t drops ∧ rf t cons = (rf s cons + 1) % 2 ^ 64
        ∧ rf t F.ROUTE_QUAR_DROP = (rf s F.ROUTE_QUAR_DROP + 1) % 2 ^ 64 ∧ rf t F.ROUTE_NOROUTE = rf s F.ROUTE_NOROUTE) ∧
    ((match_ ∧ ¬ (p.dst.toNat = selfId s ∧ assigned s = true) ∧ p.ttl ≠ 0 ∧ tableState s e ≠ 0
        ∧ entry % 16 < 12 ∧ quarantined s (entry % 16) = false ∧ portState s (carrier s (entry % 16)) = 6
        ∧ rf s (F.ROUTE_NBR_STATE (carrier s (entry % 16))) = 1) →
      ∃ t, exec (.headCellRoute port vc more none p) s = .next t
        ∧ t = { s with ports := t.ports, vcs := t.vcs, out := t.out, bondSeq := t.bondSeq }
        ∧ ((∃ v, v / 2 = p.tclass.toNat ∧ ∃ q ∈ (vcRt t (carrier s (entry % 16)) v).queue, q.pkt = { p with ttl := p.ttl - 1 })
            ∨ ∃ m lane num h cells, OutMsg.block m lane num (blockSymbols h (blockBody cells)) ∈ t.out ∧ (num, cells) ∈ (portRt t m).retry
                ∧ ∃ c ∈ cells, c.idx = 0 ∧ c.vc / 2 = p.tclass.toNat ∧ c.pkt = { p with ttl := p.ttl - 1 }))

/-- Credits (R288, R289). A CREDIT packet brings the sender's count of outstanding cells down by what the receiver has freed
since the last one, and its words become the last ones. The credit timer reports every count of cells freed in one CREDIT
packet. Both are stated while no cell waits at any port, on a port that its plan uses and that is not MISSING. Discovery (R301,
R302): a DISCOVER packet on an ACTIVE port records the peer's identity, assignment, port and epoch, and the port is classified
against its plan. Each second an ACTIVE port sends its own; stated while no other cell waits. -/
def Obligations.CreditsAndDiscovery : Prop :=
  (∀ (s : State) (port : Fin 12), Quiet s →
     let n := carrier s port.val
     (∀ lo hi stall : BitVec 64, portState s port.val = 6 → rf s (F.ROUTE_NBR_STATE port.val) ∉ [0, 4] →
       ∃ t, exec (.creditReceive port lo hi stall) s = .next t ∧ t = { s with regs := t.regs, vcs := t.vcs }
         ∧ RegsKept s t [R.ROUTE_CREDIT_STALL port.val]
         ∧ rf t (F.ROUTE_CREDIT_STALL port.val) = (rf s (F.ROUTE_CREDIT_STALL port.val) + stall.toNat) % 2 ^ 64
         ∧ ∀ v, v < 8 → vcRt t n v = { vcRt s n v with
             outst := (vcRt s n v).outst - (creditCount lo hi v + 65536 - (vcRt s n v).credited) % 65536,
             credited := creditCount lo hi v }) ∧
     (CanSend s n → rf s (F.ROUTE_NBR_STATE n) ∉ [0, 4] → (∃ v, v < 8 ∧ (vcRt s n v).freed ≠ (vcRt s n v).reported) →
       ∃ t, exec (.creditTimerExpire port) s = .next t ∧ t = { s with ports := t.ports, vcs := t.vcs, out := t.out }
         ∧ SentAlone s t n (localPkt s 1 (creditWords s n))
         ∧ ∀ v, v < 8 → vcRt t n v = { vcRt s n v with reported := (vcRt s n v).freed })) ∧
  (∀ (s : State) (port : Fin 12), portState s port.val = 6 →
     let n := port.val
     (∀ (id : BitVec 14) (valid : Bool) (peer : BitVec 4) (epoch : BitVec 1),
       ∃ t, exec (.discoverReceive port id valid peer epoch) s = .next t
         ∧ t = { s with regs := t.regs, ports := t.ports, vcs := t.vcs, out := t.out, bondSeq := t.bondSeq, bondRx := t.bondRx }
         ∧ rf t (F.ROUTE_NBR_PEER_ID n) = id.toNat ∧ rf t (F.ROUTE_NBR_PEER_ASSIGNED n) = valid.toNat
         ∧ rf t (F.ROUTE_NBR_PEER_PORT n) = peer.toNat ∧ rf t (F.ROUTE_NBR_PEER_EPOCH n) = epoch.toNat
         ∧ (portRt t n).discovered = true ∧ rf t (F.ROUTE_NBR_STATE n) = portClass t n
         ∧ (ff s (F.ROUTE_PLAN_USE n) = 0 → rf t (F.ROUTE_NBR_STATE n) = 2)
         ∧ (ff s (F.ROUTE_PLAN_USE n) = 1 → (rf t (F.ROUTE_NBR_STATE n) = 1 ↔
             valid = true ∧ id.toNat = ff s (F.ROUTE_PLAN_EXPECT_ID n) ∧ peer.toNat = ff s (F.ROUTE_PLAN_EXPECT_PORT n)))) ∧
     (Quiet s → CanSend s n →
       ∃ t, exec (.discoverPeriod port) s = .next t ∧ t = { s with ports := t.ports, vcs := t.vcs, out := t.out }
         ∧ SentAlone s t n (localPkt s 2 [selfId s + ff s F.ROUTE_ID_VALID * 2 ^ 14 + n * 2 ^ 16 + epochBit s * 2 ^ 20])))

/-- Draining the old table (R297 to R299). A value that comes while nothing drains is held. After the gap the next round
begins: on a fabric of one device a total of 0 makes the table IDLE and any other total leaves it DRAINING; where axis X has
more devices the round waits on X with this device's own difference. A late drain sets DRAIN_LATE and changes no table, and
FORCE_RELEASE makes the DRAINING table IDLE at once. -/
def Obligations.DrainRoundsEndInIdle : Prop :=
  ∀ (s : State),
    (∀ (axis : Fin 4) (round : BitVec 16) (value : BitVec 64), drainingBit s = none →
      ∃ t, exec (.drainRoundReceive axis false round value) s = .next t ∧ t = { s with drains := t.drains }
        ∧ t.drains = { s.drains with early := s.drains.early ++ [(round.toNat, axis.val, value.toNat)] }) ∧
    (∀ e, drainingBit s = some e → tableState s (1 - e) ≠ 2 →
      let r := (s.drains.round + 1) % 65536
      (s.drains.running = false → (∀ a, a < 4 → axisSize s a = 1) → drainOwn s e = 0 →
        ∃ t, exec .drainRoundGap s = .next t ∧ tableState t e = 0 ∧ tableState t (1 - e) = tableState s (1 - e)
          ∧ rf t F.ROUTE_TSTAT_DRAIN_LATE = 0 ∧ rf t F.ROUTE_TSTAT_ROUND = r ∧ t.injHeld = []) ∧
      (s.drains.running = false → (∀ a, a < 4 → axisSize s a = 1) → drainOwn s e ≠ 0 →
        ∃ t, exec .drainRoundGap s = .next t ∧ t = { s with drains := t.drains }
          ∧ t.drains.running = false ∧ t.drains.round = r ∧ t.drains.total = drainOwn s e) ∧
      (s.drains.running = false → 1 < axisSize s 0 → (∀ x ∈ s.drains.early, ¬ (x.1 = r ∧ x.2.1 = 0)) →
        ∃ t, exec .drainRoundGap s = .next t ∧ t.drains = ⟨true, r, 0, drainOwn s e, 0, s.drains.early, s.drains.since⟩
          ∧ tableState t e = 2) ∧
      (∃ t, exec .drainLate s = .next t ∧ rf t F.ROUTE_TSTAT_DRAIN_LATE = 1
        ∧ tableState t 0 = tableState s 0 ∧ tableState t 1 = tableState s 1 ∧ t.mem = s.mem) ∧
      (HostReaches s →
        ∃ t, exec .forceRelease s = .next t ∧ tableState t e = 0 ∧ tableState t (1 - e) = tableState s (1 - e)
          ∧ rf t F.ROUTE_TSTAT_DRAIN_LATE = 0 ∧ t.injHeld = [] ∧ t.drains.running = false ∧ t.mem = s.mem))

/-- Bobbin time (R332 to R334). A child sends a request with its sequence number and the stamp at which its block leaves; a request
is answered with the stamps of its arrival and of the answer; the answer of an exchange in which a block was resent is dropped.
Eight successive exchanges within 10 ns lock, on the ROOT reference; one beyond 50 ns loses the lock. A count may be set only by a
time source with no live step. Stated for ports in MATCH, and what is sent while no cell waits. -/
def Obligations.BobbinExchangesAndLocks : Prop :=
  ∀ (s : State),
    (∀ n, n = rf s F.BOBBIN_CFG_PARENT → rf s (F.ROUTE_NBR_STATE n) = 1 → Quiet s → CanSend s n →
      let q := (s.servo.seq + 1) % 65536
      ∃ t, exec .bobbinSync s = .next t
        ∧ t = { s with ports := t.ports, vcs := t.vcs, out := t.out, servo := { s.servo with seq := q, waiting := true } }
        ∧ SentAlone s t n (localPkt s 3 [1 + q * 2 ^ 16, stamp s, 0, 0])) ∧
    (∀ (port : Fin 12) (seq : BitVec 16) (t1 t2 t3 : BitVec 64), portState s port.val = 6 →
      rf s (F.ROUTE_NBR_STATE port.val) = 1 →
      (Quiet s → CanSend s port.val →
        ∃ t, exec (.bobbinPacketReceive port false seq t1 t2 t3 false) s = .next t
          ∧ t = { s with ports := t.ports, vcs := t.vcs, out := t.out }
          ∧ SentAlone s t port.val (localPkt s 3 [2 + seq.toNat * 2 ^ 16, t1.toNat, stamp s, stamp s])) ∧
      (port.val = rf s F.BOBBIN_CFG_PARENT → s.servo.waiting = true → seq.toNat = s.servo.seq →
        let x : Int × Int := (stampDiff (stamp s) t3.toNat - stampDiff t2.toNat t1.toNat,
          stampDiff t2.toNat t1.toNat + stampDiff (stamp s) t3.toNat)
        let l := ((s.servo.last ++ [x]).reverse.take 8).reverse
        let off := (bestExchange l).1.natAbs
        (exec (.bobbinPacketReceive port true seq t1 t2 t3 true) s = .next { s with servo := { s.servo with waiting := false } }) ∧
        (off ≤ 2 * 10 * 256 → 7 ≤ s.servo.good → rf s F.CLK_CTL_SRC = 1 →
          ∃ t, exec (.bobbinPacketReceive port true seq t1 t2 t3 false) s = .next t
            ∧ t = { s with regs := t.regs, servo := t.servo, free := t.free }
            ∧ rf t F.BOBBIN_STAT_LOCKED = 1 ∧ t.servo.last = l ∧ t.servo.waiting = false ∧ t.servo.good = 8) ∧
        (2 * 50 * 256 < off → rf s F.BOBBIN_STAT_LOCKED = 1 →
          ∃ t, exec (.bobbinPacketReceive port true seq t1 t2 t3 false) s = .next t
            ∧ t = { s with regs := t.regs, servo := t.servo, free := t.free, steps := t.steps }
            ∧ rf t F.BOBBIN_STAT_LOCKED = 0 ∧ rf t F.BOBBIN_LOCK_LOSS = (rf s F.BOBBIN_LOCK_LOSS + 1) % 2 ^ 64
            ∧ t.steps = s.steps.map (fun r => { r with locked := false })))) ∧
    (∀ value : BitVec 64, HostReaches s →
      (rf s F.BOBBIN_CFG_PARENT = 15 → s.steps = [] → exec (.bobbinSet value) s = .next { s with bob := value.toNat * 2 ^ 40 }) ∧
      (¬ (rf s F.BOBBIN_CFG_PARENT = 15 ∧ s.steps = []) →
        ∃ t, exec (.bobbinSet value) s = .next t ∧ t = { s with regs := t.regs }
          ∧ rf t F.SETUP_ERR_COUNT = (rf s F.SETUP_ERR_COUNT + 1) % 2 ^ 64))

/-- Training (R262 to R267). A port that is enabled with the RTR domain running, nothing of the start-up in its way, leaves DARK for
LIGHT with its set-up word taken; one that is disabled goes DARK. LIGHT with eight lit lanes and no fibre fault gives way to
ID, where a TRAIN block goes out on every lane; ID with a generation both ends offer and eight lanes seen to RATE; RATE to TUNE on
eight locked lanes; TUNE to WIDTH with the corrected symbols counted; WIDTH to ACTIVE with its width and lanes, or to the fault
NARROW. A failed training starts again in LIGHT. What arrives on a training port (R263 to R266). In ID a TRAIN block with the port's
own nonce is a loopback; any other enters its lane into the lane map, and ends a loopback or a mismatch of generations.
Measurements are shown, and in LIGHT dark lasers, dark fibres and fibres the wrong way round are told apart. Stated for a port that
does not narrow. -/
def Obligations.PortsTrain : Prop :=
  (∀ (s : State) (port : Fin 12), s.rtrUp = true →
     let n := port.val
     let f := rf s (F.UBVOR_PSTAT_FAULT n)
     let onlyPorts := fun (t : State) => t.mem = s.mem ∧ t.steps = s.steps ∧ t.inflight = s.inflight ∧ t.force = s.force
     (rf s (F.UBVOR_PCFG_ENABLE n) = 1 → portBarred s n = false → portState s n = 0 →
       ∃ t, exec (.portEnable port) s = .next t ∧ portState t n = 1 ∧ (portRt t n).cfg = (rdReg s (R.UBVOR_PCFG n)).toNat
         ∧ onlyPorts t) ∧
     (rf s (F.UBVOR_PCFG_ENABLE n) = 0 → portState s n ≠ 0 →
       ∃ t, exec (.portEnable port) s = .next t ∧ portState t n = 0 ∧ (portRt t n).retry = [] ∧ onlyPorts t) ∧
     ((portRt s n).narrowing = false →
       (∀ (lock : BitVec 16) (syms : List (BitVec 32)),
         let c : Instr := .trainingStateDone port lock syms
         (portState s n = 1 → f ∉ [2, 3, 4] → 8 ≤ (lanesOf (lit s n)).length →
           ∃ t, exec c s = .next t ∧ portState t n = 2 ∧ (portRt t n).seen = 0 ∧ onlyPorts t
             ∧ ∀ k, k < 16 → ∃ h, OutMsg.train n k (blockSymbols h (trainBody (k + trainWord t n) (portRt t n).nonce)) ∈ t.out) ∧
         (portState s n = 2 → f ∉ [5, 7] → genChosen (gensOffered (bitsOf (portRt s n).cfg 1 2)) (portRt s n).peerGens ≠ 0 →
           8 ≤ (lanesOf (portRt s n).seen).length →
           ∃ t, exec c s = .next t ∧ portState t n = 3
             ∧ (portRt t n).gen = genChosen (gensOffered (bitsOf (portRt s n).cfg 1 2)) (portRt s n).peerGens ∧ t.mem = s.mem) ∧
         (portState s n = 3 → 8 ≤ (lanesOf lock.toNat).length →
           ∃ t, exec c s = .next t ∧ portState t n = 4 ∧ onlyPorts t) ∧
         (portState s n = 4 →
           ∃ t, exec c s = .next t ∧ portState t n = 5 ∧ onlyPorts t
             ∧ rf t (F.UBVOR_CORR_SYM n) = (rf s (F.UBVOR_CORR_SYM n) + (syms.map (·.toNat)).sum) % 2 ^ 64) ∧
         (portState s n = 5 → ∀ w ls, widthSet s n = some (w, ls) →
           ∃ t, exec c s = .next t ∧ portState t n = 6 ∧ rf t (F.UBVOR_PSTAT_WIDTH n) = widthCode w
             ∧ rf t (F.UBVOR_PSTAT_LANES n) = ls ∧ t.mem = s.mem) ∧
         (portState s n = 5 → widthSet s n = none →
           ∃ t, exec c s = .next t ∧ portState t n = 5 ∧ rf t (F.UBVOR_PSTAT_FAULT n) = 8 ∧ t.mem = s.mem)) ∧
       (portState s n ∉ [0, 6] → portBarred s n = false → ¬ (portState s n = 2 ∧ f ∈ [5, 7]) →
         ∃ t, exec (.trainingFailRetry port) s = .next t ∧ portState t n = 1 ∧ onlyPorts t))) ∧
  (∀ (s : State) (port : Fin 12), (portRt s port.val).narrowing = false →
     let n := port.val
     (∀ (lane : Fin 16) (w0 nonce : BitVec 64) (ack : BitVec 16), portState s n = 2 →
       (nonce.toNat = (portRt s n).nonce →
         ∃ t, exec (.trainBlockReceive port lane w0 nonce ack) s = .next t ∧ rf t (F.UBVOR_PSTAT_FAULT n) = 5 ∧ portState t n = 2
           ∧ rf t (F.UBVOR_LANEMAP n) = rf s (F.UBVOR_LANEMAP n) ∧ t.mem = s.mem) ∧
       (nonce.toNat ≠ (portRt s n).nonce →
         genChosen (gensOffered (bitsOf (portRt s n).cfg 1 2)) (bitsOf w0.toNat 4 2) ≠ 0 →
         ∃ t, exec (.trainBlockReceive port lane w0 nonce ack) s = .next t
           ∧ (rf s (F.UBVOR_PSTAT_FAULT n) ∉ [5, 7] → t = { s with regs := t.regs, ports := t.ports }
               ∧ RegsKept s t [R.UBVOR_LANEMAP n])
           ∧ (rf s (F.UBVOR_PSTAT_FAULT n) ∈ [5, 7] → rf t (F.UBVOR_PSTAT_FAULT n) = 0)
           ∧ bitsOf (rf t (F.UBVOR_LANEMAP n)) (4 * bitsOf w0.toNat 0 4) 4 = lane.val
           ∧ (portRt t n).seen = (portRt s n).seen ||| 2 ^ bitsOf w0.toNat 0 4
           ∧ (portRt t n).peerGens = bitsOf w0.toNat 4 2 ∧ (portRt t n).peerGood = bitsOf w0.toNat 32 16)) ∧
     (∀ (rxp lsp : List (BitVec 8)) (rev : BitVec 8), portState s n = 1 →
       ∃ t, exec (.fibreFaultClassify port rxp lsp rev) s = .next t ∧ rf t (F.UBVOR_REVP_POWER n) = rev.toNat
         ∧ rdReg t (R.UBVOR_RXP_LO n) = BitVec.ofNat 64 (powerWord rxp 0)
         ∧ rdReg t (R.UBVOR_RXP_HI n) = BitVec.ofNat 64 (powerWord rxp 8)
         ∧ rf t (F.UBVOR_PSTAT_FAULT n) = fibreClass t n ∧ portState t n = 1 ∧ t.mem = s.mem))

/-- Link-level retry on an ACTIVE port (R270, R271). A good block in sequence moves the receiver on by one, and the further cell of a
dropped packet frees its place (R294); one that FEC cannot decode or that fails its Tack check is counted, starts dropping and
sends NAK with its number in the header of the next block; while dropping, a block only moves the count on; a MARK ends the
dropping. NAK and the ACK timer resend from the oldest block not acknowledged, MARK first, each on the lane of its number, and
change no block. While dropping, NAK is repeated. Stated while no cell waits, with a place in the retry buffer and no NAK due; and, for a
good block of a bond, when it is its port's turn (R347). -/
def Obligations.LinkRetryLosesNothing : Prop :=
  ∀ (s : State) (port : Fin 12), portState s port.val = 6 → (portRt s port.val).narrowing = false → Quiet s →
    (portRt s port.val).nakDue = none → (portRt s port.val).retry.length < 4096 →
    let n := port.val
    let p := portRt s n
    let q := (p.rxPos + 1) % 65536
    let noAck := fun (ack : BitVec 16) => p.retry.all (fun b => b.1 != ack.toNat) = true ∧ ack.toNat ≠ p.txNext
    let nak := fun (fail : Nat) =>
      OutMsg.block n (blockLane s n p.txNext) p.txNext (blockSymbols (blockHeader 0 1 [] fail) (blockBody []))
    let nakked := fun (x : PortRt) => { x with txNext := (p.txNext + 1) % 65536, retry := p.retry ++ [(p.txNext, [])] }
    (∀ (corrected ack : BitVec 16), noAck ack →
      let corr := fun (t : State) => rf t (F.UBVOR_CORR_SYM n) = (rf s (F.UBVOR_CORR_SYM n) + corrected.toNat) % 2 ^ 64
      (p.dropping = false → p.rxPos = p.rxNext → beforeTurn s n true true = false →
        (∃ t, exec (.dataBlockReceive port corrected true true ack []) s = .next t
          ∧ t = { s with regs := t.regs, ports := t.ports, bondRx := t.bondRx }
          ∧ corr t ∧ RegsKept s t [R.UBVOR_CORR_SYM n] ∧ portRt t n = { p with rxPos := q, rxNext := q }) ∧
        (∀ (v : Fin 8) (a : Arriving), (vcRt s (carrier s n) v.val).arr = some a → a.dest = .gone →
          let x := vcRt s (carrier s n) v.val
          ((x.freed + 1) % 65536 + 65536 - x.reported) % 65536 < 32 →
          ∃ t, exec (.dataBlockReceive port corrected true true ack [v]) s = .next t
            ∧ t = { s with regs := t.regs, ports := t.ports, vcs := t.vcs, bondRx := t.bondRx }
            ∧ vcRt t (carrier s n) v.val = { x with
                freed := (x.freed + 1) % 65536,
                arr := if a.came + 1 < pktCells a.pkt then some { a with came := a.came + 1 } else none })) ∧
      (p.dropping = false → p.uncorr = [] → 1 < rf s F.UBVOR_QUAL_LANE_UNCORR_MAX →
        ∃ t, exec (.dataBlockReceive port corrected false true ack []) s = .next t
          ∧ t = { s with regs := t.regs, ports := t.ports, out := s.out ++ [nak p.rxPos] } ∧ corr t
          ∧ portRt t n = nakked { p with rxPos := q, dropping := true, failAt := p.rxPos, uncorr := (portRt t n).uncorr }
          ∧ rf t (F.UBVOR_UNCORR_BLK n) = (rf s (F.UBVOR_UNCORR_BLK n) + 1) % 2 ^ 64) ∧
      (p.dropping = false →
        ∃ t, exec (.dataBlockReceive port corrected true false ack []) s = .next t
          ∧ t = { s with regs := t.regs, ports := t.ports, out := s.out ++ [nak p.rxPos] } ∧ corr t
          ∧ portRt t n = nakked { p with rxPos := q, dropping := true, failAt := p.rxPos }
          ∧ rf t (F.UBVOR_TACK_FAIL n) = (rf s (F.UBVOR_TACK_FAIL n) + 1) % 2 ^ 64) ∧
      (p.dropping = true →
        ∃ t, exec (.dataBlockReceive port corrected true true ack []) s = .next t
          ∧ t = { s with regs := t.regs, ports := t.ports } ∧ corr t ∧ portRt t n = { p with rxPos := q })) ∧
    (∀ num ack : BitVec 16, noAck ack →
      ∃ t, exec (.markReceive port num ack) s = .next t ∧ t = { s with ports := t.ports }
        ∧ portRt t n = { p with rxPos := num.toNat, dropping := false }) ∧
    (p.dropping = true →
      ∃ t, exec (.nakRepeatTimeout port) s = .next t ∧ t = { s with ports := t.ports, out := s.out ++ [nak p.failAt] }
        ∧ portRt t n = nakked p) ∧
    (p.retry ≠ [] →
      let first := (p.retry.headD (0, [])).1
      let sent := OutMsg.mark n (blockSymbols (blockHeader 2 0 [] p.rxNext) (leBytes first 2)) :: p.retry.map (fun b =>
        OutMsg.block n (blockLane s n b.1) b.1 (blockSymbols (blockHeader 0 0 b.2 p.rxNext) (blockBody b.2)))
      (∃ t, exec (.ackTimeout port) s = .next t ∧ t = { s with regs := t.regs, ports := t.ports, out := s.out ++ sent }
        ∧ (portRt t n).retry = p.retry ∧ RegsKept s t [R.UBVOR_RESEND n]
        ∧ rf t (F.UBVOR_RESEND n) = (rf s (F.UBVOR_RESEND n) + 1) % 2 ^ 64) ∧
      (∀ ack : BitVec 16, noAck ack →
        ∃ t, exec (.nakReceive port ack) s = .next t ∧ t = { s with regs := t.regs, ports := t.ports, out := s.out ++ sent }
          ∧ (portRt t n).retry = p.retry ∧ rf t (F.UBVOR_RESEND n) = (rf s (F.UBVOR_RESEND n) + 1) % 2 ^ 64))

/-- A port in trouble (R268, R273 to R276). An active lane that goes bad makes the port leave ACTIVE and narrow, counted once, and it is
classified MISSING, or NONE where no plan uses it (R302); so does the last of LANE_UNCORR_MAX blocks of one lane that FEC cannot decode. Once the peer's bitmap has come the port is ACTIVE again on
the lanes good at both ends. After RETRY_MAX resends from one block, or out of ACTIVE, it is dead, once: counted, back in training,
and every OPEN step without a failure fails with cause LINK_DEAD when the table in use names the port. RETRAIN waits for live steps
unless it is to happen now, on a port that may leave DARK (R441). Dead ports and trainings at once are stated with every stored word clean. Ageing samples show each
lane's bias. -/
def Obligations.PortsNarrowDieAndRetrain : Prop :=
  ∀ (s : State) (port : Fin 12),
    let n := port.val
    let p := portRt s n
    let lanes := rf s (F.UBVOR_PSTAT_LANES n)
    (∀ lane : Fin 16, portState s n = 6 →
      (lanes.testBit lane.val = true →
        ∃ t, exec (.laneBad port lane) s = .next t
          ∧ t = { s with regs := t.regs, ports := t.ports, vcs := t.vcs, out := t.out, bondSeq := t.bondSeq }
          ∧ (portRt t n).narrowing = true ∧ (portRt t n).bad = p.bad ||| 2 ^ lane.val ∧ portState t n = 5
          ∧ rf t (F.UBVOR_PSTAT_LANES n) = lanes
          ∧ rf t (F.ROUTE_NBR_STATE n) = (if ff s (F.ROUTE_PLAN_USE n) = 0 then 0 else 4)
          ∧ RegsKept s t [R.UBVOR_DEGRADE n, R.UBVOR_PSTAT n, R.ROUTE_NBR n, R.ROUTE_CONS0, R.ROUTE_CONS1]
          ∧ rf t (F.UBVOR_DEGRADE n) = (if p.narrowing = true then rf s (F.UBVOR_DEGRADE n)
              else (rf s (F.UBVOR_DEGRADE n) + 1) % 2 ^ 64)) ∧
      (lanes.testBit lane.val = false →
        ∃ t, exec (.laneBad port lane) s = .next t ∧ t = { s with ports := t.ports }
          ∧ portRt t n = { p with bad := p.bad ||| 2 ^ lane.val })) ∧
    (∀ (corrected ack : BitVec 16), portState s n = 6 → p.narrowing = false → p.dropping = true → p.uncorr = [] →
      let lane := blockLane s n p.rxPos
      rf s F.UBVOR_QUAL_LANE_UNCORR_MAX ≤ 1 → lanes.testBit lane = true → p.bad.testBit lane = false →
      ∃ t, exec (.dataBlockReceive port corrected false true ack []) s = .next t ∧ portState t n = 5
        ∧ (portRt t n).narrowing = true ∧ (portRt t n).bad = p.bad ||| 2 ^ lane) ∧
    (∀ (lane : Fin 16) (w0 nonce : BitVec 64) (ack : BitVec 16) (w ls : Nat), p.narrowing = true → portState s n ≠ 0 →
      widthSet (setPortRt n { p with peerGood := bitsOf w0.toNat 32 16 } s) n = some (w, ls) →
      ∃ t, exec (.trainBlockReceive port lane w0 nonce ack) s = .next t ∧ portState t n = 6 ∧ (portRt t n).narrowing = false
        ∧ rf t (F.UBVOR_PSTAT_WIDTH n) = widthCode w ∧ rf t (F.UBVOR_PSTAT_LANES n) = ls ∧ t.mem = s.mem) ∧
    (p.deadSaid = false → (portState s n = 6 → rf s F.UBVOR_RETRY_RETRY_MAX ≤ p.resends) →
      rf s (F.UBVOR_PCFG_ENABLE n) = 1 → portBarred s n = false → NoUpset s →
      ∃ t, exec (.portDead port) s = .next t ∧ portState t n = 1 ∧ (portRt t n).retry = [] ∧ t.mem = s.mem
        ∧ (portRt t n).deadSaid = true ∧ rf t (F.UBVOR_DEAD n) = (rf s (F.UBVOR_DEAD n) + 1) % 2 ^ 64
        ∧ t.steps.length = s.steps.length
        ∧ (portInUse s n = true → ∀ x ∈ s.steps, findStep s x.num = some x → x.st = .opened → x.sev = 0 →
            ∃ y, findStep t x.num = some y ∧ y.sev = 1 ∧ y.cause = 0x14)) ∧
    (HostReaches s → portBarred s n = false →
      (s.steps ≠ [] →
        ∃ t, exec (.retrain port false) s = .next t ∧ t = { s with regs := t.regs } ∧ RegsKept s t [R.UBVOR_PSTAT n]
          ∧ rf t (F.UBVOR_PSTAT_RETRAIN_PEND n) = 1 ∧ portState t n = portState s n) ∧
      (s.steps = [] → rf s (F.UBVOR_PCFG_ENABLE n) = 1 →
        ∃ t, exec (.retrain port false) s = .next t ∧ portState t n = 1 ∧ rf t (F.UBVOR_PSTAT_RETRAIN_PEND n) = 0
          ∧ t.mem = s.mem) ∧
      (rf s (F.UBVOR_PCFG_ENABLE n) = 1 → NoUpset s →
        ∃ t, exec (.retrain port true) s = .next t ∧ portState t n = 1 ∧ rf t (F.UBVOR_PSTAT_RETRAIN_PEND n) = 0
          ∧ t.mem = s.mem ∧ t.steps.length = s.steps.length)) ∧
    (∀ bias : List (List (BitVec 16)), rf s F.UBVOR_AGE_SAMPLE_MIN ≠ 0 → rf s (F.UBVOR_PCFG_ENABLE n) = 1 →
      ∃ t, exec (.laserAgeingSample bias) s = .next t ∧ t.mem = s.mem ∧ portState t n = portState s n
        ∧ ∀ k, k < 16 → bitsOf (rdReg t (if k < 8 then R.UBVOR_BIAS_LO n else R.UBVOR_BIAS_HI n)).toNat (8 * (k % 8)) 8
            = min 255 (((bias.getD n []).getD k 0).toNat / 100))

/-! ### Seam streams, images, checkpoints -/

/-- The Seam stream at the holder of a mirror (R348, R350, R351), while no packet waits, every stored word is clean and the mirror
can be reached. A packet from another peer than MIRROR_OF is dropped and counted, and so is one whose cells failed their check after
the port (R237). BEGIN of the step after the mirror's, with outcome
HEM, makes the mirror UPDATING; out of sequence it makes it TORN; with outcome FAIL the stream is dropped; without an outcome it
waits, and is released once the outcome is recorded. Records, gradient and error-feedback bytes and END are taken in turn: the
gradient of a whole group of one record, with an unblocked W8 and parts that do not overlap, leaves every element of the mirror as
the optimiser makes it (R90, R128). When every write is made the mirror is CURRENT for the step. A stream that stops makes the mirror
TORN. A waiting BEGIN is released (R351) once the outcome of its step is recorded: no packet waits, and with outcome HEM in sequence
the mirror is UPDATING. The owner takes the holder's answer (R41): APPLIED records MIRROR_CURRENT, and either answer ends the wait of
the step. A record from the partner joins the restore that asked for it (R364). END ends the stream when as many bytes have come as it
says. A packet that is consumed then leaves the receive buffer, and its cells are credited (`freeSeam`). -/
def Obligations.SeamStreamsReachTheMirror : Prop :=
  (∀ (s : State) (src : BitVec 14), consumerUp s 10 = true → s.seamWait = [] →
     (fromOwner s src.toNat = false → ∀ c,
       ((∃ n e g b f, c = .seamBegin src false n e g b f) ∨ (∃ recs, c = .seamGroup src false recs)
         ∨ (∃ pos bs, c = .seamData src false pos bs) ∨ (∃ off bs, c = .seamEfb src false off bs)
         ∨ ∃ n, c = .seamEnd src false n) →
       ∃ t, exec c s = .next t ∧ t = { s with regs := t.regs } ∧ RegsKept s t [R.SEAM_XFER_DROP]
         ∧ rf t F.SEAM_XFER_DROP = (rf s F.SEAM_XFER_DROP + 1) % 2 ^ 64) ∧
     (∀ c, ((∃ n e g b f, c = .seamBegin src true n e g b f) ∨ (∃ recs, c = .seamGroup src true recs)
         ∨ (∃ pos bs, c = .seamData src true pos bs) ∨ (∃ off bs, c = .seamEfb src true off bs)
         ∨ (∃ n, c = .seamEnd src true n) ∨ ∃ step k, c = .seamAck src true step k) → s.seamHeld = [] →
       ∃ t, exec c s = .next t ∧ t = { s with regs := t.regs }
         ∧ RegsKept s t [R.TACK_ENDPOINT_FAIL, R.TACK_UNCORR_SRAM, R.TACK_UNCORR_UNIT]
         ∧ rf t F.TACK_ENDPOINT_FAIL = (rf s F.TACK_ENDPOINT_FAIL + 1) % 2 ^ 64) ∧
     (fromOwner s src.toNat = true →
       (∀ (step : BitVec 48) (epoch : BitVec 32) (groups : BitVec 16) (bytes efb : BitVec 48),
         let n := step.toNat
         let c : Instr := .seamBegin src false step epoch groups bytes efb
         let rx : SeamRx := ⟨n, epoch.toNat, groups.toNat, [], bytes.toNat, efb.toNat, 0, false, true⟩
         (outcomeOf s n epoch.toNat = 1 → rf s F.SEAM_MSTAT_STATE = 2 → rf s F.SEAM_MSTAT_STEP + 1 = n →
           ∃ t, exec c s = .next (freeSeam 0 t) ∧ t = { s with regs := t.regs, seamRx := some { rx with dropping := false } }
             ∧ RegsKept s t [R.SEAM_MSTAT] ∧ rf t F.SEAM_MSTAT_STATE = 3 ∧ rf t F.SEAM_MSTAT_STEP = rf s F.SEAM_MSTAT_STEP) ∧
         (outcomeOf s n epoch.toNat = 1 → ¬ (rf s F.SEAM_MSTAT_STATE = 2 ∧ rf s F.SEAM_MSTAT_STEP + 1 = n) →
           ∃ t, exec c s = .next (freeSeam 0 t) ∧ rf t F.SEAM_MSTAT_STATE = 4 ∧ rf t F.SEAM_TORN = (rf s F.SEAM_TORN + 1) % 2 ^ 64
             ∧ t.seamRx = some rx ∧ t.mem = s.mem) ∧
         (outcomeOf s n epoch.toNat = 2 →
           ∃ t, exec c s = .next (freeSeam 0 t) ∧ t.seamRx = some rx ∧ t.mem = s.mem
             ∧ rf t F.SEAM_MSTAT_STATE = rf s F.SEAM_MSTAT_STATE) ∧
         (outcomeOf s n epoch.toNat = 0 →
           exec c s = .next { s with seamWait := [(src.toNat, .opening step epoch groups bytes efb)] })) ∧
       (∀ rx, s.seamRx = some rx → rx.dropping = false →
         (∀ recs, exec (.seamGroup src false recs) s
           = .next (freeSeam 0 { s with seamRx := some { rx with recs := rx.recs ++ recs } })) ∧
         (∀ total : BitVec 64, exec (.seamEnd src false total) s = .next (freeSeam 0
           { s with seamRx := some { rx with ended := rx.got + 128 * rx.recs.length == total.toNat } })) ∧
         (∀ (pos : BitVec 48) (bs : List Byte), NoUpset s → mirrorHeld s = false →
           ∃ t, exec (.seamData src false pos bs) s = .next (freeSeam 0 t)
             ∧ t = { afterAccess s t with mem := t.mem, seamRx := some { rx with got := rx.got + bs.length } }
             ∧ RegsKept s t (R.SEAM_MIRROR_BYTES :: accessRegs)
             ∧ rf t F.SEAM_MIRROR_BYTES = (rf s F.SEAM_MIRROR_BYTES + bs.length) % 2 ^ 64
             ∧ (∀ a, a < ff s F.SEAM_MIRROR_BASE → memGet t a = memGet s a)
             ∧ ∀ ws g, rx.recs = [ws] → g = groupOf ws → pos = 0 → bs.length = 2 * g.count →
                 fmtBlocked ((fmtOfCode g.w8fmt).getD .fp8E4M3) = false → GroupApart g g.count →
                 Updated s t (mirrorAddr s) g (fun i => fpDecode .bf16 (leNat ((bs.drop (2 * i)).take 2))) g.count) ∧
         (∀ (off : BitVec 48) (bs : List Byte), NoUpset s → mirrorHeld s = false →
           let a0 := mirrorAddr s off.toNat
           ∃ t, exec (.seamEfb src false off bs) s = .next (freeSeam 0 t)
             ∧ t = { afterAccess s t with mem := t.mem, seamRx := some { rx with got := rx.got + bs.length } }
             ∧ RegsKept s t (R.SEAM_MIRROR_BYTES :: accessRegs)
             ∧ (∀ i, i < bs.length → memGet t (a0 + i) = bs.getD i 0)
             ∧ ∀ a, (a < a0 ∨ a0 + bs.length ≤ a) → memGet t a = memGet s a))) ∧
     (∀ rx, s.seamRx = some rx → rx.dropping = false →
       (rx.ended = true →
         ∃ t, exec .mirrorUpdateComplete s = .next t ∧ t.seamRx = none ∧ rf t F.SEAM_MSTAT_STATE = 2
           ∧ rf t F.SEAM_MSTAT_STEP = rx.step % 2 ^ 48 ∧ t.mirrorGroups = rx.recs.map (·.take 16) ∧ t.mem = s.mem) ∧
       (rx.ended = false →
         ∃ t, exec .seamStreamTimeout s = .next t ∧ t.seamRx = none ∧ rf t F.SEAM_MSTAT_STATE = 4
           ∧ rf t F.SEAM_TORN = (rf s F.SEAM_TORN + 1) % 2 ^ 64 ∧ t.mem = s.mem))) ∧
  (∀ (s : State),
     (∀ (src : Nat) (step : BitVec 48) (epoch : BitVec 32) (groups : BitVec 16) (bytes efb : BitVec 48),
       consumerUp s 10 = true → s.seamWait = [(src, .opening step epoch groups bytes efb)] → outcomeOf s step.toNat epoch.toNat = 1 →
       rf s F.SEAM_MSTAT_STATE = 2 → rf s F.SEAM_MSTAT_STEP + 1 = step.toNat →
       ∃ t, exec .seamStreamRelease s = .next (freeSeam 0 t)
         ∧ t = { s with regs := t.regs, seamWait := [], seamRx := some ⟨step.toNat, epoch.toNat, groups.toNat, [],
             bytes.toNat, efb.toNat, 0, false, false⟩ }
         ∧ RegsKept s t [R.SEAM_MSTAT] ∧ rf t F.SEAM_MSTAT_STATE = 3) ∧
     (∀ (src : BitVec 14) (step : BitVec 48), consumerUp s 10 = true → fromPartner s src.toNat = true →
       step.toNat ∈ s.seamTx → s.tripPend = false →
       (∃ t, exec (.seamAck src false step 1) s = .next t ∧ t.mcValid = true ∧ rf t F.SEAM_OSTAT_MC_STEP = step.toNat
         ∧ t.seamTx = s.seamTx.filter (· != step.toNat) ∧ t.mem = s.mem ∧ t.steps = s.steps) ∧
       (∃ t, exec (.seamAck src false step 2) s = .next t ∧ t.mcValid = s.mcValid
         ∧ t.seamTx = s.seamTx.filter (· != step.toNat) ∧ t.mem = s.mem ∧ t.steps = s.steps)) ∧
     (∀ (src : BitVec 14) (ws : List Word), consumerUp s 11 = true → fromPartner s src.toNat = true →
       s.restore.asked = true → ws.length = 32 → s.restore.records.filter (fun r => r.1 < 2) = [] →
       exec (.seamRecord src false ws) s
         = .next { s with restore := { s.restore with records := s.restore.records ++ [(0, ws)] } }))

/-- The holder of checkpoints (R348, R360 to R362), with every stored word clean and the slots within reach: BEGIN from MIRROR_OF
chooses the slot to write and clears its record and group table; the image bytes and the commit record are stored in it, and the
record ends the reception. From anyone else a packet is dropped and counted, and so is one whose cells failed their check after the
port (R237). The target of an image transfer (R352, R355), with every
stored word clean, the image within reach and no other transfer coming in: a FILL that MIRROR_OF begins makes the mirror FILLING; its bytes are stored at their
offset of the mirror region and counted; when all have come the mirror is CURRENT for the transfer's step, and after a LOAD own state
is valid and the transfer's step is the last hemmed step. -/
def Obligations.CheckpointsAndImagesArrive : Prop :=
  (∀ (s : State) (src : BitVec 14), consumerUp s 11 = true → slotsHeld s = false → recordsHeld s = false →
     (∀ pkt, ∃ t, exec (.ckptPacketReceive src true pkt) s = .next t ∧ t = { s with regs := t.regs }
       ∧ RegsKept s t [R.TACK_ENDPOINT_FAIL, R.TACK_UNCORR_SRAM, R.TACK_UNCORR_UNIT]
       ∧ rf t F.TACK_ENDPOINT_FAIL = (rf s F.TACK_ENDPOINT_FAIL + 1) % 2 ^ 64) ∧
     (fromOwner s src.toNat = false → ∀ pkt,
       (fromPartner s src.toNat = true → (∀ n v, pkt ≠ .ack n v) ∧ ∀ ws, pkt ≠ .record ws) →
       ∃ t, exec (.ckptPacketReceive src false pkt) s = .next t ∧ t = { s with regs := t.regs } ∧ RegsKept s t [R.SEAM_XFER_DROP]
         ∧ rf t F.SEAM_XFER_DROP = (rf s F.SEAM_XFER_DROP + 1) % 2 ^ 64) ∧
     (fromOwner s src.toNat = true → NoUpset s →
       (∀ n e g b f,
         let k := drainSlot (heldRecord s 0) (heldRecord s 1)
         ∃ t, exec (.ckptPacketReceive src false (.opening n e g b f)) s = .next t
           ∧ t = { afterAccess s t with mem := t.mem, ckptRx := some ⟨k, 0, n.toNat⟩ } ∧ RegsKept s t accessRegs
           ∧ (∀ i, i < 516 * 1024 → memGet t (heldSlot s k + i) = 0)
           ∧ ∀ a, (a < heldSlot s k ∨ heldSlot s k + 516 * 1024 ≤ a) → memGet t a = memGet s a) ∧
       (∀ rx, s.ckptRx = some rx →
         (∀ (pos : BitVec 48) (bs : List Byte), pos.toNat + bs.length ≤ ff s F.SEAM_MIRROR_SIZE_BYTES →
           let a0 := heldSlot s rx.slot + 516 * 1024 + pos.toNat
           ∃ t, exec (.ckptPacketReceive src false (.data pos bs)) s = .next t
             ∧ t = { afterAccess s t with mem := t.mem, ckptRx := some { rx with got := rx.got + bs.length } }
             ∧ RegsKept s t accessRegs
             ∧ (∀ i, i < bs.length → memGet t (a0 + i) = bs.getD i 0)
             ∧ ∀ a, (a < a0 ∨ a0 + bs.length ≤ a) → memGet t a = memGet s a) ∧
         (∀ ws : List Word, ws.length = 32 →
           ∃ t, exec (.ckptPacketReceive src false (.record ws)) s = .next t
             ∧ t = { afterAccess s t with mem := t.mem, ckptRx := none } ∧ RegsKept s t accessRegs
             ∧ (∀ i, i < 256 → memGet t (heldSlot s rx.slot + i) = (wordBytes ws).getD i 0)
             ∧ ∀ a, (a < heldSlot s rx.slot ∨ heldSlot s rx.slot + 256 ≤ a) → memGet t a = memGet s a)))) ∧
  (∀ (s : State) (src : BitVec 14), NoUpset s →
     (∀ (step : BitVec 48) (e : BitVec 32) (g : BitVec 16) (b f : BitVec 48), consumerUp s 12 = true → s.fillRx = none →
       fromOwner s src.toNat = true → b.toNat + f.toNat = ff s F.SEAM_MIRROR_SIZE_BYTES →
       ∃ t, exec (.loadPacketReceive src 1 false (.opening step e g b f)) s = .next t
         ∧ t = { s with regs := t.regs, fillRx := some ⟨1, src.toNat, step.toNat, e.toNat, g.toNat, [],
             ff s F.SEAM_MIRROR_SIZE_BYTES, f.toNat, 0, false, 0, []⟩ }
         ∧ RegsKept s t [R.SEAM_MSTAT] ∧ rf t F.SEAM_MSTAT_STATE = 1) ∧
     (∀ (l : LoadRx) (pos : BitVec 48) (bs : List Byte), consumerUp s 12 = true → imageHeld s 1 = false → s.fillRx = some l → l.kind = 1 →
       fromOwner s l.src = true → pos.toNat + bs.length ≤ l.total →
       let a0 := mirrorAddr s pos.toNat
       ∃ t, exec (.loadPacketReceive src 1 false (.data pos bs)) s = .next t
         ∧ t = { afterAccess s t with mem := t.mem, fillRx := some { l with got := l.got + bs.length } }
         ∧ RegsKept s t (R.SEAM_XFER_BYTES :: accessRegs)
         ∧ rf t F.SEAM_XFER_BYTES = (rf s F.SEAM_XFER_BYTES + bs.length) % 2 ^ 64
         ∧ (∀ i, i < bs.length → memGet t (a0 + i) = bs.getD i 0)
         ∧ ∀ a, (a < a0 ∨ a0 + bs.length ≤ a) → memGet t a = memGet s a) ∧
     (∀ l, loadWhole l = true →
       (l.kind = 1 → s.fillRx = some l → s.loadRx = none → imageHeld s 1 = false →
         ∃ t, exec .imageTransferComplete s = .next t ∧ t.fillRx = none ∧ rf t F.SEAM_MSTAT_STATE = 2
           ∧ rf t F.SEAM_MSTAT_STEP = l.step % 2 ^ 48 ∧ t.mirrorGroups = l.recs ∧ t.mirrorEfb = l.efb ∧ NoUpset t) ∧
       (l.kind = 2 → s.loadRx = some l → s.fillRx = none → imageHeld s 2 = false →
         ∃ t, exec .imageTransferComplete s = .next t ∧ t.loadRx = none ∧ rf t F.SEAM_OSTAT_OWN = 0
           ∧ rf t F.STEPSTAT_LAST_HEM_STEP = l.step % 2 ^ 48 ∧ rf t F.STEPSTAT_LAST_HEM_VALID = 1 ∧ t.groups = l.recs
           ∧ t.lastDisc = [l.step + 1] ∧ t.mcValid = true ∧ NoUpset t)))

/-- The source of an image transfer (R352, R520), and a job start (R356), with every stored word clean, no thermal trip and regulators that
issue. A
transfer that may start begins, or waits for the own update, and BUSY says so; one that may not is refused, and leaves its registers as they are (R479). A job start with nothing
live or running makes its step the last hemmed step with own state valid and no groups; otherwise it is refused. -/
def Obligations.TransfersAndJobsStart : Prop :=
  ∀ (s : State), HostReaches s → NoUpset s → s.tripPend = false → (∀ k, k < 16 → ∀ x, x < 8 → regStops s k x = false) →
    (∀ (kind : Nat) (slot : BitVec 1) (relay : Option (BitVec 14)),
      let c : Instr := match kind with | 1 => .fill relay | 2 => .load relay | _ => .slot slot relay
      let k := if kind = 3 then slot.toNat else 0
      1 ≤ kind → kind ≤ 3 →
      (xferAllowed s kind k = true →
        ∃ t, exec c s = .next t ∧ t.mem = s.mem ∧ t.host = s.host ∧ t.steps = s.steps ∧ t.upds = s.upds
          ∧ rf t F.SEAM_XFER_BUSY = 1 ∧ rf t F.SEAM_XFER_RESULT = 0 ∧ rf t F.SEAM_XFER_KIND = kind
          ∧ ∃ x, t.xfer = some x ∧ x.kind = kind ∧ x.relay = relay.map (·.toNat)
            ∧ x.waiting = (kind == 1 && s.upds != [])) ∧
      (xferAllowed s kind k = false →
        ∃ t, exec c s = .next t ∧ t = afterAccess s t
          ∧ (kind ≠ 3 → t = { s with regs := t.regs })
          ∧ RegsKept s t (R.SETUP_ERR :: R.SETUP_ERR_COUNT :: accessRegs)
          ∧ rf t F.SETUP_ERR_COUNT = (rf s F.SETUP_ERR_COUNT + 1) % 2 ^ 64)) ∧
    (∀ step : BitVec 48,
      let busy := s.steps ≠ [] ∨ s.xfer.isSome = true ∨ s.loadRx.isSome = true ∨ s.fillRx.isSome = true ∨ pressRuns s = true
        ∨ s.drain.isSome = true ∨ s.restore.running = true
      (¬ busy →
        ∃ t, exec (.jobStart step) s = .next t
          ∧ t = { s with regs := t.regs, lastDisc := [], groups := [], hemRecs := [⟨step.toNat, 0, 0, 0⟩],
                         ownBad := false, mcValid := false }
          ∧ rf t F.STEPSTAT_LAST_HEM_STEP = step.toNat ∧ rf t F.STEPSTAT_LAST_HEM_VALID = 1 ∧ rf t F.SEAM_OSTAT_OWN = 0) ∧
      (busy →
        ∃ t, exec (.jobStart step) s = .next t ∧ t = { s with regs := t.regs }
          ∧ RegsKept s t [R.SETUP_ERR, R.SETUP_ERR_COUNT]
          ∧ rf t F.SETUP_ERR_COUNT = (rf s F.SETUP_ERR_COUNT + 1) % 2 ^ 64))

/-- The press copy and its drain (R358 to R363), with every stored word clean. CKPT_NOW marks the next hem point. A press
copy whose regions can be reached completes with the bytes of the state range in the press region, byte for byte, and where its
error-feedback part has waited (R220) with that part as well; it is held for its step. A drain that has waited at the controllers begins,
with the digest of the copy. It waits for the partner's ACK, which is taken only from the partner and for its step; then it completes with
the next sequence number and its commit record at each destination left. A destination may be abandoned with a result of its own, and a
drain with no destination left ends; CHECK abandons none while every word is clean. -/
def Obligations.PressCopyAndDrain : Prop :=
  ∀ (s : State), NoUpset s →
    (HostReaches s → exec .ckptNow s = .next { s with ckptNow := true }) ∧
    (∀ p, s.press = some p → p.running = true → memDrains s = true →
      let src := ff s F.SEAM_STATE_BASE
      let n := ff s F.SEAM_STATE_SIZE_BYTES
      let efb := ff s F.SEAM_EFB_BASE
      let en := ff s F.SEAM_EFB_SIZE_BYTES
      let b := pressBase s
      let copied := fun (t : State) => t.press = some { p with running := false, efb := true }
        ∧ rf t F.SEAM_CKSTAT_PRESS_VALID = 1 ∧ rf t F.SEAM_CKSTAT_PRESS_STEP = p.step % 2 ^ 48
        ∧ ∀ i, i < n → memGet t (b + i) = memGet s (src + i)
      accessHeld s .press (byteRun src n ++ byteRun b n) = false →
      (p.efb = true →
        ∃ t, exec .pressCopyComplete s = .next t ∧ copied t ∧ ∀ a, (a < b ∨ b + n ≤ a) → memGet t a = memGet s a) ∧
      (p.efb = false → accessHeld s .press (byteRun efb en ++ byteRun (b + n) en) = false →
        (b + n + en ≤ src ∨ src + n ≤ b + n) →
        ∃ t, exec .pressCopyComplete s = .next t ∧ copied t ∧ (∀ i, i < en → memGet t (b + n + i) = memGet s (efb + i))
          ∧ ∀ a, (a < b ∨ b + n + en ≤ a) → memGet t a = memGet s a)) ∧
    (∀ d p, s.drain = some d → s.press = some p →
      (d.begun = false → accessHeld s .drain (byteRun (pressBase s) (imageSize s)) = false →
        (d.hostSlot = none ∨ linkUp s = true) →
        ∃ t, exec .drainComplete s = .next t ∧ t.mem = s.mem ∧ t.press = some p
          ∧ t.drain = some ⟨d.partner, d.hostSlot, true, ckptDigest p.groups (memRead s (pressBase s) (imageSize s))⟩) ∧
      (d.begun = true → d.partner = some 0 →
        exec .drainComplete s = .next s
        ∧ ∀ (src : BitVec 14) (step : BitVec 48), consumerUp s 11 = true → fromPartner s src.toNat = true →
            step.toNat = p.step % 2 ^ 48 →
            exec (.ckptPacketReceive src false (.ack step 1)) s = .next { s with drain := some { d with partner := some 1 } }
            ∧ ∀ other : BitVec 48, other ≠ step → exec (.ckptPacketReceive src false (.ack other 1)) s = .next s) ∧
      (d.begun = true → d.partner ≠ some 0 →
        let seq := rf s F.SEAM_CK_SEQ + 1
        let ws := commitRecord s p seq d.digest
        ∃ t, exec .drainComplete s = .next t ∧ t.drain = none ∧ rf t F.SEAM_CKSTAT_DRAIN_BUSY = 0
          ∧ rf t F.SEAM_CK_SEQ = seq % 2 ^ 64 ∧ t.mem = s.mem ∧ t.press = some p
          ∧ (d.partner.isSome = true → rf t F.SEAM_CKSTAT_RES_PARTNER = 1)
          ∧ (∀ k, d.hostSlot = some k → rf t F.SEAM_CKSTAT_RES_HOST = 1
              ∧ (linkServes s = true → hostSlot s k + 256 ≤ 2 ^ 64 → hostWords t (hostSlot s k) 32 = ws)))) ∧
    (∀ d, s.drain = some d →
      (∀ partner, exec (.drainAbandon partner 2) s = .next s) ∧
      (d.partner.isSome = true →
        ∃ t, exec (.drainAbandon true 3) s = .next t ∧ t = { s with regs := t.regs, drain := t.drain }
          ∧ RegsKept s t [R.SEAM_CKSTAT] ∧ rf t F.SEAM_CKSTAT_RES_PARTNER = 3
          ∧ (d.hostSlot = none → t.drain = none ∧ rf t F.SEAM_CKSTAT_DRAIN_BUSY = 0)
          ∧ (d.hostSlot ≠ none → t.drain = some { d with partner := none })) ∧
      (d.hostSlot.isSome = true →
        ∃ t, exec (.drainAbandon false 4) s = .next t ∧ t = { s with regs := t.regs, drain := t.drain }
          ∧ RegsKept s t [R.SEAM_CKSTAT] ∧ rf t F.SEAM_CKSTAT_RES_HOST = 4
          ∧ (d.partner = none → t.drain = none ∧ rf t F.SEAM_CKSTAT_DRAIN_BUSY = 0)
          ∧ (d.partner ≠ none → t.drain = some { d with hostSlot := none })))

/-- Restore (R364 to R366), with every stored word clean. Without a partner a prepare answers at once: ACCEPT, with the
slot's cursors and key, exactly when the slot named is valid and holds the step; else REFUSE. A commit makes own state
LOADING. From a host slot, with own state within reach, it completes: own state holds the slot's image, byte for byte, and on a
matching digest its step is the last hemmed step, own state is valid and the result is DONE; on any other digest it has failed and
own state is INVALID. An abort while it runs leaves own state INVALID and no last hemmed step. -/
def Obligations.RestoreRunsItsCourse : Prop :=
  ∀ (s : State), HostReaches s → NoUpset s →
    (∀ (source : BitVec 2) (step : BitVec 48), s.steps = [] → s.restore.running = false →
      ff s F.SEAM_PEER_PARTNER_VALID = 0 →
      let k := source.toNat
      let ws := if k < 2 then [] else hostRecord s (k - 2)
      let ok := slotValid s ws = true ∧ recordStep ws = step.toNat
      ∃ t, exec (.restorePrepare source step) s = .next t ∧ t = { s with regs := t.regs, restore := t.restore }
        ∧ t.restore.asked = false ∧ t.restore.running = false
        ∧ (ok → rf t F.SEAM_RSTAT_RESULT = 2 ∧ t.restore.accepted = some k
            ∧ rdReg t R.SEAM_RCURSOR0 = ws.getD 8 0 ∧ rdReg t R.SEAM_RCURSOR1 = ws.getD 9 0
            ∧ rdReg t R.SEAM_RKEY0 = ws.getD 10 0 ∧ rdReg t R.SEAM_RKEY1 = ws.getD 11 0)
        ∧ (¬ ok → rf t F.SEAM_RSTAT_RESULT = 3 ∧ t.restore.accepted = none)) ∧
    (∀ k, s.restore.accepted = some k → rf s F.SEAM_RSTAT_RESULT = 2 → s.steps = [] → s.restore.running = false →
      ∃ t, exec .restoreCommit s = .next t ∧ t.restore = { s.restore with running := true }
        ∧ rf t F.SEAM_RSTAT_RESULT = 1 ∧ rf t F.SEAM_OSTAT_OWN = 1 ∧ t.mem = s.mem) ∧
    (∀ k, s.restore.accepted = some k → 2 ≤ k → s.restore.running = true → ownHeld s = false →
      let ws := slotRecord s k
      let a := hostSlot s (k - 2)
      let sz := ff s F.SEAM_STATE_SIZE_BYTES
      let ez := ff s F.SEAM_EFB_SIZE_BYTES
      let b0 := ff s F.SEAM_STATE_BASE
      let b1 := ff s F.SEAM_EFB_BASE
      let recs := (List.range (bitsOf (ws.getD 7 0).toNat 0 16)).map (fun i => hostWords s (a + 4096 + 128 * i) 16)
      let image := hostRead s (a + 516 * 1024) sz ++ hostRead s (a + 516 * 1024 + sz) ez
      (b0 + sz ≤ b1 ∨ b1 + ez ≤ b0) →
      ∃ t, exec .restoreComplete s = .next t ∧ t.restore.running = false ∧ t.restore.accepted = none
        ∧ (∀ i, i < sz → memGet t (b0 + i) = hostGet s (a + 516 * 1024 + i))
        ∧ (∀ i, i < ez → memGet t (b1 + i) = hostGet s (a + 516 * 1024 + sz + i))
        ∧ (∀ x, (x < b0 ∨ b0 + sz ≤ x) → (x < b1 ∨ b1 + ez ≤ x) → memGet t x = memGet s x)
        ∧ (bytesWords 8 (ckptDigest recs image) = (ws.drop 16).take 8 → rf t F.SEAM_RSTAT_RESULT = 5
            ∧ rf t F.SEAM_OSTAT_OWN = 0 ∧ rf t F.STEPSTAT_LAST_HEM_STEP = recordStep ws ∧ rf t F.STEPSTAT_LAST_HEM_VALID = 1)
        ∧ (bytesWords 8 (ckptDigest recs image) ≠ (ws.drop 16).take 8 → rf t F.SEAM_RSTAT_RESULT = 4
            ∧ rf t F.SEAM_OSTAT_OWN = 2)) ∧
    (s.restore.running = true →
      ∃ t, exec .restoreAbort s = .next t ∧ t.restore = ⟨false, none, false, []⟩ ∧ t.loadRx = none
        ∧ rf t F.SEAM_RSTAT_RESULT = 0 ∧ rf t F.SEAM_OSTAT_OWN = 2 ∧ rf t F.STEPSTAT_LAST_HEM_VALID = 0 ∧ t.mem = s.mem)

/-! ### Set-up space and the window -/

/-- Commits of shadowed fields (R191, R221, R279, R296, R346, R406, R493). A set of HBM, and a set of SEAM, OPP or ROUTE that
its rule accepts, is in force whole; after one of HBM, what waited at the controllers goes on (R220); a set that is not leaves what is in force, counts one error and has its shadows
reloaded. A ROUTE set that moves the routing epoch makes the table of the new epoch ACTIVE. An accepted SSTORE set of a
partition is in force, or pending until the partition is quiet; then it is applied and no longer pending, once the cache has been
written back and is empty where a change into or out of CACHE waits. -/
def Obligations.CommitsPutShadowsInForce : Prop :=
  ∀ (s : State), HostReaches s →
    let modes := (List.range 16).map (fun p => rf s (F.SSTORE_PCFG_MODE p))
    let inForceNow := fun (t : State) (as : List Nat) => ∀ a, inForce t a = if a ∈ as then rdReg s a else inForce s a
    let discarded := fun (t : State) (as : List Nat) => t = { s with regs := t.regs }
      ∧ rf t F.SETUP_ERR_COUNT = (rf s F.SETUP_ERR_COUNT + 1) % 2 ^ 64
      ∧ ∀ a ∈ as, (rdReg t a).toNat &&& shadowMask a = (inForce s a).toNat &&& shadowMask a
    (∃ t, exec .groupCommitHbm s = .next t ∧ inForceNow t hbmRegs ∧ t.mem = s.mem
      ∧ (s.upds = [] → (∀ x, s.xfer = some x → x.waiting = false) → t = { s with force := t.force })) ∧
    (seamSetOk s = true → ∃ t, exec .groupCommitSeam s = .next t
      ∧ t = { s with force := t.force, bondSeq := t.bondSeq, bondRx := t.bondRx } ∧ inForceNow t seamRegs) ∧
    (seamSetOk s = false → ∃ t, exec .groupCommitSeam s = .next t ∧ discarded t seamRegs) ∧
    (oppSetOk s = true → ∃ t, exec .groupCommitOpp s = .next t ∧ t = { s with force := t.force } ∧ inForceNow t oppRegs) ∧
    (oppSetOk s = false → ∃ t, exec .groupCommitOpp s = .next t ∧ discarded t oppRegs) ∧
    (routeSetOk s = true →
      let e := rf s F.ROUTE_CTL_EPOCH
      ∃ t, exec .groupCommitRoute s = .next t ∧ inForceNow t routeRegs ∧ t.mem = s.mem ∧ t.steps = s.steps
        ∧ ((e ≠ ff s F.ROUTE_CTL_EPOCH ∨ activeBit s = none) → tableState t e = 1)) ∧
    (routeSetOk s = false → ∃ t, exec .groupCommitRoute s = .next t ∧ discarded t routeRegs) ∧
    (((rf s F.SSTORE_PSTAT_PENDING = 0 ∧ 3 ∉ modes ∧ 2 ∈ modes) →
        ∃ t, exec .groupCommitSstore s = .next t ∧ RegsKept s t [R.SSTORE_PSTAT] ∧ t.host = s.host
          ∧ ∀ p, p < 16 →
            (inForce t (R.SSTORE_PCFG p) = rdReg s (R.SSTORE_PCFG p) ∧ bitsOf (rf t F.SSTORE_PSTAT_PENDING) p 1 = 0)
              ∨ (inForce t (R.SSTORE_PCFG p) = inForce s (R.SSTORE_PCFG p)
                ∧ (p, rdReg s (R.SSTORE_PCFG p)) ∈ t.partPend ∧ bitsOf (rf t F.SSTORE_PSTAT_PENDING) p 1 = 1)) ∧
      (¬ (rf s F.SSTORE_PSTAT_PENDING = 0 ∧ 3 ∉ modes ∧ 2 ∈ modes) →
        ∃ t, exec .groupCommitSstore s = .next t ∧ discarded t sstoreRegs)) ∧
    (∀ (p : Fin 16) (v : Word), s.partPend.find? (fun e => e.1 == p.val) = some (p.val, v) →
      partQuiet (if cacheChanging s then flushCache s else s) p.val v = true →
      bitsOf (rf s F.SSTORE_PSTAT_PENDING) p.val 1 = 1 →
      let lo := 0xF00000000000 + p.val * 0x1000000
      let cleared := ff s (F.SSTORE_PCFG_MODE p.val) ≠ 1 ∧ bitsOf v.toNat 0 2 = 1
      ∃ t, exec (.partitionQuietApply p) s = .next t ∧ inForce t (R.SSTORE_PCFG p.val) = v
        ∧ (∀ e ∈ t.partPend, e.1 ≠ p.val) ∧ bitsOf (rf t F.SSTORE_PSTAT_PENDING) p.val 1 = 0
        ∧ (∀ q, q < 16 → q ≠ p.val → bitsOf (rf t F.SSTORE_PSTAT_PENDING) q 1 = bitsOf (rf s F.SSTORE_PSTAT_PENDING) q 1)
        ∧ t.cache = (if cacheChanging s then [] else s.cache)
        ∧ (cleared → ∀ a, lo ≤ a → a < lo + 0x1000000 → memGet t a = 0)
        ∧ ∀ a, (¬ cleared ∨ a < lo ∨ lo + 0x1000000 ≤ a) → memGet t a = memGet s a)

/-- Writes of set-up space by the host (R11, R477, R479, R482, R487, R489). A write that meets no check and no trigger sets
the RW bits to its value, clears the W1C bits it writes as 1, leaves every other bit and every other register; a write of the
wrong size, to an address where nothing lies, or before the device is ready, changes no register but the error ones and is
counted. STEPCFG.CTL is refused while a step is live. -/
def Obligations.SetupWritesObeyTheirFields : Prop :=
  ∀ (s : State), linkUp s = true →
    (∀ (addr : BitVec 24) (value : BitVec 64) (r : RegRow),
      let a := addr.toNat
      let old := rdReg s a
      regRow? a = some r → a % 8 = 0 → notReady s = false → plainReg a = true →
      value.toNat &&& (2 ^ 64 - 1 - (r.rw ||| r.w1c ||| r.wo ||| r.ro)) = 0 →
      writeRefused s a (old.toNat &&& r.rw) ((old.toNat - (old.toNat &&& r.rw) + (value.toNat &&& r.rw)) &&& r.rw) = false →
      ∃ t, exec (.setupRegisterWrite addr 8 value) s = .next t ∧ t = { s with regs := t.regs, out := t.out } ∧ RegsKept s t [a]
        ∧ ∀ i, i < 64 → (rdReg t a).getLsbD i
            = if r.rw.testBit i then value.getLsbD i
              else if r.w1c.testBit i && value.getLsbD i then false else old.getLsbD i) ∧
    (∀ (addr : BitVec 24) (size : BitVec 4) (value : BitVec 64),
      let a := addr.toNat / 8 * 8
      let sized := (size = 8 ∧ addr.toNat % 8 = 0) ∨ (size = 4 ∧ addr.toNat % 4 = 0)
      (¬ sized ∨ mapped a = false ∨ (notReady s = true ∧ ¬ (0x1000 ≤ a ∧ a < 0x3000))) →
      ∃ t, exec (.setupRegisterWrite addr size value) s = .next t ∧ t = { s with regs := t.regs, out := t.out }
        ∧ RegsKept s t [R.SETUP_ERR, R.SETUP_ERR_COUNT]
        ∧ rf t F.SETUP_ERR_COUNT = (rf s F.SETUP_ERR_COUNT + 1) % 2 ^ 64
        ∧ (rf s F.SETUP_ERR_FLAG = 0 → rf t F.SETUP_ERR_FLAG = 1 ∧ rf t F.SETUP_ERR_SRC = 0 ∧ rf t F.SETUP_ERR_ADDR = a
            ∧ rf t F.SETUP_ERR_CAUSE = (if ¬ sized then 6 else if mapped a = false then 5 else 7))) ∧
    (∀ value : BitVec 64, notReady s = false → value.toNat < 2 ^ 7 →
      ((s.steps = [] ∧ ∀ c, c < 64 → ∀ r, r < 4 → ringOn s c r = false) →
        ∃ t, exec (.stepcfgWrite 0 value) s = .next t ∧ t = { s with regs := t.regs } ∧ RegsKept s t [R.STEPCFG_CTL]
          ∧ rf t F.STEPCFG_CTL_STEP_CTX = bitsOf value.toNat 0 6 ∧ rf t F.STEPCFG_CTL_OVERLAP = bitsOf value.toNat 6 1) ∧
      (s.steps ≠ [] →
        ∃ t, exec (.stepcfgWrite 0 value) s = .next t ∧ t = { s with regs := t.regs }
          ∧ RegsKept s t [R.SETUP_ERR, R.SETUP_ERR_COUNT]
          ∧ rf t F.SETUP_ERR_COUNT = (rf s F.SETUP_ERR_COUNT + 1) % 2 ^ 64)) ∧
    (∀ value : BitVec 64, notReady s = false → s.steps = [] →
      ((value.toNat < 2 ^ 48 ∧ value.toNat % 2 ^ 20 = 0
          ∧ value.toNat + rf s F.STEPCFG_KEEP_SIZE_MIB * 2 ^ 20 ≤ 0xBFC0000000) →
        ∃ t, exec (.stepcfgWrite 1 value) s = .next t ∧ t = { s with regs := t.regs } ∧ RegsKept s t [R.STEPCFG_KEEP_BASE]
          ∧ rf t F.STEPCFG_KEEP_BASE_ADDR = value.toNat) ∧
      ((value.toNat < 2 ^ 32 ∧ rf s F.STEPCFG_KEEP_BASE_ADDR + value.toNat * 2 ^ 20 ≤ 0xBFC0000000) →
        ∃ t, exec (.stepcfgWrite 2 value) s = .next t ∧ t = { s with regs := t.regs } ∧ RegsKept s t [R.STEPCFG_KEEP_SIZE]
          ∧ rf t F.STEPCFG_KEEP_SIZE_MIB = value.toNat))

/-- The device memory window (R371 to R376), with the host link up, memory served and nothing held back at the controllers. A read
within it answers the bytes, line by line in the CXL modes (R375), in overlap mode those of the weight version of the last hemmed step (R43); while the own update holds
reads, one of the state window is held and counted. A write within it stores its bytes and no other; one that reaches the state
window while it is locked is dropped and counted. Beyond the window an access is answered as unsupported in a PCIe mode. Stated with
every stored word clean. -/
def Obligations.WindowReadsAndWrites : Prop :=
  ∀ (s : State), linkUp s = true → s.memUp = true → NoUpset s →
    (∀ (addr : BitVec 48) (len : BitVec 12), len ≠ 0 →
      let a := addr.toNat
      let n := len.toNat
      (a + n ≤ windowEnd → accessHeld s windowTraffic (byteRun a n) = false →
        ((inStateWindow s a n = false ∨ (s.ownBad = false ∧ s.winHold = false)) →
          let bytes := fun (a n : Nat) => (List.range n).map (fun i => memGet s (windowAddr s.groups s (a + i)))
          (∃ t, exec (.windowRead addr len) s = .next t
            ∧ t = { afterAccess s t with out := s.out ++ (windowParts s a n).map (fun p => .windowData p.1 (bytes p.1 p.2)) }
            ∧ RegsKept s t accessRegs)
          ∧ (windowParts s a n).flatMap (fun p => bytes p.1 p.2) = bytes a n
          ∧ (rf s F.STEPCFG_CTL_OVERLAP = 0 → bytes a n = memRead s a n)) ∧
        (inStateWindow s a n = true → s.ownBad = false → s.winHold = true →
          ∃ t, exec (.windowRead addr len) s = .next t ∧ t = { s with regs := t.regs, heldReads := s.heldReads ++ [(a, n)] }
            ∧ RegsKept s t [R.HIF_WIN_RD_HELD] ∧ rf t F.HIF_WIN_RD_HELD = (rf s F.HIF_WIN_RD_HELD + 1) % 2 ^ 64)) ∧
      (windowEnd < a + n → linkCxl s = false → exec (.windowRead addr len) s = .next (emit (.windowUr a) s))) ∧
    (∀ (addr : BitVec 48) (bytes : List Byte), bytes ≠ [] →
      let a := addr.toNat
      let n := bytes.length
      (a + n ≤ windowEnd → ¬ (inStateWindow s a n = true ∧ windowLocked s = true) →
        accessHeld s windowTraffic (byteRun a n) = false →
        ∃ t, exec (.windowWrite addr bytes) s = .next t ∧ t = { afterAccess s t with mem := t.mem, pushed := t.pushed }
          ∧ RegsKept s t accessRegs
          ∧ (∀ i, i < n → memGet t (a + i) = bytes.getD i 0) ∧ ∀ x, (x < a ∨ a + n ≤ x) → memGet t x = memGet s x) ∧
      (a + n ≤ windowEnd → inStateWindow s a n = true → windowLocked s = true →
        ∃ t, exec (.windowWrite addr bytes) s = .next t ∧ t = { s with regs := t.regs }
          ∧ RegsKept s t [R.HIF_WIN_WR_DROP, R.SETUP_ERR, R.SETUP_ERR_COUNT]
          ∧ rf t F.HIF_WIN_WR_DROP = (rf s F.HIF_WIN_WR_DROP + 1) % 2 ^ 64))

/-! ### Lint, memory checks and the traffic generator -/

/-- Lint (R241 to R254). An item that may run now, in the turn of its unit and within its share or forced by its deadline, whose input is
clean and within reach, lends its unit with the step then live; one that ends well returns the unit, is counted and recorded with that step; one whose CRC does not
match is counted as a failure and holds the earliest suspect step; a deadline that has passed is counted once. A pack is read from
host memory by LOAD, and once the reserved range can take it its check shows a result; with result 1 it is installed. -/
def Obligations.LintRunsItems : Prop :=
  ∀ (s : State),
    (∀ (unit item : BitVec 16),
      rf s F.LINT_CTL_ENABLE = 1 → s.cmpUp = true → unitExists unit.toNat = true →
      item.toNat < packCount s.lintPack (unitKind unit.toNat) → lendable s unit.toNat = true →
      itemMayRun s unit.toNat (unitKind unit.toNat) item.toNat = true → NoUpset s →
      let u := unit.toNat
      let i := itemReads s (unitKind u) item.toNat
      accessHeld s .lint (byteRun i.1 i.2) = false →
      ∃ t, exec (.lintItemStart unit item) s = .next t
        ∧ t = { afterAccess s t with lent := t.lent, lintHead := t.lintHead, lintAt := t.lintAt, lintTurn := t.lintTurn,
                                     lintStart := t.lintStart, eng := t.eng }
        ∧ t.lent = s.lent ++ [⟨u, unitKind u, item.toNat, s.steps.head?.map (·.num), true, lentEngine s u, aonNs s, none⟩]
        ∧ RegsKept s t (R.LINT_FORCED :: R.LINT_LENT_CYCLES :: accessRegs)
        ∧ rf t F.LINT_FORCED = (rf s F.LINT_FORCED + (unitWanted s u).toNat) % 2 ^ 64
        ∧ rf t F.LINT_LENT_CYCLES = (rf s F.LINT_LENT_CYCLES + itemCycles s.lintPack (unitKind u) item.toNat) % 2 ^ 64) ∧
    (∀ (unit : BitVec 16) (l : Lent), s.lent.find? (fun l => l.unit == unit.toNat) = some l → l.newPack = true →
      (∃ t, exec (.lintItemComplete unit true) s = .next t
        ∧ t = { afterAccess s t with lent := t.lent, lintRan := t.lintRan, lintRecs := t.lintRecs, lintOld := t.lintOld,
                                     lintUsed := t.lintUsed }
        ∧ t.lent = s.lent.filter (fun x => x.unit != l.unit) ∧ RegsKept s t (R.LINT_RUNS :: accessRegs)
        ∧ rf t F.LINT_RUNS = (rf s F.LINT_RUNS + 1) % 2 ^ 64 ∧ ⟨l.unit, l.item, l.kind, l.step, true⟩ ∈ t.lintRecs) ∧
      (∃ t, exec (.lintItemComplete unit false) s = .next t ∧ t.lent = s.lent.filter (fun x => x.unit != l.unit)
        ∧ rf t F.LINT_RUNS = (rf s F.LINT_RUNS + 1) % 2 ^ 64 ∧ rf t F.LINT_FAILS = (rf s F.LINT_FAILS + 1) % 2 ^ 64
        ∧ t.mem = s.mem ∧ t.steps = s.steps
        ∧ ∀ n, suspectStep s true l.first l.unit l.kind l.item = some n → n < 2 ^ 48 → rf t F.LINT_SUSPECT_VALID = 1
            ∧ (rf s F.LINT_SUSPECT_VALID = 0 → rf t F.LINT_SUSPECT_STEP = n)
            ∧ (rf s F.LINT_SUSPECT_VALID = 1 → rf t F.LINT_SUSPECT_STEP = min n (rf s F.LINT_SUSPECT_STEP)))) ∧
    (∀ (unit item : BitVec 16),
      let u := unit.toNat
      let last := lastStart s u (unitKind u) item.toNat
      s.cmpUp = true → unitExists u = true → item.toNat < packCount s.lintPack (unitKind u) → unitDisabled s u = false →
      last.2 = false → last.1 + 1000000 * rf s F.LINT_CFG_PERIOD_MS < aonNs s →
      ∃ t, exec (.lintDeadlineMiss unit item) s = .next t ∧ rf t F.LINT_LATE = (rf s F.LINT_LATE + 1) % 2 ^ 64
        ∧ lastStart t u (unitKind u) item.toNat = (last.1, true) ∧ t.lent = s.lent ∧ t.mem = s.mem
        ∧ (rf s F.LINT_CTL_ENABLE = 0 → t = { s with regs := t.regs, lintStart := t.lintStart } ∧ RegsKept s t [R.LINT_LATE])) ∧
    (HostReaches s → rf s F.LINT_STAT_BUSY = 0 → s.memUp = true →
      let a := rf s F.LINT_PACK_ADDR
      ∃ t, exec .lintPackLoad s = .next t
        ∧ t = { s with regs := t.regs, lintNew := some (hostRead s a (packLength (hostRead s a 512))) }
        ∧ RegsKept s t [R.LINT_STAT] ∧ rf t F.LINT_STAT_BUSY = 1) ∧
    (∀ p, s.lintNew = some p → accessHeld s .other (packWrites p) = false →
      ∃ t, exec .lintPackLoadComplete s = .next t ∧ t.lintNew = none ∧ rf t F.LINT_STAT_BUSY = 0
        ∧ rf t F.LINT_STAT_LOAD_RESULT = packResult s p ∧ t.mem = s.mem
        ∧ (packResult s p = 1 → t.lintPack = p.take (packLength p) ∧ rf t F.LINT_STAT_VERSION = packVersion p ∧ t.lintRecs = []
            ∧ t.lintOld = s.lintOld ++ s.lintRecs ∧ ∀ l ∈ t.lent, l.newPack = false)
        ∧ (packResult s p ≠ 1 → t.lintPack = s.lintPack ∧ t.lintRecs = s.lintRecs ∧ t.lent = s.lent))

/-- Patrol scrub, the threshold of corrections and the traffic generator (R214, R215, R217, R227 to R229, R235). The scrubber takes
the next word of HBM, in turn: it leaves a clean word alone, clears a check-bit error and counts it, corrects a data bit in place,
and counts an uncorrectable word without changing what is stored; stated for a word that no cache line holds, while the regulator
issues. A second of counting
ends with every count 0. A run of the generator starts when it is armed and no ring is enabled, with its registers latched and its
record cleared; a read-only run that meets no error ends with BUSY clear, no error counted and its bytes under regulator SCRUB; one
that writes and reads back ends with its data in every word of its span, in each of its channels, and each word found different
counted. -/
def Obligations.MemoryIsScrubbedAndTested : Prop :=
  ∀ (s : State),
    (let w := s.scrubAt
     rf s F.HBM_SCRUB_PERIOD ≠ 0 → s.memUp = true → tripped s = false →
      regHeld s 13 (64 * (w / 8)) = false → inSram s w = false →
      let moved := fun (t : State) => t.scrubAt = (w + 1) % (0x00C000000000 / 8)
      (tackClassify (synGet s w) = .clean →
        ∃ t, exec .patrolScrub s = .next t ∧ t = { afterAccess s t with scrubAt := t.scrubAt } ∧ moved t
          ∧ RegsKept s t accessRegs) ∧
      (tackClassify (synGet s w) = .checkBit →
        ∃ t, exec .patrolScrub s = .next t
          ∧ t = { afterAccess s t with syn := t.syn, ceCount := t.ceCount, scrubAt := t.scrubAt } ∧ moved t
          ∧ synGet t w = 0 ∧ (∀ v, v ≠ w → synGet t v = synGet s v)
          ∧ RegsKept s t (R.HBM_CORR :: accessRegs) ∧ rf t F.HBM_CORR = (rf s F.HBM_CORR + 1) % 2 ^ 64) ∧
      (∀ i, tackClassify (synGet s w) = .dataBit i → i < 64 →
        ∃ t, exec .patrolScrub s = .next t ∧ moved t ∧ synGet t w = 0 ∧ rf t F.HBM_CORR = (rf s F.HBM_CORR + 1) % 2 ^ 64
          ∧ memGet t (8 * w + i / 8) = memGet s (8 * w + i / 8) ^^^ BitVec.ofNat 8 (2 ^ (i % 8))
          ∧ ∀ a, a ≠ 8 * w + i / 8 → memGet t a = memGet s a) ∧
      (tackClassify (synGet s w) = .uncorrectable →
        ∃ t, exec .patrolScrub s = .next t ∧ moved t ∧ t.mem = s.mem ∧ t.syn = s.syn
          ∧ rf t F.HBM_UNCORR = (rf s F.HBM_UNCORR + 1) % 2 ^ 64 ∧ rf t F.HBM_UNCORR_ADDR_VALID = 1)) ∧
    (∃ t, exec .ceThresholdSecond s = .next t ∧ t.ceCount = [] ∧ t.mem = s.mem ∧ t.syn = s.syn ∧ t.steps = s.steps
      ∧ (rf s F.TACK_CE_THRESH_COUNT = 0 → t = { s with ceCount := [] })) ∧
    (HostReaches s → rf s F.HBM_TG_CTL_ARM = 1 → (∀ c, c < 64 → ∀ r, r < 4 → ringOn s c r = false) →
      ∃ t, exec .tgStart s = .next t
        ∧ t = { s with regs := t.regs, tgBusy := true, tgRun := some ⟨rf s F.HBM_TG_CFG_DIR, rf s F.HBM_TG_CFG_PATTERN,
                  rf s F.HBM_TG_CFG_ORDER, rf s F.HBM_TG_CFG_SEED, tgSpan s, tgChannels s⟩ }
        ∧ rf t F.HBM_TG_CTL_BUSY = 1
        ∧ rf t F.HBM_TG_ERRCNT = 0 ∧ rdReg t R.HBM_TG_FIRST = 0 ∧ ∀ h, h < 8 → rf t (F.HBM_TG_FAIL_CHANNELS h) = 0) ∧
    (HostReaches s → rf s F.HBM_TG_CTL_ARM = 0 →
      ∃ t, exec .tgStart s = .next t ∧ t = { s with regs := t.regs } ∧ RegsKept s t [R.SETUP_ERR, R.SETUP_ERR_COUNT]
        ∧ rf t F.SETUP_ERR_COUNT = (rf s F.SETUP_ERR_COUNT + 1) % 2 ^ 64) ∧
    (∀ (fails : List (Fin 8 × Fin 32 × BitVec 32)) (r : TgRun), s.tgRun = some r → s.tgBusy = true → tripped s = false → tgHeld s r = false →
      (r.dir = 1 → s.syn = [] → (∀ c ∈ s.cache, c.underSyn = []) →
        ∃ t, exec (.tgRunComplete fails) s = .next t ∧ t = { s with regs := t.regs, tgBusy := false, tgRun := none }
          ∧ RegsKept s t [R.HBM_TG_CTL, R.HBM_REGBYTES 13] ∧ rf t F.HBM_TG_CTL_BUSY = 0
          ∧ rf t (F.HBM_REGBYTES 13) = (rf s (F.HBM_REGBYTES 13) + r.span * r.chans.length) % 2 ^ 64) ∧
      (r.dir = 0 → (∀ c ∈ r.chans, c.1 < 8 ∧ c.2 < 32) →
        let found := (fails.map (fun f => (f.1.val, f.2.1.val, f.2.2.toNat))).filter (tgCovers r)
        ∃ t, exec (.tgRunComplete fails) s = .next t ∧ rf t F.HBM_TG_CTL_BUSY = 0 ∧ t.tgBusy = false ∧ t.tgRun = none
          ∧ rf t F.HBM_TG_ERRCNT = (rf s F.HBM_TG_ERRCNT + found.length) % 2 ^ 64
          ∧ rf t (F.HBM_REGBYTES 15) = (rf s (F.HBM_REGBYTES 15) + r.span * r.chans.length * 2) % 2 ^ 64
          ∧ (∀ f ∈ found, bitsOf (rf t (F.HBM_TG_FAIL_CHANNELS f.1)) f.2.1 1 = 1)
          ∧ (found = [] → ∀ c ∈ r.chans, ∀ k, 8 * k + 8 ≤ r.span →
              memNat t (channelAddr c.1 c.2 (8 * k)) 8 = tgWord r c.1 c.2 (8 * k) % 2 ^ 64
                ∧ synGet t (channelAddr c.1 c.2 (8 * k) / 8) = 0)))

/-! ### Power, clocks and temperatures -/

/-- The split of the module cap (R413 to R415), with RTR clocked: the estimates are those of the activities, DUTY is the
largest n of 64 parts whose power fits the CMP allowance, at most 32 at the temperature limit and 1 where the cap is
infeasible, and the allowance is the cap less what comes before CMP. -/
def Obligations.PowerAllocationSplitsTheCap : Prop :=
  ∀ (s : State) (link mem cmp : BitVec 17), clocked s = true →
    let fixed := (estimate s 0 0).1
    let l := estimate s 1 link.toNat
    let m := estimate s 2 mem.toNat
    let c := estimate s 3 cmp.toNat
    let floor := rf s F.PWR_CAP_CFG_CMP_FLOOR_W
    let bad := capNow s < fixed + (l.1 + l.2) + floor
    let memAllow := min (m.1 + m.2) (capNow s - fixed - (l.1 + l.2) - floor)
    let allow := capNow s - fixed - (l.1 + l.2) - memAllow
    let part := if bad then 1 else largestPart c.1 c.2 (allow - s.cmpEntry * s.cmpCut / 100)
    ∃ t, exec (.powerAllocation link mem cmp) s = .next t ∧ t.cmpAllow = allow
      ∧ rf t F.PWR_STAT_DUTY = (if rf s F.PWR_TJ_STAT_AT_LIMIT = 1 then min 32 part else part)
      ∧ rf t F.PWR_STAT_MEM_LIMIT = largestPart m.1 m.2 memAllow
      ∧ (rf t F.PWR_STAT_INFEASIBLE = 1 ↔ bad)
      ∧ rf t F.PWR_EST_CMP_W = (c.1 + c.2) % 2 ^ 16 ∧ rf t F.PWR_EST_MEM_W = (m.1 + m.2) % 2 ^ 16
      ∧ (¬ bad → rf s F.PWR_STAT_INFEASIBLE = 0 →
          t = { s with regs := t.regs, energyUj := t.energyUj, cmpAllow := t.cmpAllow, capSince := t.capSince })
      ∧ t.mem = s.mem ∧ t.steps = s.steps

/-- Operating points (R406, R408 to R412, R417, R418, R502). A selection of no sprint entry, with no sprint granted, that has held and is
not what the device runs or turns to: its entry of the committed table begins a ramp, with the higher set-point sent first, or is
deferred while droop holds. Each step moves ROOT by 25 MHz towards its entry, and the last one puts the entry in force. The settling of
the regulator gives the first step. A sprint that may be granted is counted and turned to, with its fallback kept; one that may not is
counted as refused, and its fallback is run in its place. The frame in force is sent again. A sprint that must end (R418) and is not yet
left turns to its fallback entry, whatever droop holds; one that need not goes on. -/
def Obligations.RampsMoveInSteps : Prop :=
  ∀ (s : State),
    (∀ entry : Fin 16, clocked s = true → selection s = entry.val → s.sprintRefused ≠ some entry.val →
      let e := entOf s entry.val
      goal s ≠ e →
      (entSprint e = false → s.sprint = none →
        (droopHolds s = false → s.vcore < entVcore e →
          ∃ t, exec (.oppSelectionHeld entry) s = .next t ∧ t.oppTarget = some e ∧ t.oppNext = none ∧ t.rampWait = true
            ∧ t.vcore = entVcore e ∧ t.out = s.out ++ [.vrc (vrcFrame (entVcore e))] ∧ rf t F.CLK_STAT_RAMPING = 1
            ∧ rf t F.CLK_STAT_ENTRY = rf s F.CLK_STAT_ENTRY ∧ rf t F.CLK_STAT_ROOT_MHZ = rf s F.CLK_STAT_ROOT_MHZ) ∧
        (droopHolds s = true →
          ∃ t, exec (.oppSelectionHeld entry) s = .next t
            ∧ t = { s with regs := t.regs, oppNext := some e, deferSince := t.deferSince } ∧ RegsKept s t [R.CLK_STAT]
            ∧ rf t F.CLK_STAT_DEFERRED = 1 ∧ rf t F.CLK_STAT_ROOT_MHZ = rf s F.CLK_STAT_ROOT_MHZ)) ∧
      (entSprint e = true →
        let f := entOf s (fldOf e.word (F.OPP_ENT_FALLBACK 0))
        (sprintOk s = true → droopHolds s = true →
          ∃ t, exec (.oppSelectionHeld entry) s = .next t ∧ t.sprint = some f ∧ t.oppNext = some e ∧ rf t F.CLK_STAT_DEFERRED = 1
            ∧ rf t F.PWR_SPRINT_GRANTED = (rf s F.PWR_SPRINT_GRANTED + 1) % 2 ^ 64) ∧
        (sprintOk s = false → s.sprint = none → goal s ≠ f → droopHolds s = true →
          ∃ t, exec (.oppSelectionHeld entry) s = .next t ∧ t.sprintRefused = some entry.val ∧ t.oppNext = some f
            ∧ rf t F.PWR_SPRINT_REFUSED = (rf s F.PWR_SPRINT_REFUSED + 1) % 2 ^ 64))) ∧
    (∀ e, s.oppTarget = some e → s.oppNext = none → entSprint e = false → s.sprint = none → droopHolds s = false → e.entry < 16 →
      let f := rf s F.CLK_STAT_ROOT_MHZ
      let g := entMhz e
      let stepped := fun (t : State) =>
        rf t F.CLK_STAT_ROOT_MHZ = (if f < g then f + 25 else f - 25) ∧ t.mem = s.mem ∧ t.force = s.force
          ∧ (rf t F.CLK_STAT_ROOT_MHZ = g → rf t F.CLK_STAT_ENTRY = e.entry ∧ t.oppWord = e.word ∧ rf t F.CLK_STAT_RAMPING = 0
              ∧ t.oppTarget = none)
          ∧ (rf t F.CLK_STAT_ROOT_MHZ ≠ g → t.oppTarget = some e ∧ t.oppWord = s.oppWord
              ∧ rf t F.CLK_STAT_ENTRY = rf s F.CLK_STAT_ENTRY)
      (rf s F.CLK_STAT_RAMPING = 1 → s.rampWait = false → f ≠ g → f < 4500 → ∃ t, exec .rampStep s = .next t ∧ stepped t) ∧
      (s.rampWait = true → f ≠ g → f < 4500 → ∃ t, exec .vrSettleExpire s = .next t ∧ t.rampWait = false ∧ stepped t)) ∧
    (s.vcore ≠ 0 → exec .vrcFrameRepeat s = .next { s with out := s.out ++ [.vrc (vrcFrame s.vcore)] }) ∧
    (sprintDue s = false → exec .sprintEnd s = .next s) ∧
    (∀ f, s.sprint = some f → sprintDue s = true → leaving s = false →
      s.vcore ≥ entVcore f → entMhz f < rf s F.CLK_STAT_ROOT_MHZ →
      ∃ t, exec .sprintEnd s = .next t
        ∧ t = { s with regs := t.regs, oppTarget := some f, oppNext := none, rampHard := true, rampWait := false,
                       sprintRefused := t.sprintRefused }
        ∧ rf t F.CLK_STAT_RAMPING = 1 ∧ rf t F.CLK_STAT_DEFERRED = 0
        ∧ (isSprint s (selection s) = true → t.sprintRefused = some (selection s)))

/-- Droop, Steam gaps and clocks (R405, R411, R412, R419). A droop stretches the clock, counts once and defers a ramp that
may pause; the end of a stretch counts its cycles; the end of the quiet time counts the ns paused, takes the ramp up
again and begins a change that was deferred. A Steam gap clock-gates one quad more, in the order Q3 to Q0, and the engine after four. CTLCLK moves to ROOT only while the
PLL is locked. -/
def Obligations.DroopSteamAndClocks : Prop :=
  ∀ (s : State),
    (clocked s = true → s.stretched = false →
      ∃ t, exec .droopDetect s = .next t ∧ t = { s with regs := t.regs, droopLow := true, quiet := false, stretched := true, deferSince := t.deferSince }
        ∧ rf t F.PWR_DROOP_EVENTS = (rf s F.PWR_DROOP_EVENTS + 1) % 2 ^ 64
        ∧ (rf s F.CLK_STAT_RAMPING = 1 → s.rampHard = false → rf t F.CLK_STAT_DEFERRED = 1
            ∧ t.deferSince = (if rf s F.CLK_STAT_DEFERRED = 1 then s.deferSince else aonNs s))) ∧
    (clocked s = true → s.stretched = true → rf s F.CLK_STAT_RAMPING = 0 →
      exec .droopDetect s = .next { s with droopLow := true, quiet := false }) ∧
    (∀ cycles : BitVec 64, s.stretched = true →
      ∃ t, exec (.droopStretchEnd cycles) s = .next t ∧ t = { s with regs := t.regs, stretched := false, droopLow := false }
        ∧ RegsKept s t [R.PWR_STRETCH_CYCLES]
        ∧ rf t F.PWR_STRETCH_CYCLES = (rf s F.PWR_STRETCH_CYCLES + cycles.toNat) % 2 ^ 64) ∧
    (s.droopLow = false → s.quiet = false →
      (s.oppNext = none ∨ s.rampHard = true →
        ∃ t, exec .droopQuietExpire s = .next t ∧ t = { s with regs := t.regs, quiet := true }
          ∧ rf t F.CLK_STAT_DEFERRED = 0
          ∧ rf t F.CLK_PAUSE_NS = (rf s F.CLK_PAUSE_NS + rf s F.CLK_STAT_DEFERRED * (aonNs s - s.deferSince)) % 2 ^ 64) ∧
      (∀ e, s.oppNext = some e → s.rampHard = false → s.vcore < entVcore e → s.sprint = none →
        ∃ t, exec .droopQuietExpire s = .next t ∧ t.quiet = true ∧ t.oppTarget = some e ∧ t.oppNext = none ∧ t.rampWait = true
          ∧ t.vcore = entVcore e ∧ rf t F.CLK_STAT_RAMPING = 1 ∧ rf t F.CLK_STAT_DEFERRED = 0)) ∧
    (∀ (bay : Fin 20) (me : Fin 8), (engRt s bay.val me.val).steam = true →
      let g := gateNext (engRt s bay.val me.val).gated
      ∃ t, exec (.steamGapExpire bay me) s = .next t ∧ t = { s with eng := t.eng }
        ∧ engRt t bay.val me.val = ⟨g != allQuads, g⟩
        ∧ ∀ b m, 8 * b + m ≠ 8 * bay.val + me.val → engRt t b m = engRt s b m) ∧
    (∀ root : BitVec 1, HostReaches s →
      ((root = 0 ∨ rf s F.CLK_STAT_ROOT_LOCK = 1) →
        ∃ t, exec (.ctlclkSourceSelect root) s = .next t ∧ t = { s with regs := t.regs } ∧ RegsKept s t [R.CLK_CTL]
          ∧ rf t F.CLK_CTL_SRC = root.toNat) ∧
      (root = 1 → rf s F.CLK_STAT_ROOT_LOCK = 0 →
        ∃ t, exec (.ctlclkSourceSelect root) s = .next t ∧ t = { s with regs := t.regs }
          ∧ RegsKept s t [R.SETUP_ERR, R.SETUP_ERR_COUNT]
          ∧ rf t F.SETUP_ERR_COUNT = (rf s F.SETUP_ERR_COUNT + 1) % 2 ^ 64))

/-- Temperatures (R222, R224, R422, R424). A junction reading shows the hottest sensor; at 120 °C and above the device stops,
drives THERMTRIP_N low and sets TRIP_STOP; from 95 °C by default it throttles. A stack reading is shown; at 85 °C its refresh
doubles and at 105 °C its trip bit is set. -/
def Obligations.TemperaturesAct : Prop :=
  ∀ (s : State), s.rtrUp = true →
    (∀ temps : List (BitVec 8), temps.length = 48 →
      let hot := temps.foldl (fun m x => max m x.toNat) 0
      (hot < 120 →
        ∃ t, exec (.junctionRead (temps.map some)) s = .next t ∧ rf t F.PWR_TJ_STAT_MAX = hot ∧ t.mem = s.mem ∧ t.steps = s.steps
          ∧ t.folded = s.folded
          ∧ (tjTarget s ≤ hot → rf t F.PWR_TJ_STAT_THROTTLE = 1 ∧ t.cmpCut = min 100 (s.cmpCut + 2))
          ∧ (hot < tjTarget s → t.cmpCut = s.cmpCut - 1)
          ∧ (tjLimit s ≤ hot → rf t F.PWR_TJ_STAT_AT_LIMIT = 1 ∧ rf t F.PWR_STAT_DUTY = min 32 (rf s F.PWR_STAT_DUTY))) ∧
      (120 ≤ hot →
        ∃ t, exec (.junctionRead (temps.map some)) s = .next t ∧ t.folded = true ∧ t.tripLow = true
          ∧ rf t F.PWR_AON_TRIP_STOP = 1 ∧ t.cmpUp = false ∧ t.memUp = false ∧ t.hifUp = false ∧ t.rtrUp = false
          ∧ t.flash = s.flash)) ∧
    (∀ temps : List (BitVec 8), temps.length = 8 → (∀ x ∈ temps, x.toNat < 110) → s.tripPend = false →
      ∃ t, exec (.stackTempRead (temps.map some)) s = .next t
        ∧ (∀ k, k < 8 → bitsOf (rdReg t R.HBM_TEMP).toNat (8 * k) 8 = (temps.getD k 0).toNat
            ∧ (85 ≤ (temps.getD k 0).toNat → bitsOf (rf t F.HBM_TSTAT_REFRESH2X) k 1 = 1)
            ∧ (95 ≤ (temps.getD k 0).toNat → bitsOf (rf t F.HBM_TSTAT_CUT) k 1 = 1)
            ∧ (105 ≤ (temps.getD k 0).toNat → bitsOf (rf t F.HBM_TSTAT_TRIP) k 1 = 1))
        ∧ ((∀ x ∈ temps, x.toNat < 105) → t.mem = s.mem ∧ t.steps = s.steps ∧ t.memUp = s.memUp))

/-- Stops and power states (R423 to R425, R504, R505). The coolant filter stops a running device and sets COOLANT_STOP; a
loss of the rails stops it and sets neither bit. A device without work enters IDLE. With nothing enabled, live or running its domains
are fenced (R443): at once, if nothing is outstanding, it is PARKED, its CMP domain clamped, its shared store lost and its stacks in
self-refresh with what they hold, dirty cache lines dropped, and becomes ACTIVE again; or it is FOLDED, where everything but AON is lost;
otherwise the fence runs. A request whose conditions do not hold is refused. -/
def Obligations.StopsAndPowerStates : Prop :=
  ∀ (s : State),
    let stopped := fun (t : State) => t.folded = true ∧ t.rtrUp = false ∧ t.hifUp = false ∧ t.memUp = false ∧ t.cmpUp = false
      ∧ t.mem = [] ∧ t.steps = [] ∧ t.inflight = [] ∧ t.flash = s.flash
    (stoppable s = true →
      (∃ t, exec .coolantFilterExpire s = .next t ∧ stopped t ∧ rf t F.PWR_AON_COOLANT_STOP = 1
        ∧ rf t F.PWR_AON_TRIP_STOP = rf s F.PWR_AON_TRIP_STOP) ∧
      (∃ t, exec .railsOkLoss s = .next t ∧ stopped t ∧ t.rails = false
        ∧ rf t F.PWR_AON_COOLANT_STOP = rf s F.PWR_AON_COOLANT_STOP ∧ rf t F.PWR_AON_TRIP_STOP = rf s F.PWR_AON_TRIP_STOP)) ∧
    (noWork s = true → clocked s = true → s.rst.ready = true → rf s F.PWR_STAT_STATE = 0 →
      ∃ t, exec .idleEntry s = .next t ∧ rf t F.PWR_STAT_STATE = 1 ∧ t.eng = [] ∧ t.mem = s.mem) ∧
    (HostReaches s →
      (mayPark s = true → parked s = false → s.rtrUp = true →
        (fenceQuiet 7 s = true →
          ∃ t, exec .stateReqParked s = .next t ∧ rf t F.PWR_STAT_STATE = 2 ∧ t.cmpUp = false ∧ t.memUp = false
            ∧ t.selfRefresh = true ∧ t.cache = [] ∧ t.rst.kind = 0 ∧ Domain.cmp ∈ t.clamps
            ∧ ((∀ c ∈ s.cache, c.dirty = false) → ∀ a, a < 0xF00000000000 → memGet t a = memGet s a)
            ∧ ∀ a, 0xF00000000000 ≤ a → memGet t a = 0) ∧
        (fenceQuiet 7 s = false →
          ∃ t, exec .stateReqParked s = .next t ∧ t.rst.kind = 7 ∧ t.rst.fencing = true ∧ t.cmpUp = false ∧ t.memUp = false
            ∧ rf t F.PWR_STAT_STATE = rf s F.PWR_STAT_STATE ∧ t.mem = s.mem ∧ t.inflight = s.inflight)) ∧
      (parked s = true → rf s F.RST_STAT_OOS = 0 → s.rst.kind = 0 → s.rtrUp = true → s.inflight = [] → s.steps = [] →
        ∃ t, exec .stateReqActive s = .next t ∧ rf t F.PWR_STAT_STATE = 0 ∧ t.cmpUp = true ∧ t.memUp = !tripped s
          ∧ t.selfRefresh = false ∧ t.mem = s.mem) ∧
      (mayPark s = true → s.rtrUp = true →
        (fenceQuiet 8 s = true → ∃ t, exec .stateReqFolded s = .next t ∧ stopped t) ∧
        (fenceQuiet 8 s = false →
          ∃ t, exec .stateReqFolded s = .next t ∧ t.rst.kind = 8 ∧ t.rst.fencing = true ∧ t.folded = s.folded ∧ t.rtrUp = true
            ∧ t.cmpUp = false ∧ t.memUp = false ∧ t.hifUp = false ∧ t.mem = s.mem ∧ t.inflight = s.inflight)) ∧
      (∀ c : Instr, ((c = .stateReqParked ∧ (mayPark s = false ∨ parked s = true)) ∨ (c = .stateReqFolded ∧ mayPark s = false)
          ∨ (c = .stateReqActive ∧ parked s = false)) →
        ∃ t, exec c s = .next t ∧ t = { s with regs := t.regs, out := t.out } ∧ RegsKept s t [R.SETUP_ERR, R.SETUP_ERR_COUNT]
          ∧ rf t F.SETUP_ERR_COUNT = (rf s F.SETUP_ERR_COUNT + 1) % 2 ^ 64))

/-! ### Start-up and resets -/

/-- The start of the device (R428, R436, R439, R503, R504). A cold start begins with phase 1 and the straps as sampled; phase
1 ends with the rails good and the PLL locked at 2,400 MHz with entry 0. A Folded device whose address matches wakes at the
image phase once the rails are good, after a stop only once COOLANT_OK has held for 1 s. RAILS_OK is noted. -/
def Obligations.DeviceStarts : Prop :=
  ∀ (s : State),
    let locked := fun (t : State) => rf t F.CLK_STAT_ROOT_LOCK = 1 ∧ rf t F.CLK_STAT_ROOT_MHZ = 2400 ∧ rf t F.CLK_STAT_ENTRY = 0
      ∧ rf t F.CLK_CTL_SRC = 0 ∧ t.vcore = ff s (F.OPP_ENT_VCORE 0) ∧ t.oppWord = inForce s (R.OPP_ENT 0)
    let barred := (rf s F.PWR_AON_COOLANT_STOP = 1 ∨ rf s F.PWR_AON_TRIP_STOP = 1) ∧ coolantHeld s = false
    (∀ (bootSel : BitVec 2) (i3c : Bool) (maddr : BitVec 3), s.rst.kind = 0 → s.folded = false → rf s F.RST_STAT_PHASE = 0 →
      ∃ t, exec (.coldStart bootSel i3c maddr) s = .next t ∧ rf t F.RST_STAT_PHASE = 1 ∧ t.rst = ⟨5, false, 1, 0, false⟩
        ∧ t.bootSel = bootSel.toNat ∧ t.bootPins = bootSel.toNat ∧ t.i3c = i3c ∧ t.maddr = maddr.toNat ∧ t.cmpUp = false
        ∧ t.memUp = false
        ∧ rf t F.RST_STAT_LAST = 5) ∧
    (∀ (ok : Bool) (ms : BitVec 32), s.rst.phase = 1 → s.rails = true →
      ∃ t, exec (.bootPhaseComplete ok ms) s = .next t ∧ rf t F.RST_STAT_PHASE = 2 ∧ t.rst.phase = 2 ∧ t.rtrUp = true
        ∧ t.hifUp = true ∧ t.rst.ms = s.rst.ms + ms.toNat ∧ locked t) ∧
    (s.folded = true → ¬ barred → s.rails = true →
      ∃ t, exec .wake s = .next t ∧ t.folded = false ∧ rf t F.RST_STAT_PHASE = 2 ∧ t.rst = ⟨6, false, 2, 0, false⟩
        ∧ t.rtrUp = true ∧ t.hifUp = true ∧ t.clamps = [] ∧ locked t) ∧
    (s.folded = true → ¬ barred → s.rails = false →
      ∃ t, exec .wake s = .next t ∧ t = { s with rst := { s.rst with kind := 6 }, out := t.out }) ∧
    (s.folded = false ∨ barred → exec .wake s = .next s) ∧
    ((s.folded = false ∨ s.rst.kind ≠ 6) → exec .railsOkAssert s = .next { s with rails := true }) ∧
    (s.folded = true → s.rst.kind = 6 →
      ∃ t, exec .railsOkAssert s = .next t ∧ t.rails = true ∧ t.folded = false ∧ rf t F.RST_STAT_PHASE = 2 ∧ locked t)

/-- The image phase and the bring-up tables (R436 to R441). Without an owner, a seed that can be reconstructed or a copy that
verifies the device is in RECOVERY. A WAIT or PHY_WRITE entry of a table moves it on by one, the latter with its value at the PHY
address; an END entry ends it, and an entry of the POWER or HBM table that is not allowed, or a PHY_POLL that times out on another
value, fails the start-up: PHASE FAILED, with the table and the entry latched. A cold start whose
SRAM cannot be repaired fails too. The last phase of a start-up makes the device ready. -/
def Obligations.TablesAndPhasesRun : Prop :=
  ∀ (s : State),
    (∀ (ok : Bool) (ms : BitVec 32), s.rst.phase = 2 → imageOk s (imageBase 0) = false → imageOk s (imageBase 1) = false →
      ownerKey s = none → ok = false →
      ∃ t, exec (.bootPhaseComplete ok ms) s = .next t ∧ rf t F.RST_STAT_PHASE = 9 ∧ rf t F.RST_STAT_BUSY = 0 ∧ t.rtrUp = false
        ∧ t.hifUp = false ∧ ownerKey t = none ∧ (s.bootSel < 3 → rf t F.RST_STAT_ALT_USED = 1)) ∧
    (∀ (table : Fin 4) (unit : BitVec 8) (ok : Bool) (t0 : TableRun) (e : TableEntry),
      s.tables.find? (fun t => t.table == table.val + 1 && t.unit == unit.toNat && t.entry < 65536) = some t0 →
      tableEntryAt s (t0.table + 1) t0.entry = some e →
      let key := phyKey t0.table (if e.unit = 0xFF then t0.unit else e.unit) e.addr
      ((e.op = 3 ∨ e.op = 4) →
        ∃ t, exec (.bringUpEntry table unit ok) s = .next t ∧ t = { s with tables := t.tables, phy := t.phy, out := t.out }
          ∧ t.tables = s.tables.map (fun x => if x = t0 then ⟨t0.table, t0.unit, t0.entry + 1⟩ else x)
          ∧ (e.op = 3 → t.phy = s.phy) ∧ (e.op = 4 → phyRead t key = e.value)
          ∧ ∀ k, k ≠ key → phyRead t k = phyRead s k) ∧
      (e.op = 0x0F → table.val ≠ 2 →
        ∃ t, exec (.bringUpEntry table unit ok) s = .next t ∧ t = { s with tables := t.tables, out := t.out }
          ∧ t.tables = s.tables.filter (fun x => x != t0)) ∧
      ((e.op = 0 ∨ (7 ≤ e.op ∧ e.op ≠ 0x0F) ∨ (e.op = 5 ∧ ok = false ∧ phyRead s key &&& e.mask ≠ e.value)) → table.val ≤ 1 →
        ∃ t, exec (.bringUpEntry table unit ok) s = .next t ∧ rf t F.RST_STAT_PHASE = 8 ∧ rf t F.RST_STAT_BUSY = 0
          ∧ rf t F.RST_BOOT_FAIL_VALID = 1 ∧ rf t F.RST_BOOT_FAIL_TABLE = t0.table ∧ t.memUp = false ∧ t.cmpUp = false
          ∧ Domain.cmp ∈ t.clamps ∧ Domain.mem ∈ t.clamps ∧ t.mem = s.mem)) ∧
    (∀ ms : BitVec 32, s.rst.phase = 4 →
      (∃ t, exec (.bootPhaseComplete true ms) s = .next t ∧ rf t F.RST_STAT_PHASE = 5 ∧ t.rst.phase = 5
        ∧ t.tables = s.tables ++ (List.range 8).map (fun k => ⟨2, k, 0⟩)) ∧
      (∃ t, exec (.bootPhaseComplete false ms) s = .next t ∧ rf t F.RST_STAT_PHASE = 8 ∧ rf t F.RST_BOOT_FAIL_VALID = 1
        ∧ rf t F.RST_BOOT_FAIL_PHASE = 4)) ∧
    (∀ (ok : Bool) (ms : BitVec 32), s.rst.phase = 6 → s.rst.kind ≠ 2 → rf s F.RST_STAT_OOS = 0 →
      flashNat s 0x8010000 8 ≠ oosMagic →
      ∃ t, exec (.bootPhaseComplete ok ms) s = .next t ∧ rf t F.RST_STAT_PHASE = 7 ∧ rf t F.RST_STAT_BUSY = 0 ∧ t.cmpUp = true
        ∧ t.rst.ready = true ∧ t.rst.phase = 0 ∧ notReady t = false ∧ t.flash = s.flash)

/-- Reset requests and fences (R443 to R448, R450), on a device with no reset in progress, no stack hot and its start-up
successful. Each is counted and its domains are fenced; the fence of a CMP reset ends with CMP running again and BUSY clear;
a fence that is not quiet after its time is answered with FENCE_ERR. RST.CTL writes are the host's; a request that is not
accepted is refused. -/
def Obligations.ResetsFenceAndRestart : Prop :=
  ∀ (s : State),
    (resetOk 1 s = true →
      ∃ t, exec .resetCmp s = .next t ∧ t.cmpUp = false ∧ t.rst.kind = 1 ∧ t.rst.fencing = true ∧ rf t F.RST_STAT_BUSY = 1
        ∧ rf t F.RST_STAT_LAST = 1 ∧ rf t F.RST_COUNT_CMP = (rf s F.RST_COUNT_CMP + 1) % 2 ^ 64 ∧ t.mem = s.mem
        ∧ t.memUp = s.memUp ∧ t.hifUp = s.hifUp ∧ t.inflight = s.inflight) ∧
    (resetOk 2 s = true →
      ∃ t, exec .resetMem s = .next t ∧ t.cmpUp = false ∧ t.memUp = false ∧ t.rst.kind = 2 ∧ t.rst.fencing = true
        ∧ rf t F.RST_COUNT_MEM = (rf s F.RST_COUNT_MEM + 1) % 2 ^ 64 ∧ t.hifUp = s.hifUp ∧ t.press = none) ∧
    (resetOk 3 s = true →
      ∃ t, exec .resetHif s = .next t ∧ t.hifUp = false ∧ t.rst.kind = 3 ∧ t.rst.fencing = true ∧ t.cmpUp = s.cmpUp
        ∧ t.memUp = s.memUp ∧ rf t F.RST_COUNT_HIF = (rf s F.RST_COUNT_HIF + 1) % 2 ^ 64 ∧ t.mem = s.mem ∧ t.flash = s.flash) ∧
    (∀ bootSel : BitVec 2, resetOk 4 s = true →
      ∃ t, exec (.resetFull bootSel) s = .next t ∧ t.cmpUp = false ∧ t.memUp = false ∧ t.hifUp = false ∧ t.rst.kind = 4
        ∧ t.rst.fencing = true ∧ t.bootSel = bootSel.toNat ∧ t.bootPins = bootSel.toNat ∧ t.press = none
        ∧ rf t F.RST_COUNT_FULL = (rf s F.RST_COUNT_FULL + 1) % 2 ^ 64) ∧
    (resetOk 1 s = false →
      ∃ t, exec .resetCmp s = .next t ∧ t = { s with regs := t.regs, out := t.out } ∧ RegsKept s t [R.SETUP_ERR, R.SETUP_ERR_COUNT]
        ∧ rf t F.SETUP_ERR_COUNT = (rf s F.SETUP_ERR_COUNT + 1) % 2 ^ 64) ∧
    (∀ written : BitVec 32, s.rst.kind = 1 → s.rst.fencing = true → s.rst.ready = true → cmpWork s = [] → s.upds = [] →
      s.steps = [] → s.seamRx = none → parked s = false → rf s F.RST_STAT_OOS = 0 →
      ∃ t, exec (.cmpResetComplete written) s = .next t ∧ t.cmpUp = true ∧ t.rst = ⟨0, false, 0, s.rst.ms, true⟩
        ∧ rf t F.RST_STAT_BUSY = 0 ∧ rf t F.RST_STAT_FENCE_ERR = rf s F.RST_STAT_FENCE_ERR
        ∧ (∀ a, a < 0xF00000000000 → memGet t a = memGet s a) ∧ (∀ a, 0xF00000000000 ≤ a → memGet t a = 0)
        ∧ t.inflight = s.inflight ∧ t.side = [] ∧ t.lent = [] ∧ Domain.cmp ∉ t.clamps) ∧
    (s.rst.fencing = true → s.rst.kind = 3 →
      ∃ t, exec .fenceTimeout s = .next t ∧ t.rst.fencing = false ∧ t.inflight = [] ∧ t.rings = [] ∧ t.ctrs = []
        ∧ (s.inflight ≠ [] → rf t F.RST_STAT_FENCE_ERR = 1)
        ∧ (s.inflight = [] → t.mem = s.mem ∧ rf t F.RST_STAT_FENCE_ERR = rf s F.RST_STAT_FENCE_ERR)
        ∧ ∀ c, c < 64 → ∀ r, r < 4 → ringOn t c r = false)

/-- The host link and AON power (R369, R396, R504). A link that goes down shows mode and width 0 and is counted, and nothing
of device memory, steps or counters changes; one that comes up shows the mode chosen by R369 and its width, and
what waited for it is written (stated while no MOVE runs); where the partner supports no mode that the image permits none comes up.
When AON power is lost the machine is as at reset, but for the flash, host memory and the rails. -/
def Obligations.LinksAndPowerComeAndGo : Prop :=
  ∀ (s : State),
    (linkUp s = true →
      ∃ t, exec .hostLinkDown s = .next t ∧ linkUp t = false ∧ rf t F.HIF_LINK_MODE = 0 ∧ rf t F.HIF_LINK_WIDTH = 0
        ∧ rf t F.HIF_LINK_DOWN = (rf s F.HIF_LINK_DOWN + 1) % 2 ^ 64 ∧ t.heldReads = [] ∧ t.mem = s.mem ∧ t.steps = s.steps
        ∧ t.ctrs = s.ctrs ∧ t.inflight.length = s.inflight.length) ∧
    (∀ (modes : BitVec 6) (width : BitVec 5), s.hifUp = true → rf s F.HIF_LINK_MODE = 0 → s.rst.phase = 0 →
      s.rst.kind = 0 → tableRuns s 4 = false → width.toNat ∈ [4, 8, 16] →
      (∀ d ∈ s.inflight, dClass d = 4 → d.run ≠ .running) →
      match linkMode s modes with
      | some m =>
        ∃ t, exec (.hostLinkUp modes width) s = .next t ∧ linkUp t = true ∧ rf t F.HIF_LINK_MODE = m
          ∧ rf t F.HIF_LINK_WIDTH = width.toNat ∧ t.wbWait = [] ∧ t.mem = s.mem ∧ t.steps = s.steps ∧ t.inflight = s.inflight
      | none => exec (.hostLinkUp modes width) s = .next s) ∧
    (∃ t, exec .aonPowerLoss s = .next t
      ∧ t = { State.reset with
          pending := s.pending, out := t.out, free := s.free, host := s.host, flash := s.flash, rails := s.rails }
      ∧ (s.tripLow = true → t.out = s.out ++ [.thermtrip false]) ∧ (s.tripLow = false → t.out = s.out))

/-! ### Management, trust and test -/

/-- The management target (R454 to R459). A status read answers the status byte and 0xFF beyond it. In I3C mode SETDASA and
RSTDAA set and drop the dynamic addresses and ENEC enables in-band interrupts. STATUS and READ_REG answer their data, with
RESULT 0; SET_CAPS within its limits sets both caps. Each command with a correct PEC is counted, also
where its code is in no row of the table (BAD_CMD), and one with a wrong PEC is counted as an error and does nothing else. A command to
a Folded device is answered, and its address match wakes the device (R427, R454). RESET, POWER and RESTART over the management bus (R444, R425, R458). Each answers
RESULT 0 where its rule accepts it: a CMP reset is then in progress, the device is PARKED, or a cold start runs with the
straps sampled anew; where it does not, REFUSED; and BAD_ARG for a code that names nothing. -/
def Obligations.ManagementBus : Prop :=
  (∀ (s : State),
     let counted := fun (t : State) => rf t F.MGMT_CMDS = (rf s F.MGMT_CMDS + 1) % 2 ^ 64
     (∀ bytes : BitVec 8, 1 ≤ bytes.toNat →
       ∃ t d, exec (.statusByteRead bytes) s = .next t ∧ t = { s with out := s.out ++ [.mgmt d] } ∧ d.length = bytes.toNat
         ∧ d.head? = some (BitVec.ofNat 8 (statusByte s)) ∧ ∀ x ∈ d.drop 1, x = 0xFF#8) ∧
     (s.i3c = true →
       (∀ dyn : BitVec 7, s.maddr < 8 →
         exec (.setdasa (BitVec.ofNat 7 (0x48 + s.maddr)) dyn) s
           = .next { s with mgmt := { s.mgmt with cmdDyn := some dyn.toNat } } ∧
         exec (.setdasa (BitVec.ofNat 7 (0x40 + s.maddr)) dyn) s
           = .next { s with mgmt := { s.mgmt with staDyn := some dyn.toNat } }) ∧
       exec .rstdaa s = .next { s with mgmt := { s.mgmt with staDyn := none, cmdDyn := none } } ∧
       exec .enec s = .next { s with mgmt := { s.mgmt with ibi := true } }) ∧
     (s.folded = true → s.rails = true → rf s F.PWR_AON_COOLANT_STOP = 0 → rf s F.PWR_AON_TRIP_STOP = 0 →
       ∃ t, exec .status s = .next t ∧ counted t ∧ t.mgmt.result = 0 ∧ t.mgmt.data = statusData s ∧ t.folded = false
         ∧ t.rst.kind = 6 ∧ t.rtrUp = true) ∧
     (s.folded = false →
     (∃ t, exec .status s = .next t ∧ t = { s with regs := t.regs, out := t.out, mgmt := t.mgmt } ∧ RegsKept s t [R.MGMT_CMDS]
       ∧ counted t ∧ t.mgmt.result = 0 ∧ t.mgmt.data = statusData s ∧ t.out = s.out ++ [.mgmt (mgmtFrame s 0 (statusData s))]) ∧
     (∀ addr : BitVec 48, addr.toNat % 8 = 0 → regPowered s addr.toNat = true → addr.toNat ≠ R.MGMT_CMDS →
       ∃ t, exec (.readReg addr) s = .next t
         ∧ t = { s with regs := t.regs, out := t.out, mgmt := t.mgmt } ∧ RegsKept s t [R.MGMT_CMDS]
         ∧ counted t ∧ t.mgmt.result = 0 ∧ t.mgmt.data = leBytes (setupRead addr.toNat 8 s) 8) ∧
     (∀ addr : BitVec 48, addr.toNat % 8 ≠ 0 →
       ∃ t, exec (.readReg addr) s = .next t ∧ counted t ∧ t.mgmt.result = 4 ∧ t.mgmt.data = []) ∧
     (∀ tray sprint : BitVec 16, s.rtrUp = true → 500 ≤ tray.toNat → tray.toNat ≤ 2300 →
       (sprint.toNat = 0 ∨ (tray.toNat ≤ sprint.toNat ∧ sprint.toNat ≤ 2750)) →
       ∃ t, exec (.setCaps tray sprint) s = .next t ∧ t = { s with regs := t.regs, out := t.out, mgmt := t.mgmt }
         ∧ RegsKept s t [R.MGMT_CMDS, (F.PWR_CAP_TRAY_W).reg, (F.PWR_CAP_SPRINT_W).reg] ∧ counted t ∧ t.mgmt.result = 0
         ∧ rf t F.PWR_CAP_TRAY_W = tray.toNat ∧ rf t F.PWR_CAP_SPRINT_W = sprint.toNat) ∧
     (∀ frame : List Byte,
       (pecOk s frame = false →
         ∃ t, exec (.badPecCommand frame) s = .next t ∧ t = { s with regs := t.regs, out := t.out, mgmt := t.mgmt }
           ∧ RegsKept s t [R.MGMT_PEC_ERR] ∧ rf t F.MGMT_PEC_ERR = (rf s F.MGMT_PEC_ERR + 1) % 2 ^ 64 ∧ t.mgmt.result = 3) ∧
       (pecOk s frame = true → frame.headD 0 ∉ cmdCodes →
         ∃ t, exec (.badPecCommand frame) s = .next t ∧ t = { s with regs := t.regs, out := t.out, mgmt := t.mgmt }
           ∧ RegsKept s t [R.MGMT_CMDS] ∧ counted t ∧ t.mgmt.result = 2)))) ∧
  (∀ (s : State), s.folded = false →
     (∀ bootSel : BitVec 2, resetOk 1 s = true →
       ∃ t, exec (.reset 1 bootSel) s = .next t ∧ t.mgmt.result = 0 ∧ t.rst.kind = 1 ∧ t.rst.fencing = true ∧ t.cmpUp = false
         ∧ rf t F.RST_COUNT_CMP = (rf s F.RST_COUNT_CMP + 1) % 2 ^ 64 ∧ t.mem = s.mem) ∧
     (∀ (dom : BitVec 8) (bootSel : BitVec 2), (dom.toNat = 0 ∨ 4 < dom.toNat) →
       ∃ t, exec (.reset dom bootSel) s = .next t ∧ t = { s with regs := t.regs, out := t.out, mgmt := t.mgmt }
         ∧ t.mgmt.result = 4) ∧
     (s.rst.kind = 0 → mayPark s = true → parked s = false → s.rtrUp = true → fenceQuiet 7 s = true →
       ∃ t, exec (.power 2) s = .next t ∧ t.mgmt.result = 0 ∧ rf t F.PWR_STAT_STATE = 2 ∧ t.cmpUp = false ∧ t.memUp = false) ∧
     (s.rst.kind = 0 → mayPark s = false →
       ∃ t, exec (.power 2) s = .next t ∧ t = { s with regs := t.regs, out := t.out, mgmt := t.mgmt } ∧ t.mgmt.result = 7
         ∧ rf t F.SETUP_ERR_COUNT = (rf s F.SETUP_ERR_COUNT + 1) % 2 ^ 64) ∧
     (∀ (bootSel : BitVec 2) (i3c : Bool) (maddr : BitVec 3),
       ((rf s F.RST_STAT_PHASE = 8 ∨ rf s F.RST_STAT_PHASE = 9) →
         ∃ t, exec (.restart bootSel i3c maddr) s = .next t ∧ t.mgmt.result = 0 ∧ rf t F.RST_STAT_PHASE = 1
           ∧ t.rst = ⟨5, false, 1, 0, false⟩ ∧ t.bootSel = bootSel.toNat ∧ t.i3c = i3c ∧ t.maddr = maddr.toNat
           ∧ t.flash = s.flash ∧ t.mem = []) ∧
       (rf s F.RST_STAT_PHASE ≠ 8 → rf s F.RST_STAT_PHASE ≠ 9 →
         ∃ t, exec (.restart bootSel i3c maddr) s = .next t ∧ t = { s with regs := t.regs, out := t.out, mgmt := t.mgmt }
           ∧ t.mgmt.result = 7)))

/-- The flash commands and the commands that need physical presence (R452, R458, R460, R461, R466, R471, R474). Within what
they may reach, FLASH_READ answers the bytes, FLASH_ERASE leaves a sector at 0xFF and FLASH_WRITE the bytes with bits cleared
only, and no other byte of flash changes. With presence a rotation of the owner writes both records and is counted, test
access is switched on, the out-of-service latch and the helper region are cleared; without it each answers NO_PRESENCE and
changes no flash. Test access ends on command. How programming acts on bits is the model's choice (log 44). -/
def Obligations.FlashAndPresenceCommands : Prop :=
  ∀ (s : State), s.rst.phase = 0 → s.folded = false →
    let byte := fun (t : State) (o : Nat) => smGet flashDefault t.flash o
    let answered := fun (t : State) => t = { s with regs := t.regs, out := t.out, mgmt := t.mgmt }
    (∀ (off : BitVec 32) (len : BitVec 8), len.toNat ≤ 128 → flashMay s off.toNat len.toNat = true →
      ∃ t, exec (.flashRead off len) s = .next t ∧ answered t ∧ t.mgmt.result = 0
        ∧ t.mgmt.data = flashRead s off.toNat len.toNat) ∧
    (∀ off : BitVec 32, off.toNat % 65536 = 0 → flashMay s off.toNat 65536 = true →
      ∃ t, exec (.flashErase off) s = .next t ∧ t.mgmt.result = 0 ∧ t.mem = s.mem
        ∧ ∀ o, byte t o = if off.toNat ≤ o ∧ o < off.toNat + 65536 then 0xFF#8 else byte s o) ∧
    (∀ (off : BitVec 32) (bytes : List Byte), bytes.length ≤ 128 → off.toNat % 256 + bytes.length ≤ 256 →
      flashMay s off.toNat bytes.length = true →
      ∃ t, exec (.flashWrite off bytes) s = .next t ∧ t.mgmt.result = 0 ∧ t.mem = s.mem
        ∧ ∀ o, byte t o = if off.toNat ≤ o ∧ o < off.toNat + bytes.length then bytes.getD (o - off.toNat) 0 &&& byte s o
            else byte s o) ∧
    (rf s F.SEC_STAT_PRESENCE = 1 →
      let done := fun (t : State) (k : Nat) => t.presCounts = s.presCounts.set k (s.presCounts.getD k 0 + 1)
        ∧ rf t F.SEC_PRESENCE_CMDS = (rf s F.SEC_PRESENCE_CMDS + 1) % 2 ^ 64
      (∀ (policy : BitVec 8) (key : List Byte) (seed : Nat), policy.toNat ≤ 1 → key.length = 512 → s.pufSeed = some seed →
        ∃ t, exec (.rotateOwner policy key true) s = .next t ∧ t.mgmt.result = 0 ∧ done t 0 ∧ t.owner = s.owner
          ∧ (∀ k, k < 2 → ∀ i, i < 640 → byte t (ownerBase k + i)
              = (ownerRecord seed ((s.owner.gen + 1) % 2 ^ 64) policy.toNat key).getD i 0xFF)
          ∧ ∀ o, (∀ k, k < 2 → o < ownerBase k ∨ ownerBase k + 4096 ≤ o) → byte t o = byte s o) ∧
      (∃ t, exec .testEnable s = .next t ∧ t.mgmt.result = 0 ∧ done t 1 ∧ rf t F.SEC_STAT_TEST_EN = 1
        ∧ rf t F.SEC_STAT_TEST_EVER = 1 ∧ t.flash = s.flash) ∧
      (∃ t, exec .clearOos s = .next t ∧ t.mgmt.result = 0 ∧ done t 2 ∧ rf t F.RST_STAT_OOS = 0 ∧ t.rstTimes = []
        ∧ ∀ o, byte t o = if 0x8010000 ≤ o ∧ o < 0x8011000 then 0xFF#8 else byte s o) ∧
      ((∀ c, c < 64 → ∀ r, r < 4 → ringOn s c r = false) →
        ∃ t, exec .eraseHelper s = .next t ∧ t.mgmt.result = 0 ∧ done t 3
          ∧ ∀ o, byte t o = if 0x8000000 ≤ o ∧ o < 0x8010000 then 0xFF#8 else byte s o)) ∧
    (rf s F.SEC_STAT_PRESENCE = 0 → ∀ c : Instr,
      (c = .testEnable ∨ c = .clearOos ∨ c = .eraseHelper ∨ ∃ p k h, c = .rotateOwner p k h) →
      ∃ t, exec c s = .next t ∧ answered t ∧ t.mgmt.result = 5) ∧
    (rf s F.SEC_STAT_TEST_EN = 1 →
      ∃ t, exec .testDisable s = .next t ∧ t.mgmt.result = 0 ∧ rf t F.SEC_STAT_TEST_EN = 0 ∧ t.flash = s.flash
        ∧ t.jtag = s.jtag ∧ tapDrives t = none)

/-- The harness lands and presence (R461 to R464). A test that gives the class already found twice in succession puts that
class in effect; one that gives another class leaves the class in effect; a coolant class in effect other than VALID_HIGH
stops a running device, and from VALID_HIGH on COOLANT_OK holds (R428). Presence is asserted where MAINT_PRESENT_N is VALID_LOW and the seal loop OPEN, in effect and in the
last test. The TAP (R473): every instruction is in force with its value at TDO or on the lands, and the boundary register
changes with SAMPLE/PRELOAD only; EXTEST, CLAMP and HIGHZ stay loaded and act as BYPASS while test access is off. The codes of the
instructions are the model's. -/
def Obligations.LandsPresenceAndTap : Prop :=
  (∀ (s : State),
     (∀ (r : LandReading),
       let k := (landOf s r).1
       let c := (landOf s r).2
       (2 ≤ (landRt s k).count → (landRt s k).cls = c → k ≠ 0 ∨ c = 1 ∨ stoppable s = false →
         ∃ t, exec (.landTest r) s = .next t ∧ rf t (landField k) = c ∧ landRt t k = ⟨c, 3⟩ ∧ t.mem = s.mem
           ∧ (k = 0 → t.coolantSince = if c = 1 then some (s.coolantSince.getD (aonNs s)) else none)) ∧
       ((landRt s k).cls ≠ c →
         ∃ t, exec (.landTest r) s = .next t ∧ rf t (landField k) = rf s (landField k) ∧ landRt t k = ⟨c, 1⟩ ∧ t.mem = s.mem
           ∧ (((k = 1 ∧ c ≠ 0) ∨ (k = 2 ∧ c ≠ 1)) → rf t F.SEC_STAT_PRESENCE = 0)) ∧
       (2 ≤ (landRt s k).count → (landRt s k).cls = c → k = 0 → c ≠ 1 → stoppable s = true →
         ∃ t, exec (.landTest r) s = .next t ∧ t.folded = true ∧ rf t F.PWR_AON_COOLANT_STOP = 1 ∧ t.cmpUp = false
           ∧ t.memUp = false)) ∧
     (rf s F.SEC_STAT_MAINT = 0 → rf s F.SEC_STAT_SEAL = 1 → (landRt s 1).cls = 0 → (landRt s 2).cls = 1 →
       ∃ t, exec .presenceAssert s = .next t ∧ t = { s with regs := t.regs } ∧ RegsKept s t [(F.SEC_STAT_PRESENCE).reg]
         ∧ rf t F.SEC_STAT_PRESENCE = 1)) ∧
  (∀ (s : State),
     let shows := fun (t : State) (i acts v : Nat) (b : List Bool) =>
       t = { s with out := s.out ++ [.jtag acts v], jtag := ⟨i, b⟩ }
     (∃ t, exec .bypass s = .next t ∧ shows t 1 1 0 s.jtag.bsr) ∧
     (∃ t, exec .idcode s = .next t
       ∧ shows t 0 0 (Config.stepping.toNat % 16 * 2 ^ 28 + 0x9160 * 2 ^ 12 + 0x2B7 * 2 + 1) s.jtag.bsr) ∧
     (∀ pins cells : List Bool, ∃ t, exec (.samplePreload pins cells) s = .next t ∧ shows t 2 2 (bsrValue pins) cells) ∧
     (rf s F.SEC_STAT_TEST_EN = 1 →
       (∃ t, exec .extest s = .next t ∧ shows t 3 3 (bsrValue s.jtag.bsr) s.jtag.bsr
         ∧ tapDrives t = some (bsrValue s.jtag.bsr)) ∧
       (∃ t, exec .clamp s = .next t ∧ shows t 4 4 (bsrValue s.jtag.bsr) s.jtag.bsr
         ∧ tapDrives t = some (bsrValue s.jtag.bsr)) ∧
       (∃ t, exec .highz s = .next t ∧ shows t 5 5 0 s.jtag.bsr ∧ tapDrives t = none)) ∧
     (rf s F.SEC_STAT_TEST_EN = 0 → ∀ c ∈ [(Instr.extest, 3), (.clamp, 4), (.highz, 5)],
       ∃ t, exec c.1 s = .next t ∧ shows t c.2 1 0 s.jtag.bsr ∧ tapDrives t = none))

/-- Identity and attestation (R470, R472), over a host link that is up. After start-up with a seed that generates a key (log 153) the
identity key is ready and the serial is the low 64 bits of the digest of its modulus. GET_VERSION starts an exchange; an offer of RSASSA-4096 with
SHA-512 makes it ready, and one without is an error; GET_DIGESTS is answered with the digest of the chain, a certificate
request within the chain with at most what it asks for, a request of no row with the error UnsupportedRequest; CHALLENGE and a signed measurement answer Busy before the key is ready, and are answered with a signature of 512
bytes once it is. -/
def Obligations.AttestationAnswers : Prop :=
  ∀ (s : State),
    (∀ seed, s.pufSeed = some seed → s.rst.ready = true →
      match identityKey seed with
      | some k =>
        ∃ t, exec .identityKeyReady s = .next t ∧ t = { s with regs := t.regs }
          ∧ RegsKept s t [(F.SEC_STAT_ID_READY).reg, R.ID_SERIAL] ∧ rf t F.SEC_STAT_ID_READY = 1
          ∧ (rdReg t R.ID_SERIAL).toNat = beNat (sha512 (beBytes k.1 512)) % 2 ^ 64
      | none => exec .identityKeyReady s = .next s) ∧
    (linkUp s = true →
      let onlySpdm := fun (t : State) => t = { s with out := t.out, spdm := t.spdm, free := t.free }
      let errs := fun (t : State) (code : Byte) => t = { s with
        out := s.out ++ [.spdm [BitVec.ofNat 8 s.spdm.ver, 0x7F, code, 0]] }
      (∃ t, exec .spdmGetVersion s = .next t ∧ onlySpdm t ∧ t.spdm.ready = false ∧ t.spdm.certs = [] ∧ t.spdm.meas = []
        ∧ t.out = s.out ++ [.spdm [0x10, 0x04, 0, 0, 0, 2, 0x00, 0x12, 0x00, 0x13]]) ∧
      (∀ req : List Byte,
        (req.getD 1 0 = 0xE1 → (req.getD 0 0 = 0x12 ∨ req.getD 0 0 = 0x13) →
          ∃ t m, exec (.spdmGetCapabilities req) s = .next t ∧ onlySpdm t ∧ t.spdm.ver = (req.getD 0 0).toNat
            ∧ t.out = s.out ++ [.spdm m] ∧ t.spdm.vca = s.spdm.vca ++ req ++ m ∧ m.getD 1 0 = 0x61) ∧
        (req.getD 1 0 = 0x81 → s.spdm.ready = true →
          ∃ t m, exec (.spdmGetCapabilities req) s = .next t ∧ onlySpdm t ∧ t.out = s.out ++ [.spdm m] ∧ m.getD 1 0 = 0x01
            ∧ m.drop 4 = sha512 (certChain s) ∧ t.spdm.certs = s.spdm.certs ++ req ++ m) ∧
        (req.getD 1 0 ∉ [0xE1, 0x81, 0x84, 0xE3, 0x82, 0x83, 0xE0] →
          exec (.spdmGetCapabilities req) s
            = .next { s with out := s.out ++ [.spdm [BitVec.ofNat 8 s.spdm.ver, 0x7F, 7, req.getD 1 0]] })) ∧
      (∀ req : List Byte,
        let asym := leNat ((req.drop 8).take 4)
        let hash := leNat ((req.drop 12).take 4)
        (bitsOf asym 5 1 = 1 → bitsOf hash 2 1 = 1 →
          ∃ t m, exec (.negotiateAlgorithms req) s = .next t ∧ onlySpdm t ∧ t.spdm.ready = true
            ∧ t.out = s.out ++ [.spdm m] ∧ t.spdm.vca = s.spdm.vca ++ req ++ m) ∧
        ((bitsOf asym 5 1 = 0 ∨ bitsOf hash 2 1 = 0) → ∃ t, exec (.negotiateAlgorithms req) s = .next t ∧ errs t 1)) ∧
      (∀ off len : BitVec 16, s.spdm.ready = true → off.toNat < (certChain s).length →
        ∃ t m, exec (.spdmGetCertificate 0 off len) s = .next t ∧ onlySpdm t ∧ t.out = s.out ++ [.spdm m]
          ∧ m.drop 8 = ((certChain s).drop off.toNat).take len.toNat) ∧
      (s.spdm.ready = true → rf s F.SEC_STAT_ID_READY = 0 →
        (∀ kind nonce ctx, ∃ t, exec (.challenge 0 kind nonce ctx) s = .next t ∧ errs t 3) ∧
        (∀ i nonce ctx, (i.toNat ≤ 5 ∨ i.toNat = 255) → ∃ t, exec (.getMeasurements true i nonce ctx) s = .next t ∧ errs t 3)) ∧
      (s.spdm.ready = true → rf s F.SEC_STAT_ID_READY = 1 →
        match s.pufSeed.bind identityKey with
        | none => ∀ kind nonce ctx, ∃ t, exec (.challenge 0 kind nonce ctx) s = .next t ∧ errs t 3
        | some k =>
          (∀ kind nonce ctx, ∃ t m text, exec (.challenge 0 kind nonce ctx) s = .next t ∧ onlySpdm t
            ∧ t.out = s.out ++ [.spdm (m ++ identitySign k text)] ∧ (identitySign k text).length = 512 ∧ t.spdm.certs = []
            ∧ (s.spdm.ver = 0x13 → m.drop (m.length - 8) = leBytes ctx.toNat 8)) ∧
          (∀ i nonce ctx, (i.toNat ≤ 5 ∨ i.toNat = 255) → ∃ t m text, exec (.getMeasurements true i nonce ctx) s = .next t
            ∧ onlySpdm t ∧ t.out = s.out ++ [.spdm (m ++ identitySign k text)] ∧ (identitySign k text).length = 512
            ∧ t.spdm.meas = [])) ∧
      (∀ i nonce ctx, s.spdm.ready = true → (i.toNat ≤ 5 ∨ i.toNat = 255) →
        ∃ t m, exec (.getMeasurements false i nonce ctx) s = .next t ∧ onlySpdm t ∧ t.out = s.out ++ [.spdm m]
          ∧ m.getD 1 0 = 0x60))
end

