-- ==== Sys2Proof/Laws/SMap.lean ====
section
/-!
SUPPORT. Sparse maps: a read after a write, reads elsewhere, and that every operation keeps the canonical form.
-/
namespace Sys2Proof.Machine

variable {α : Type}

theorem smGet_smDel_self (d : Nat → α) (m : List (Nat × α)) (k : Nat) : smGet d (smDel m k) k = d k := by
  induction m with
  | nil => rfl
  | cons e m ih =>
    obtain ⟨a, v⟩ := e
    by_cases h : a = k <;> simp [smDel, smGet, h, ih]

theorem smGet_smDel_ne (d : Nat → α) (m : List (Nat × α)) (k j : Nat) (h : j ≠ k) :
    smGet d (smDel m k) j = smGet d m j := by
  induction m with
  | nil => rfl
  | cons e m ih =>
    obtain ⟨a, v⟩ := e
    by_cases h1 : a = k
    · subst h1; simp [smDel, smGet, ih, Ne.symm h]
    · simp [smDel, smGet, h1, ih]

theorem smGet_smIns_self (d : Nat → α) (m : List (Nat × α)) (k : Nat) (v : α) (h : ∀ e ∈ m, e.1 ≠ k) :
    smGet d (smIns k v m) k = v := by
  induction m with
  | nil => simp [smIns, smGet]
  | cons e m ih =>
    obtain ⟨a, w⟩ := e
    have ha : a ≠ k := h (a, w) (by simp)
    simp only [smIns]
    split
    · simp [smGet]
    · simp [smGet, ha, ih (fun e he => h e (by simp [he]))]

theorem smGet_smIns_ne (d : Nat → α) (m : List (Nat × α)) (k j : Nat) (v : α) (h : j ≠ k) :
    smGet d (smIns k v m) j = smGet d m j := by
  induction m with
  | nil => simp [smIns, smGet, Ne.symm h]
  | cons e m ih =>
    obtain ⟨a, w⟩ := e
    simp only [smIns]
    split
    · simp [smGet, Ne.symm h]
    · simp [smGet, ih]

theorem smDel_keys (m : List (Nat × α)) (k : Nat) : ∀ e ∈ smDel m k, e.1 ≠ k := by
  induction m with
  | nil => simp [smDel]
  | cons e m ih =>
    obtain ⟨a, v⟩ := e
    by_cases h : a = k
    · simpa [smDel, h] using ih
    · simp only [smDel, h, if_false]
      intro e he
      rcases List.mem_cons.mp he with rfl | he
      · exact h
      · exact ih e he

/-- The value set is the value read. -/
@[simp] theorem smGet_smSet_self [DecidableEq α] (d : Nat → α) (m : List (Nat × α)) (k : Nat) (v : α) :
    smGet d (smSet d m k v) k = v := by
  unfold smSet
  split
  · next h => rw [smGet_smDel_self, h]
  · exact smGet_smIns_self d _ k v (smDel_keys m k)

/-- A write leaves every other key alone. -/
theorem smGet_smSet_ne [DecidableEq α] (d : Nat → α) (m : List (Nat × α)) (k j : Nat) (v : α) (h : j ≠ k) :
    smGet d (smSet d m k v) j = smGet d m j := by
  unfold smSet
  split
  · exact smGet_smDel_ne d m k j h
  · rw [smGet_smIns_ne d _ k j v h, smGet_smDel_ne d m k j h]

/-! ### The canonical form -/

/-- Keys above a bound, rising: what `smRising` says, as a fact about all entries. -/
theorem smRising_iff (b : Option Nat) (m : List (Nat × α)) :
    smRising b m = true ↔ (∀ e ∈ m, ∀ x, b = some x → x < e.1) ∧ m.Pairwise (fun p q => p.1 < q.1) := by
  induction m generalizing b with
  | nil => simp [smRising]
  | cons e m ih =>
    obtain ⟨a, v⟩ := e
    cases b with
    | none =>
      simp [smRising, ih]
    | some x =>
      simp only [smRising, Bool.and_eq_true, decide_eq_true_eq, ih, List.pairwise_cons, List.mem_cons]
      constructor
      · rintro ⟨h0, h1, h2⟩
        refine ⟨fun q hq y hy => ?_, fun q hq => h1 q hq a rfl, h2⟩
        cases Option.some.inj hy
        rcases hq with rfl | hq
        · exact h0
        · exact Nat.lt_trans h0 (h1 q hq a rfl)
      · rintro ⟨h1, h2, h3⟩
        exact ⟨h1 (a, v) (Or.inl rfl) x rfl, fun q hq y hy => (Option.some.inj hy) ▸ h2 q hq, h3⟩

theorem smDel_sublist (m : List (Nat × α)) (k : Nat) : (smDel m k).Sublist m := by
  induction m with
  | nil => exact List.Sublist.refl _
  | cons e m ih =>
    obtain ⟨a, v⟩ := e
    by_cases h : a = k
    · simpa [smDel, h] using ih.cons (a, v)
    · simpa [smDel, h] using ih

theorem smIns_mem (m : List (Nat × α)) (k : Nat) (v : α) (e : Nat × α) : e ∈ smIns k v m ↔ e = (k, v) ∨ e ∈ m := by
  induction m with
  | nil => simp [smIns]
  | cons x m ih =>
    obtain ⟨a, w⟩ := x
    simp only [smIns]
    split
    · simp
    · simp only [List.mem_cons, ih]
      exact or_left_comm

theorem smIns_sorted (m : List (Nat × α)) (k : Nat) (v : α) (h : m.Pairwise (fun p q => p.1 < q.1))
    (hk : ∀ e ∈ m, e.1 ≠ k) : (smIns k v m).Pairwise (fun p q => p.1 < q.1) := by
  induction m with
  | nil => simp [smIns]
  | cons x m ih =>
    obtain ⟨a, w⟩ := x
    rw [List.pairwise_cons] at h
    simp only [smIns]
    split
    · next hlt =>
      refine List.pairwise_cons.mpr ⟨fun q hq => ?_, List.pairwise_cons.mpr h⟩
      rcases List.mem_cons.mp hq with rfl | hq
      · exact hlt
      · exact Nat.lt_trans hlt (h.1 q hq)
    · next hge =>
      refine List.pairwise_cons.mpr ⟨fun q hq => ?_, ih h.2 (fun e he => hk e (by simp [he]))⟩
      rcases (smIns_mem m k v q).mp hq with rfl | hq
      · have := hk (a, w) (by simp)
        simp only at this ⊢
        omega
      · exact h.1 q hq

/-- The canonical form, as facts about entries. -/
theorem smWf_iff [DecidableEq α] (d : Nat → α) (m : List (Nat × α)) :
    smWf d m = true ↔ m.Pairwise (fun p q => p.1 < q.1) ∧ ∀ e ∈ m, e.2 ≠ d e.1 := by
  simp [smWf, smNoDefault, smRising_iff]

@[simp] theorem smWf_nil [DecidableEq α] (d : Nat → α) : smWf d [] = true := by simp [smWf_iff]

/-- Setting a key keeps the canonical form. -/
theorem smWf_smSet [DecidableEq α] (d : Nat → α) (m : List (Nat × α)) (k : Nat) (v : α) (h : smWf d m = true) :
    smWf d (smSet d m k v) = true := by
  rw [smWf_iff] at h ⊢
  have hs : (smDel m k).Pairwise (fun p q => p.1 < q.1) := h.1.sublist (smDel_sublist m k)
  have hd : ∀ e ∈ smDel m k, e.2 ≠ d e.1 := fun e he => h.2 e ((smDel_sublist m k).subset he)
  unfold smSet
  split
  · exact ⟨hs, hd⟩
  · next hv =>
    refine ⟨smIns_sorted _ k v hs (smDel_keys m k), fun e he => ?_⟩
    rcases (smIns_mem _ k v e).mp he with rfl | he
    · exact hv
    · exact hd e he

/-- A filter keeps the canonical form. -/
theorem smWf_filter [DecidableEq α] (d : Nat → α) (m : List (Nat × α)) (p : Nat × α → Bool) (h : smWf d m = true) :
    smWf d (m.filter p) = true := by
  rw [smWf_iff] at h ⊢
  exact ⟨h.1.sublist List.filter_sublist, fun e he => h.2 e (List.filter_sublist.subset he)⟩

/-- Dropping keys keeps the canonical form. -/
theorem smWf_smKeep [DecidableEq α] (d : Nat → α) (m : List (Nat × α)) (p : Nat → Bool) (h : smWf d m = true) :
    smWf d (smKeep p m) = true := smWf_filter d m _ h

theorem smWf_foldl_smSet [DecidableEq α] (d : Nat → α) (l m : List (Nat × α)) (h : smWf d m = true) :
    smWf d (l.foldl (fun m e => smSet d m e.1 e.2) m) = true := by
  induction l generalizing m with
  | nil => exact h
  | cons e l ih => exact ih _ (smWf_smSet _ _ _ _ h)

theorem smGet_smKeep (d : Nat → α) (m : List (Nat × α)) (p : Nat → Bool) (k : Nat) :
    smGet d (smKeep p m) k = if p k then smGet d m k else d k := by
  induction m with
  | nil => simp [smKeep, smGet]
  | cons e m ih =>
    obtain ⟨a, v⟩ := e
    simp only [smKeep] at ih
    by_cases h : a = k
    · subst h
      by_cases hp : p a = true <;> simp_all [smKeep, smGet]
    · by_cases hp : p a = true <;> simp_all [smKeep, smGet]

end Sys2Proof.Machine
end

