-- ==== Sys2Proof/Laws/State.lean ====
section
/-!
SUPPORT. What each named update of the state leaves alone: one conjunct per field, true by computation, so that no later
proof unfolds a record update; then what each shared operation over them leaves alone.
-/
namespace Sys2Proof.Machine

/-- Two states with equal fields are equal. -/
theorem State.ext_fields {s t : State}
    (h0 : t.pending = s.pending) (h1 : t.regs = s.regs) (h2 : t.force = s.force) (h3 : t.mem = s.mem)
    (h4 : t.syn = s.syn) (h5 : t.host = s.host) (h6 : t.bob = s.bob) (h7 : t.free = s.free) (h8 : t.out = s.out)
    (h9 : t.rings = s.rings) (h10 : t.ctxs = s.ctxs) (h11 : t.ctrs = s.ctrs) (h12 : t.inflight = s.inflight)
    (h13 : t.wbWait = s.wbWait) (h14 : t.holder = s.holder) (h15 : t.heldSince = s.heldSince)
    (h16 : t.mbWait = s.mbWait) (h17 : t.steps = s.steps) (h18 : t.stoppedShown = s.stoppedShown)
    (h19 : t.lastDisc = s.lastDisc) (h20 : t.upds = s.upds) (h21 : t.winHold = s.winHold)
    (h22 : t.heldReads = s.heldReads) (h23 : t.ownBad = s.ownBad) (h24 : t.kept = s.kept)
    (h25 : t.verifies = s.verifies) (h26 : t.readys = s.readys) (h27 : t.groups = s.groups)
    (h28 : t.mcValid = s.mcValid) (h29 : t.seamTx = s.seamTx) (h30 : t.seamRx = s.seamRx)
    (h31 : t.seamWait = s.seamWait) (h32 : t.xfer = s.xfer) (h33 : t.loadRx = s.loadRx) (h34 : t.press = s.press)
    (h35 : t.ckptNow = s.ckptNow) (h36 : t.ckptLast = s.ckptLast) (h37 : t.drain = s.drain)
    (h38 : t.ckptRx = s.ckptRx) (h39 : t.restore = s.restore) (h40 : t.ceCount = s.ceCount) (h41 : t.side = s.side)
    (h42 : t.sideMem = s.sideMem) (h43 : t.partPend = s.partPend) (h44 : t.pushed = s.pushed) (h45 : t.lent = s.lent)
    (h46 : t.lintRecs = s.lintRecs) (h47 : t.lintOld = s.lintOld) (h48 : t.lintFirst = s.lintFirst)
    (h49 : t.lintPack = s.lintPack) (h50 : t.lintNew = s.lintNew) (h51 : t.lintHead = s.lintHead)
    (h52 : t.tgBusy = s.tgBusy) (h53 : t.sensorMiss = s.sensorMiss) (h54 : t.tripPend = s.tripPend)
    (h55 : t.rtrUp = s.rtrUp) (h56 : t.hifUp = s.hifUp) (h57 : t.memUp = s.memUp) (h58 : t.cmpUp = s.cmpUp)
    (h59 : t.fenceNeed = s.fenceNeed) (h60 : t.fenceGot = s.fenceGot) (h61 : t.reportSeq = s.reportSeq)
    (h62 : t.outcomes = s.outcomes) (h63 : t.mirrorGroups = s.mirrorGroups) (h64 : t.ports = s.ports)
    (h65 : t.vcs = s.vcs) (h66 : t.injHeld = s.injHeld) (h67 : t.drains = s.drains) (h68 : t.bondSeq = s.bondSeq)
    (h69 : t.collIdx = s.collIdx) (h70 : t.sends = s.sends) (h71 : t.fenceQ = s.fenceQ) (h72 : t.eng = s.eng)
    (h73 : t.waveT = s.waveT) (h74 : t.waveHeld = s.waveHeld) (h75 : t.waveDue = s.waveDue)
    (h76 : t.folded = s.folded) (h77 : t.vcore = s.vcore) (h78 : t.oppWord = s.oppWord)
    (h79 : t.oppTarget = s.oppTarget) (h80 : t.oppNext = s.oppNext) (h81 : t.sprint = s.sprint)
    (h82 : t.rampWait = s.rampWait) (h83 : t.rampHard = s.rampHard) (h84 : t.droopLow = s.droopLow)
    (h85 : t.stretched = s.stretched) (h86 : t.quiet = s.quiet) (h87 : t.sprintOn = s.sprintOn)
    (h88 : t.sprintLog = s.sprintLog) (h89 : t.sprintRefused = s.sprintRefused)
    (h90 : t.sprintNotice = s.sprintNotice) (h91 : t.cmpCut = s.cmpCut) (h92 : t.tjMiss = s.tjMiss)
    (h93 : t.energyUj = s.energyUj) (h94 : t.selfRefresh = s.selfRefresh) (h95 : t.rst = s.rst) (h96 : t.aon = s.aon)
    (h97 : t.rstTimes = s.rstTimes) (h98 : t.flash = s.flash) (h99 : t.bootSel = s.bootSel) (h100 : t.i3c = s.i3c)
    (h101 : t.maddr = s.maddr) (h102 : t.tables = s.tables) (h103 : t.rails = s.rails) (h104 : t.tripLow = s.tripLow)
    (h105 : t.mgmt = s.mgmt) (h106 : t.lands = s.lands) (h107 : t.presCounts = s.presCounts)
    (h108 : t.owner = s.owner) (h109 : t.pufSeed = s.pufSeed) (h110 : t.spdm = s.spdm) (h111 : t.jtag = s.jtag)
    (h112 : t.lintRan = s.lintRan) (h113 : t.servo = s.servo) (h114 : t.cmpAllow = s.cmpAllow)
    (h115 : t.cmpEntry = s.cmpEntry) (h116 : t.cache = s.cache) (h117 : t.xbarReqs = s.xbarReqs)
    (h118 : t.qfullReqs = s.qfullReqs) (h119 : t.scrubAt = s.scrubAt) (h120 : t.tgRun = s.tgRun)
    (h121 : t.sideSyn = s.sideSyn) (h122 : t.copySyn = s.copySyn) (h123 : t.holdSince = s.holdSince)
    (h124 : t.hemRecs = s.hemRecs) (h125 : t.lastBay = s.lastBay) (h126 : t.idleAt = s.idleAt)
    (h127 : t.idleNs = s.idleNs) (h128 : t.steamRun = s.steamRun) (h129 : t.lintAt = s.lintAt)
    (h130 : t.lintTurn = s.lintTurn) (h131 : t.lintUsed = s.lintUsed) (h132 : t.lintSince = s.lintSince)
    (h133 : t.lintStart = s.lintStart) (h134 : t.fenceHeld = s.fenceHeld) (h135 : t.seamHeld = s.seamHeld)
    (h136 : t.mirrorEfb = s.mirrorEfb) (h137 : t.fetchAt = s.fetchAt) (h138 : t.deferSince = s.deferSince)
    (h139 : t.capSince = s.capSince) (h140 : t.clamps = s.clamps) (h141 : t.dbHeld = s.dbHeld)
    (h142 : t.linkAt = s.linkAt) (h143 : t.bondRx = s.bondRx) (h144 : t.fillRx = s.fillRx)
    (h145 : t.xbarFrom = s.xbarFrom) (h146 : t.qfullFrom = s.qfullFrom) (h147 : t.phy = s.phy)
    (h148 : t.bootPins = s.bootPins) (h149 : t.defaults = s.defaults) (h150 : t.upOnce = s.upOnce)
    (h151 : t.coolantSince = s.coolantSince) :
    t = s := by
  cases s
  cases t
  dsimp only at *
  subst_vars
  rfl

/-- `putReg` changes `regs` alone. -/
@[simp] theorem putReg_fields (a : Nat) (v : Word) (s : State) :
    (putReg a v s).pending = s.pending ∧ (putReg a v s).force = s.force ∧ (putReg a v s).mem = s.mem ∧
    (putReg a v s).syn = s.syn ∧ (putReg a v s).host = s.host ∧ (putReg a v s).bob = s.bob ∧
    (putReg a v s).free = s.free ∧ (putReg a v s).out = s.out ∧ (putReg a v s).rings = s.rings ∧
    (putReg a v s).ctxs = s.ctxs ∧ (putReg a v s).ctrs = s.ctrs ∧ (putReg a v s).inflight = s.inflight ∧
    (putReg a v s).wbWait = s.wbWait ∧ (putReg a v s).holder = s.holder ∧ (putReg a v s).heldSince = s.heldSince ∧
    (putReg a v s).mbWait = s.mbWait ∧ (putReg a v s).steps = s.steps ∧
    (putReg a v s).stoppedShown = s.stoppedShown ∧ (putReg a v s).lastDisc = s.lastDisc ∧
    (putReg a v s).upds = s.upds ∧ (putReg a v s).winHold = s.winHold ∧ (putReg a v s).heldReads = s.heldReads ∧
    (putReg a v s).ownBad = s.ownBad ∧ (putReg a v s).kept = s.kept ∧ (putReg a v s).verifies = s.verifies ∧
    (putReg a v s).readys = s.readys ∧ (putReg a v s).groups = s.groups ∧ (putReg a v s).mcValid = s.mcValid ∧
    (putReg a v s).seamTx = s.seamTx ∧ (putReg a v s).seamRx = s.seamRx ∧ (putReg a v s).seamWait = s.seamWait ∧
    (putReg a v s).xfer = s.xfer ∧ (putReg a v s).loadRx = s.loadRx ∧ (putReg a v s).press = s.press ∧
    (putReg a v s).ckptNow = s.ckptNow ∧ (putReg a v s).ckptLast = s.ckptLast ∧ (putReg a v s).drain = s.drain ∧
    (putReg a v s).ckptRx = s.ckptRx ∧ (putReg a v s).restore = s.restore ∧ (putReg a v s).ceCount = s.ceCount ∧
    (putReg a v s).side = s.side ∧ (putReg a v s).sideMem = s.sideMem ∧ (putReg a v s).partPend = s.partPend ∧
    (putReg a v s).pushed = s.pushed ∧ (putReg a v s).lent = s.lent ∧ (putReg a v s).lintRecs = s.lintRecs ∧
    (putReg a v s).lintOld = s.lintOld ∧ (putReg a v s).lintFirst = s.lintFirst ∧
    (putReg a v s).lintPack = s.lintPack ∧ (putReg a v s).lintNew = s.lintNew ∧
    (putReg a v s).lintHead = s.lintHead ∧ (putReg a v s).tgBusy = s.tgBusy ∧
    (putReg a v s).sensorMiss = s.sensorMiss ∧ (putReg a v s).tripPend = s.tripPend ∧
    (putReg a v s).rtrUp = s.rtrUp ∧ (putReg a v s).hifUp = s.hifUp ∧ (putReg a v s).memUp = s.memUp ∧
    (putReg a v s).cmpUp = s.cmpUp ∧ (putReg a v s).fenceNeed = s.fenceNeed ∧ (putReg a v s).fenceGot = s.fenceGot ∧
    (putReg a v s).reportSeq = s.reportSeq ∧ (putReg a v s).outcomes = s.outcomes ∧
    (putReg a v s).mirrorGroups = s.mirrorGroups ∧ (putReg a v s).ports = s.ports ∧ (putReg a v s).vcs = s.vcs ∧
    (putReg a v s).injHeld = s.injHeld ∧ (putReg a v s).drains = s.drains ∧ (putReg a v s).bondSeq = s.bondSeq ∧
    (putReg a v s).collIdx = s.collIdx ∧ (putReg a v s).sends = s.sends ∧ (putReg a v s).fenceQ = s.fenceQ ∧
    (putReg a v s).eng = s.eng ∧ (putReg a v s).waveT = s.waveT ∧ (putReg a v s).waveHeld = s.waveHeld ∧
    (putReg a v s).waveDue = s.waveDue ∧ (putReg a v s).folded = s.folded ∧ (putReg a v s).vcore = s.vcore ∧
    (putReg a v s).oppWord = s.oppWord ∧ (putReg a v s).oppTarget = s.oppTarget ∧
    (putReg a v s).oppNext = s.oppNext ∧ (putReg a v s).sprint = s.sprint ∧ (putReg a v s).rampWait = s.rampWait ∧
    (putReg a v s).rampHard = s.rampHard ∧ (putReg a v s).droopLow = s.droopLow ∧
    (putReg a v s).stretched = s.stretched ∧ (putReg a v s).quiet = s.quiet ∧ (putReg a v s).sprintOn = s.sprintOn ∧
    (putReg a v s).sprintLog = s.sprintLog ∧ (putReg a v s).sprintRefused = s.sprintRefused ∧
    (putReg a v s).sprintNotice = s.sprintNotice ∧ (putReg a v s).cmpCut = s.cmpCut ∧
    (putReg a v s).tjMiss = s.tjMiss ∧ (putReg a v s).energyUj = s.energyUj ∧
    (putReg a v s).selfRefresh = s.selfRefresh ∧ (putReg a v s).rst = s.rst ∧ (putReg a v s).aon = s.aon ∧
    (putReg a v s).rstTimes = s.rstTimes ∧ (putReg a v s).flash = s.flash ∧ (putReg a v s).bootSel = s.bootSel ∧
    (putReg a v s).i3c = s.i3c ∧ (putReg a v s).maddr = s.maddr ∧ (putReg a v s).tables = s.tables ∧
    (putReg a v s).rails = s.rails ∧ (putReg a v s).tripLow = s.tripLow ∧ (putReg a v s).mgmt = s.mgmt ∧
    (putReg a v s).lands = s.lands ∧ (putReg a v s).presCounts = s.presCounts ∧ (putReg a v s).owner = s.owner ∧
    (putReg a v s).pufSeed = s.pufSeed ∧ (putReg a v s).spdm = s.spdm ∧ (putReg a v s).jtag = s.jtag ∧
    (putReg a v s).lintRan = s.lintRan ∧ (putReg a v s).servo = s.servo ∧ (putReg a v s).cmpAllow = s.cmpAllow ∧
    (putReg a v s).cmpEntry = s.cmpEntry ∧ (putReg a v s).cache = s.cache ∧ (putReg a v s).xbarReqs = s.xbarReqs ∧
    (putReg a v s).qfullReqs = s.qfullReqs ∧ (putReg a v s).scrubAt = s.scrubAt ∧ (putReg a v s).tgRun = s.tgRun ∧
    (putReg a v s).sideSyn = s.sideSyn ∧ (putReg a v s).copySyn = s.copySyn ∧
    (putReg a v s).holdSince = s.holdSince ∧ (putReg a v s).hemRecs = s.hemRecs ∧
    (putReg a v s).lastBay = s.lastBay ∧ (putReg a v s).idleAt = s.idleAt ∧ (putReg a v s).idleNs = s.idleNs ∧
    (putReg a v s).steamRun = s.steamRun ∧ (putReg a v s).lintAt = s.lintAt ∧ (putReg a v s).lintTurn = s.lintTurn ∧
    (putReg a v s).lintUsed = s.lintUsed ∧ (putReg a v s).lintSince = s.lintSince ∧
    (putReg a v s).lintStart = s.lintStart ∧ (putReg a v s).fenceHeld = s.fenceHeld ∧
    (putReg a v s).seamHeld = s.seamHeld ∧ (putReg a v s).mirrorEfb = s.mirrorEfb ∧
    (putReg a v s).fetchAt = s.fetchAt ∧ (putReg a v s).deferSince = s.deferSince ∧
    (putReg a v s).capSince = s.capSince ∧ (putReg a v s).clamps = s.clamps ∧ (putReg a v s).dbHeld = s.dbHeld ∧
    (putReg a v s).linkAt = s.linkAt ∧ (putReg a v s).bondRx = s.bondRx ∧ (putReg a v s).fillRx = s.fillRx ∧
    (putReg a v s).xbarFrom = s.xbarFrom ∧ (putReg a v s).qfullFrom = s.qfullFrom ∧ (putReg a v s).phy = s.phy ∧
    (putReg a v s).bootPins = s.bootPins ∧ (putReg a v s).defaults = s.defaults ∧ (putReg a v s).upOnce = s.upOnce ∧
    (putReg a v s).coolantSince = s.coolantSince := by
  repeat' constructor

/-- `putForce` changes `force` alone. -/
@[simp] theorem putForce_fields (a : Nat) (v : Word) (s : State) :
    (putForce a v s).pending = s.pending ∧ (putForce a v s).regs = s.regs ∧ (putForce a v s).mem = s.mem ∧
    (putForce a v s).syn = s.syn ∧ (putForce a v s).host = s.host ∧ (putForce a v s).bob = s.bob ∧
    (putForce a v s).free = s.free ∧ (putForce a v s).out = s.out ∧ (putForce a v s).rings = s.rings ∧
    (putForce a v s).ctxs = s.ctxs ∧ (putForce a v s).ctrs = s.ctrs ∧ (putForce a v s).inflight = s.inflight ∧
    (putForce a v s).wbWait = s.wbWait ∧ (putForce a v s).holder = s.holder ∧
    (putForce a v s).heldSince = s.heldSince ∧ (putForce a v s).mbWait = s.mbWait ∧
    (putForce a v s).steps = s.steps ∧ (putForce a v s).stoppedShown = s.stoppedShown ∧
    (putForce a v s).lastDisc = s.lastDisc ∧ (putForce a v s).upds = s.upds ∧ (putForce a v s).winHold = s.winHold ∧
    (putForce a v s).heldReads = s.heldReads ∧ (putForce a v s).ownBad = s.ownBad ∧ (putForce a v s).kept = s.kept ∧
    (putForce a v s).verifies = s.verifies ∧ (putForce a v s).readys = s.readys ∧
    (putForce a v s).groups = s.groups ∧ (putForce a v s).mcValid = s.mcValid ∧ (putForce a v s).seamTx = s.seamTx ∧
    (putForce a v s).seamRx = s.seamRx ∧ (putForce a v s).seamWait = s.seamWait ∧ (putForce a v s).xfer = s.xfer ∧
    (putForce a v s).loadRx = s.loadRx ∧ (putForce a v s).press = s.press ∧ (putForce a v s).ckptNow = s.ckptNow ∧
    (putForce a v s).ckptLast = s.ckptLast ∧ (putForce a v s).drain = s.drain ∧ (putForce a v s).ckptRx = s.ckptRx ∧
    (putForce a v s).restore = s.restore ∧ (putForce a v s).ceCount = s.ceCount ∧ (putForce a v s).side = s.side ∧
    (putForce a v s).sideMem = s.sideMem ∧ (putForce a v s).partPend = s.partPend ∧
    (putForce a v s).pushed = s.pushed ∧ (putForce a v s).lent = s.lent ∧ (putForce a v s).lintRecs = s.lintRecs ∧
    (putForce a v s).lintOld = s.lintOld ∧ (putForce a v s).lintFirst = s.lintFirst ∧
    (putForce a v s).lintPack = s.lintPack ∧ (putForce a v s).lintNew = s.lintNew ∧
    (putForce a v s).lintHead = s.lintHead ∧ (putForce a v s).tgBusy = s.tgBusy ∧
    (putForce a v s).sensorMiss = s.sensorMiss ∧ (putForce a v s).tripPend = s.tripPend ∧
    (putForce a v s).rtrUp = s.rtrUp ∧ (putForce a v s).hifUp = s.hifUp ∧ (putForce a v s).memUp = s.memUp ∧
    (putForce a v s).cmpUp = s.cmpUp ∧ (putForce a v s).fenceNeed = s.fenceNeed ∧
    (putForce a v s).fenceGot = s.fenceGot ∧ (putForce a v s).reportSeq = s.reportSeq ∧
    (putForce a v s).outcomes = s.outcomes ∧ (putForce a v s).mirrorGroups = s.mirrorGroups ∧
    (putForce a v s).ports = s.ports ∧ (putForce a v s).vcs = s.vcs ∧ (putForce a v s).injHeld = s.injHeld ∧
    (putForce a v s).drains = s.drains ∧ (putForce a v s).bondSeq = s.bondSeq ∧
    (putForce a v s).collIdx = s.collIdx ∧ (putForce a v s).sends = s.sends ∧ (putForce a v s).fenceQ = s.fenceQ ∧
    (putForce a v s).eng = s.eng ∧ (putForce a v s).waveT = s.waveT ∧ (putForce a v s).waveHeld = s.waveHeld ∧
    (putForce a v s).waveDue = s.waveDue ∧ (putForce a v s).folded = s.folded ∧ (putForce a v s).vcore = s.vcore ∧
    (putForce a v s).oppWord = s.oppWord ∧ (putForce a v s).oppTarget = s.oppTarget ∧
    (putForce a v s).oppNext = s.oppNext ∧ (putForce a v s).sprint = s.sprint ∧
    (putForce a v s).rampWait = s.rampWait ∧ (putForce a v s).rampHard = s.rampHard ∧
    (putForce a v s).droopLow = s.droopLow ∧ (putForce a v s).stretched = s.stretched ∧
    (putForce a v s).quiet = s.quiet ∧ (putForce a v s).sprintOn = s.sprintOn ∧
    (putForce a v s).sprintLog = s.sprintLog ∧ (putForce a v s).sprintRefused = s.sprintRefused ∧
    (putForce a v s).sprintNotice = s.sprintNotice ∧ (putForce a v s).cmpCut = s.cmpCut ∧
    (putForce a v s).tjMiss = s.tjMiss ∧ (putForce a v s).energyUj = s.energyUj ∧
    (putForce a v s).selfRefresh = s.selfRefresh ∧ (putForce a v s).rst = s.rst ∧ (putForce a v s).aon = s.aon ∧
    (putForce a v s).rstTimes = s.rstTimes ∧ (putForce a v s).flash = s.flash ∧
    (putForce a v s).bootSel = s.bootSel ∧ (putForce a v s).i3c = s.i3c ∧ (putForce a v s).maddr = s.maddr ∧
    (putForce a v s).tables = s.tables ∧ (putForce a v s).rails = s.rails ∧ (putForce a v s).tripLow = s.tripLow ∧
    (putForce a v s).mgmt = s.mgmt ∧ (putForce a v s).lands = s.lands ∧ (putForce a v s).presCounts = s.presCounts ∧
    (putForce a v s).owner = s.owner ∧ (putForce a v s).pufSeed = s.pufSeed ∧ (putForce a v s).spdm = s.spdm ∧
    (putForce a v s).jtag = s.jtag ∧ (putForce a v s).lintRan = s.lintRan ∧ (putForce a v s).servo = s.servo ∧
    (putForce a v s).cmpAllow = s.cmpAllow ∧ (putForce a v s).cmpEntry = s.cmpEntry ∧
    (putForce a v s).cache = s.cache ∧ (putForce a v s).xbarReqs = s.xbarReqs ∧
    (putForce a v s).qfullReqs = s.qfullReqs ∧ (putForce a v s).scrubAt = s.scrubAt ∧
    (putForce a v s).tgRun = s.tgRun ∧ (putForce a v s).sideSyn = s.sideSyn ∧ (putForce a v s).copySyn = s.copySyn ∧
    (putForce a v s).holdSince = s.holdSince ∧ (putForce a v s).hemRecs = s.hemRecs ∧
    (putForce a v s).lastBay = s.lastBay ∧ (putForce a v s).idleAt = s.idleAt ∧ (putForce a v s).idleNs = s.idleNs ∧
    (putForce a v s).steamRun = s.steamRun ∧ (putForce a v s).lintAt = s.lintAt ∧
    (putForce a v s).lintTurn = s.lintTurn ∧ (putForce a v s).lintUsed = s.lintUsed ∧
    (putForce a v s).lintSince = s.lintSince ∧ (putForce a v s).lintStart = s.lintStart ∧
    (putForce a v s).fenceHeld = s.fenceHeld ∧ (putForce a v s).seamHeld = s.seamHeld ∧
    (putForce a v s).mirrorEfb = s.mirrorEfb ∧ (putForce a v s).fetchAt = s.fetchAt ∧
    (putForce a v s).deferSince = s.deferSince ∧ (putForce a v s).capSince = s.capSince ∧
    (putForce a v s).clamps = s.clamps ∧ (putForce a v s).dbHeld = s.dbHeld ∧ (putForce a v s).linkAt = s.linkAt ∧
    (putForce a v s).bondRx = s.bondRx ∧ (putForce a v s).fillRx = s.fillRx ∧
    (putForce a v s).xbarFrom = s.xbarFrom ∧ (putForce a v s).qfullFrom = s.qfullFrom ∧
    (putForce a v s).phy = s.phy ∧ (putForce a v s).bootPins = s.bootPins ∧ (putForce a v s).defaults = s.defaults ∧
    (putForce a v s).upOnce = s.upOnce ∧ (putForce a v s).coolantSince = s.coolantSince := by
  repeat' constructor

/-- `put` changes `regs` alone. -/
@[simp] theorem put_fields (f : Fld) (x : Nat) (s : State) :
    (put f x s).pending = s.pending ∧ (put f x s).force = s.force ∧ (put f x s).mem = s.mem ∧
    (put f x s).syn = s.syn ∧ (put f x s).host = s.host ∧ (put f x s).bob = s.bob ∧ (put f x s).free = s.free ∧
    (put f x s).out = s.out ∧ (put f x s).rings = s.rings ∧ (put f x s).ctxs = s.ctxs ∧ (put f x s).ctrs = s.ctrs ∧
    (put f x s).inflight = s.inflight ∧ (put f x s).wbWait = s.wbWait ∧ (put f x s).holder = s.holder ∧
    (put f x s).heldSince = s.heldSince ∧ (put f x s).mbWait = s.mbWait ∧ (put f x s).steps = s.steps ∧
    (put f x s).stoppedShown = s.stoppedShown ∧ (put f x s).lastDisc = s.lastDisc ∧ (put f x s).upds = s.upds ∧
    (put f x s).winHold = s.winHold ∧ (put f x s).heldReads = s.heldReads ∧ (put f x s).ownBad = s.ownBad ∧
    (put f x s).kept = s.kept ∧ (put f x s).verifies = s.verifies ∧ (put f x s).readys = s.readys ∧
    (put f x s).groups = s.groups ∧ (put f x s).mcValid = s.mcValid ∧ (put f x s).seamTx = s.seamTx ∧
    (put f x s).seamRx = s.seamRx ∧ (put f x s).seamWait = s.seamWait ∧ (put f x s).xfer = s.xfer ∧
    (put f x s).loadRx = s.loadRx ∧ (put f x s).press = s.press ∧ (put f x s).ckptNow = s.ckptNow ∧
    (put f x s).ckptLast = s.ckptLast ∧ (put f x s).drain = s.drain ∧ (put f x s).ckptRx = s.ckptRx ∧
    (put f x s).restore = s.restore ∧ (put f x s).ceCount = s.ceCount ∧ (put f x s).side = s.side ∧
    (put f x s).sideMem = s.sideMem ∧ (put f x s).partPend = s.partPend ∧ (put f x s).pushed = s.pushed ∧
    (put f x s).lent = s.lent ∧ (put f x s).lintRecs = s.lintRecs ∧ (put f x s).lintOld = s.lintOld ∧
    (put f x s).lintFirst = s.lintFirst ∧ (put f x s).lintPack = s.lintPack ∧ (put f x s).lintNew = s.lintNew ∧
    (put f x s).lintHead = s.lintHead ∧ (put f x s).tgBusy = s.tgBusy ∧ (put f x s).sensorMiss = s.sensorMiss ∧
    (put f x s).tripPend = s.tripPend ∧ (put f x s).rtrUp = s.rtrUp ∧ (put f x s).hifUp = s.hifUp ∧
    (put f x s).memUp = s.memUp ∧ (put f x s).cmpUp = s.cmpUp ∧ (put f x s).fenceNeed = s.fenceNeed ∧
    (put f x s).fenceGot = s.fenceGot ∧ (put f x s).reportSeq = s.reportSeq ∧ (put f x s).outcomes = s.outcomes ∧
    (put f x s).mirrorGroups = s.mirrorGroups ∧ (put f x s).ports = s.ports ∧ (put f x s).vcs = s.vcs ∧
    (put f x s).injHeld = s.injHeld ∧ (put f x s).drains = s.drains ∧ (put f x s).bondSeq = s.bondSeq ∧
    (put f x s).collIdx = s.collIdx ∧ (put f x s).sends = s.sends ∧ (put f x s).fenceQ = s.fenceQ ∧
    (put f x s).eng = s.eng ∧ (put f x s).waveT = s.waveT ∧ (put f x s).waveHeld = s.waveHeld ∧
    (put f x s).waveDue = s.waveDue ∧ (put f x s).folded = s.folded ∧ (put f x s).vcore = s.vcore ∧
    (put f x s).oppWord = s.oppWord ∧ (put f x s).oppTarget = s.oppTarget ∧ (put f x s).oppNext = s.oppNext ∧
    (put f x s).sprint = s.sprint ∧ (put f x s).rampWait = s.rampWait ∧ (put f x s).rampHard = s.rampHard ∧
    (put f x s).droopLow = s.droopLow ∧ (put f x s).stretched = s.stretched ∧ (put f x s).quiet = s.quiet ∧
    (put f x s).sprintOn = s.sprintOn ∧ (put f x s).sprintLog = s.sprintLog ∧
    (put f x s).sprintRefused = s.sprintRefused ∧ (put f x s).sprintNotice = s.sprintNotice ∧
    (put f x s).cmpCut = s.cmpCut ∧ (put f x s).tjMiss = s.tjMiss ∧ (put f x s).energyUj = s.energyUj ∧
    (put f x s).selfRefresh = s.selfRefresh ∧ (put f x s).rst = s.rst ∧ (put f x s).aon = s.aon ∧
    (put f x s).rstTimes = s.rstTimes ∧ (put f x s).flash = s.flash ∧ (put f x s).bootSel = s.bootSel ∧
    (put f x s).i3c = s.i3c ∧ (put f x s).maddr = s.maddr ∧ (put f x s).tables = s.tables ∧
    (put f x s).rails = s.rails ∧ (put f x s).tripLow = s.tripLow ∧ (put f x s).mgmt = s.mgmt ∧
    (put f x s).lands = s.lands ∧ (put f x s).presCounts = s.presCounts ∧ (put f x s).owner = s.owner ∧
    (put f x s).pufSeed = s.pufSeed ∧ (put f x s).spdm = s.spdm ∧ (put f x s).jtag = s.jtag ∧
    (put f x s).lintRan = s.lintRan ∧ (put f x s).servo = s.servo ∧ (put f x s).cmpAllow = s.cmpAllow ∧
    (put f x s).cmpEntry = s.cmpEntry ∧ (put f x s).cache = s.cache ∧ (put f x s).xbarReqs = s.xbarReqs ∧
    (put f x s).qfullReqs = s.qfullReqs ∧ (put f x s).scrubAt = s.scrubAt ∧ (put f x s).tgRun = s.tgRun ∧
    (put f x s).sideSyn = s.sideSyn ∧ (put f x s).copySyn = s.copySyn ∧ (put f x s).holdSince = s.holdSince ∧
    (put f x s).hemRecs = s.hemRecs ∧ (put f x s).lastBay = s.lastBay ∧ (put f x s).idleAt = s.idleAt ∧
    (put f x s).idleNs = s.idleNs ∧ (put f x s).steamRun = s.steamRun ∧ (put f x s).lintAt = s.lintAt ∧
    (put f x s).lintTurn = s.lintTurn ∧ (put f x s).lintUsed = s.lintUsed ∧ (put f x s).lintSince = s.lintSince ∧
    (put f x s).lintStart = s.lintStart ∧ (put f x s).fenceHeld = s.fenceHeld ∧ (put f x s).seamHeld = s.seamHeld ∧
    (put f x s).mirrorEfb = s.mirrorEfb ∧ (put f x s).fetchAt = s.fetchAt ∧ (put f x s).deferSince = s.deferSince ∧
    (put f x s).capSince = s.capSince ∧ (put f x s).clamps = s.clamps ∧ (put f x s).dbHeld = s.dbHeld ∧
    (put f x s).linkAt = s.linkAt ∧ (put f x s).bondRx = s.bondRx ∧ (put f x s).fillRx = s.fillRx ∧
    (put f x s).xbarFrom = s.xbarFrom ∧ (put f x s).qfullFrom = s.qfullFrom ∧ (put f x s).phy = s.phy ∧
    (put f x s).bootPins = s.bootPins ∧ (put f x s).defaults = s.defaults ∧ (put f x s).upOnce = s.upOnce ∧
    (put f x s).coolantSince = s.coolantSince := by
  repeat' constructor

/-- `bump` changes `regs` alone. -/
@[simp] theorem bump_fields (f : Fld) (n : Nat) (s : State) :
    (bump f n s).pending = s.pending ∧ (bump f n s).force = s.force ∧ (bump f n s).mem = s.mem ∧
    (bump f n s).syn = s.syn ∧ (bump f n s).host = s.host ∧ (bump f n s).bob = s.bob ∧ (bump f n s).free = s.free ∧
    (bump f n s).out = s.out ∧ (bump f n s).rings = s.rings ∧ (bump f n s).ctxs = s.ctxs ∧
    (bump f n s).ctrs = s.ctrs ∧ (bump f n s).inflight = s.inflight ∧ (bump f n s).wbWait = s.wbWait ∧
    (bump f n s).holder = s.holder ∧ (bump f n s).heldSince = s.heldSince ∧ (bump f n s).mbWait = s.mbWait ∧
    (bump f n s).steps = s.steps ∧ (bump f n s).stoppedShown = s.stoppedShown ∧ (bump f n s).lastDisc = s.lastDisc ∧
    (bump f n s).upds = s.upds ∧ (bump f n s).winHold = s.winHold ∧ (bump f n s).heldReads = s.heldReads ∧
    (bump f n s).ownBad = s.ownBad ∧ (bump f n s).kept = s.kept ∧ (bump f n s).verifies = s.verifies ∧
    (bump f n s).readys = s.readys ∧ (bump f n s).groups = s.groups ∧ (bump f n s).mcValid = s.mcValid ∧
    (bump f n s).seamTx = s.seamTx ∧ (bump f n s).seamRx = s.seamRx ∧ (bump f n s).seamWait = s.seamWait ∧
    (bump f n s).xfer = s.xfer ∧ (bump f n s).loadRx = s.loadRx ∧ (bump f n s).press = s.press ∧
    (bump f n s).ckptNow = s.ckptNow ∧ (bump f n s).ckptLast = s.ckptLast ∧ (bump f n s).drain = s.drain ∧
    (bump f n s).ckptRx = s.ckptRx ∧ (bump f n s).restore = s.restore ∧ (bump f n s).ceCount = s.ceCount ∧
    (bump f n s).side = s.side ∧ (bump f n s).sideMem = s.sideMem ∧ (bump f n s).partPend = s.partPend ∧
    (bump f n s).pushed = s.pushed ∧ (bump f n s).lent = s.lent ∧ (bump f n s).lintRecs = s.lintRecs ∧
    (bump f n s).lintOld = s.lintOld ∧ (bump f n s).lintFirst = s.lintFirst ∧ (bump f n s).lintPack = s.lintPack ∧
    (bump f n s).lintNew = s.lintNew ∧ (bump f n s).lintHead = s.lintHead ∧ (bump f n s).tgBusy = s.tgBusy ∧
    (bump f n s).sensorMiss = s.sensorMiss ∧ (bump f n s).tripPend = s.tripPend ∧ (bump f n s).rtrUp = s.rtrUp ∧
    (bump f n s).hifUp = s.hifUp ∧ (bump f n s).memUp = s.memUp ∧ (bump f n s).cmpUp = s.cmpUp ∧
    (bump f n s).fenceNeed = s.fenceNeed ∧ (bump f n s).fenceGot = s.fenceGot ∧
    (bump f n s).reportSeq = s.reportSeq ∧ (bump f n s).outcomes = s.outcomes ∧
    (bump f n s).mirrorGroups = s.mirrorGroups ∧ (bump f n s).ports = s.ports ∧ (bump f n s).vcs = s.vcs ∧
    (bump f n s).injHeld = s.injHeld ∧ (bump f n s).drains = s.drains ∧ (bump f n s).bondSeq = s.bondSeq ∧
    (bump f n s).collIdx = s.collIdx ∧ (bump f n s).sends = s.sends ∧ (bump f n s).fenceQ = s.fenceQ ∧
    (bump f n s).eng = s.eng ∧ (bump f n s).waveT = s.waveT ∧ (bump f n s).waveHeld = s.waveHeld ∧
    (bump f n s).waveDue = s.waveDue ∧ (bump f n s).folded = s.folded ∧ (bump f n s).vcore = s.vcore ∧
    (bump f n s).oppWord = s.oppWord ∧ (bump f n s).oppTarget = s.oppTarget ∧ (bump f n s).oppNext = s.oppNext ∧
    (bump f n s).sprint = s.sprint ∧ (bump f n s).rampWait = s.rampWait ∧ (bump f n s).rampHard = s.rampHard ∧
    (bump f n s).droopLow = s.droopLow ∧ (bump f n s).stretched = s.stretched ∧ (bump f n s).quiet = s.quiet ∧
    (bump f n s).sprintOn = s.sprintOn ∧ (bump f n s).sprintLog = s.sprintLog ∧
    (bump f n s).sprintRefused = s.sprintRefused ∧ (bump f n s).sprintNotice = s.sprintNotice ∧
    (bump f n s).cmpCut = s.cmpCut ∧ (bump f n s).tjMiss = s.tjMiss ∧ (bump f n s).energyUj = s.energyUj ∧
    (bump f n s).selfRefresh = s.selfRefresh ∧ (bump f n s).rst = s.rst ∧ (bump f n s).aon = s.aon ∧
    (bump f n s).rstTimes = s.rstTimes ∧ (bump f n s).flash = s.flash ∧ (bump f n s).bootSel = s.bootSel ∧
    (bump f n s).i3c = s.i3c ∧ (bump f n s).maddr = s.maddr ∧ (bump f n s).tables = s.tables ∧
    (bump f n s).rails = s.rails ∧ (bump f n s).tripLow = s.tripLow ∧ (bump f n s).mgmt = s.mgmt ∧
    (bump f n s).lands = s.lands ∧ (bump f n s).presCounts = s.presCounts ∧ (bump f n s).owner = s.owner ∧
    (bump f n s).pufSeed = s.pufSeed ∧ (bump f n s).spdm = s.spdm ∧ (bump f n s).jtag = s.jtag ∧
    (bump f n s).lintRan = s.lintRan ∧ (bump f n s).servo = s.servo ∧ (bump f n s).cmpAllow = s.cmpAllow ∧
    (bump f n s).cmpEntry = s.cmpEntry ∧ (bump f n s).cache = s.cache ∧ (bump f n s).xbarReqs = s.xbarReqs ∧
    (bump f n s).qfullReqs = s.qfullReqs ∧ (bump f n s).scrubAt = s.scrubAt ∧ (bump f n s).tgRun = s.tgRun ∧
    (bump f n s).sideSyn = s.sideSyn ∧ (bump f n s).copySyn = s.copySyn ∧ (bump f n s).holdSince = s.holdSince ∧
    (bump f n s).hemRecs = s.hemRecs ∧ (bump f n s).lastBay = s.lastBay ∧ (bump f n s).idleAt = s.idleAt ∧
    (bump f n s).idleNs = s.idleNs ∧ (bump f n s).steamRun = s.steamRun ∧ (bump f n s).lintAt = s.lintAt ∧
    (bump f n s).lintTurn = s.lintTurn ∧ (bump f n s).lintUsed = s.lintUsed ∧ (bump f n s).lintSince = s.lintSince ∧
    (bump f n s).lintStart = s.lintStart ∧ (bump f n s).fenceHeld = s.fenceHeld ∧
    (bump f n s).seamHeld = s.seamHeld ∧ (bump f n s).mirrorEfb = s.mirrorEfb ∧ (bump f n s).fetchAt = s.fetchAt ∧
    (bump f n s).deferSince = s.deferSince ∧ (bump f n s).capSince = s.capSince ∧ (bump f n s).clamps = s.clamps ∧
    (bump f n s).dbHeld = s.dbHeld ∧ (bump f n s).linkAt = s.linkAt ∧ (bump f n s).bondRx = s.bondRx ∧
    (bump f n s).fillRx = s.fillRx ∧ (bump f n s).xbarFrom = s.xbarFrom ∧ (bump f n s).qfullFrom = s.qfullFrom ∧
    (bump f n s).phy = s.phy ∧ (bump f n s).bootPins = s.bootPins ∧ (bump f n s).defaults = s.defaults ∧
    (bump f n s).upOnce = s.upOnce ∧ (bump f n s).coolantSince = s.coolantSince := by
  repeat' constructor

/-- `memPut` changes `mem` alone. -/
@[simp] theorem memPut_fields (a : Nat) (b : Byte) (s : State) :
    (memPut a b s).pending = s.pending ∧ (memPut a b s).regs = s.regs ∧ (memPut a b s).force = s.force ∧
    (memPut a b s).syn = s.syn ∧ (memPut a b s).host = s.host ∧ (memPut a b s).bob = s.bob ∧
    (memPut a b s).free = s.free ∧ (memPut a b s).out = s.out ∧ (memPut a b s).rings = s.rings ∧
    (memPut a b s).ctxs = s.ctxs ∧ (memPut a b s).ctrs = s.ctrs ∧ (memPut a b s).inflight = s.inflight ∧
    (memPut a b s).wbWait = s.wbWait ∧ (memPut a b s).holder = s.holder ∧ (memPut a b s).heldSince = s.heldSince ∧
    (memPut a b s).mbWait = s.mbWait ∧ (memPut a b s).steps = s.steps ∧
    (memPut a b s).stoppedShown = s.stoppedShown ∧ (memPut a b s).lastDisc = s.lastDisc ∧
    (memPut a b s).upds = s.upds ∧ (memPut a b s).winHold = s.winHold ∧ (memPut a b s).heldReads = s.heldReads ∧
    (memPut a b s).ownBad = s.ownBad ∧ (memPut a b s).kept = s.kept ∧ (memPut a b s).verifies = s.verifies ∧
    (memPut a b s).readys = s.readys ∧ (memPut a b s).groups = s.groups ∧ (memPut a b s).mcValid = s.mcValid ∧
    (memPut a b s).seamTx = s.seamTx ∧ (memPut a b s).seamRx = s.seamRx ∧ (memPut a b s).seamWait = s.seamWait ∧
    (memPut a b s).xfer = s.xfer ∧ (memPut a b s).loadRx = s.loadRx ∧ (memPut a b s).press = s.press ∧
    (memPut a b s).ckptNow = s.ckptNow ∧ (memPut a b s).ckptLast = s.ckptLast ∧ (memPut a b s).drain = s.drain ∧
    (memPut a b s).ckptRx = s.ckptRx ∧ (memPut a b s).restore = s.restore ∧ (memPut a b s).ceCount = s.ceCount ∧
    (memPut a b s).side = s.side ∧ (memPut a b s).sideMem = s.sideMem ∧ (memPut a b s).partPend = s.partPend ∧
    (memPut a b s).pushed = s.pushed ∧ (memPut a b s).lent = s.lent ∧ (memPut a b s).lintRecs = s.lintRecs ∧
    (memPut a b s).lintOld = s.lintOld ∧ (memPut a b s).lintFirst = s.lintFirst ∧
    (memPut a b s).lintPack = s.lintPack ∧ (memPut a b s).lintNew = s.lintNew ∧
    (memPut a b s).lintHead = s.lintHead ∧ (memPut a b s).tgBusy = s.tgBusy ∧
    (memPut a b s).sensorMiss = s.sensorMiss ∧ (memPut a b s).tripPend = s.tripPend ∧
    (memPut a b s).rtrUp = s.rtrUp ∧ (memPut a b s).hifUp = s.hifUp ∧ (memPut a b s).memUp = s.memUp ∧
    (memPut a b s).cmpUp = s.cmpUp ∧ (memPut a b s).fenceNeed = s.fenceNeed ∧ (memPut a b s).fenceGot = s.fenceGot ∧
    (memPut a b s).reportSeq = s.reportSeq ∧ (memPut a b s).outcomes = s.outcomes ∧
    (memPut a b s).mirrorGroups = s.mirrorGroups ∧ (memPut a b s).ports = s.ports ∧ (memPut a b s).vcs = s.vcs ∧
    (memPut a b s).injHeld = s.injHeld ∧ (memPut a b s).drains = s.drains ∧ (memPut a b s).bondSeq = s.bondSeq ∧
    (memPut a b s).collIdx = s.collIdx ∧ (memPut a b s).sends = s.sends ∧ (memPut a b s).fenceQ = s.fenceQ ∧
    (memPut a b s).eng = s.eng ∧ (memPut a b s).waveT = s.waveT ∧ (memPut a b s).waveHeld = s.waveHeld ∧
    (memPut a b s).waveDue = s.waveDue ∧ (memPut a b s).folded = s.folded ∧ (memPut a b s).vcore = s.vcore ∧
    (memPut a b s).oppWord = s.oppWord ∧ (memPut a b s).oppTarget = s.oppTarget ∧
    (memPut a b s).oppNext = s.oppNext ∧ (memPut a b s).sprint = s.sprint ∧ (memPut a b s).rampWait = s.rampWait ∧
    (memPut a b s).rampHard = s.rampHard ∧ (memPut a b s).droopLow = s.droopLow ∧
    (memPut a b s).stretched = s.stretched ∧ (memPut a b s).quiet = s.quiet ∧ (memPut a b s).sprintOn = s.sprintOn ∧
    (memPut a b s).sprintLog = s.sprintLog ∧ (memPut a b s).sprintRefused = s.sprintRefused ∧
    (memPut a b s).sprintNotice = s.sprintNotice ∧ (memPut a b s).cmpCut = s.cmpCut ∧
    (memPut a b s).tjMiss = s.tjMiss ∧ (memPut a b s).energyUj = s.energyUj ∧
    (memPut a b s).selfRefresh = s.selfRefresh ∧ (memPut a b s).rst = s.rst ∧ (memPut a b s).aon = s.aon ∧
    (memPut a b s).rstTimes = s.rstTimes ∧ (memPut a b s).flash = s.flash ∧ (memPut a b s).bootSel = s.bootSel ∧
    (memPut a b s).i3c = s.i3c ∧ (memPut a b s).maddr = s.maddr ∧ (memPut a b s).tables = s.tables ∧
    (memPut a b s).rails = s.rails ∧ (memPut a b s).tripLow = s.tripLow ∧ (memPut a b s).mgmt = s.mgmt ∧
    (memPut a b s).lands = s.lands ∧ (memPut a b s).presCounts = s.presCounts ∧ (memPut a b s).owner = s.owner ∧
    (memPut a b s).pufSeed = s.pufSeed ∧ (memPut a b s).spdm = s.spdm ∧ (memPut a b s).jtag = s.jtag ∧
    (memPut a b s).lintRan = s.lintRan ∧ (memPut a b s).servo = s.servo ∧ (memPut a b s).cmpAllow = s.cmpAllow ∧
    (memPut a b s).cmpEntry = s.cmpEntry ∧ (memPut a b s).cache = s.cache ∧ (memPut a b s).xbarReqs = s.xbarReqs ∧
    (memPut a b s).qfullReqs = s.qfullReqs ∧ (memPut a b s).scrubAt = s.scrubAt ∧ (memPut a b s).tgRun = s.tgRun ∧
    (memPut a b s).sideSyn = s.sideSyn ∧ (memPut a b s).copySyn = s.copySyn ∧
    (memPut a b s).holdSince = s.holdSince ∧ (memPut a b s).hemRecs = s.hemRecs ∧
    (memPut a b s).lastBay = s.lastBay ∧ (memPut a b s).idleAt = s.idleAt ∧ (memPut a b s).idleNs = s.idleNs ∧
    (memPut a b s).steamRun = s.steamRun ∧ (memPut a b s).lintAt = s.lintAt ∧ (memPut a b s).lintTurn = s.lintTurn ∧
    (memPut a b s).lintUsed = s.lintUsed ∧ (memPut a b s).lintSince = s.lintSince ∧
    (memPut a b s).lintStart = s.lintStart ∧ (memPut a b s).fenceHeld = s.fenceHeld ∧
    (memPut a b s).seamHeld = s.seamHeld ∧ (memPut a b s).mirrorEfb = s.mirrorEfb ∧
    (memPut a b s).fetchAt = s.fetchAt ∧ (memPut a b s).deferSince = s.deferSince ∧
    (memPut a b s).capSince = s.capSince ∧ (memPut a b s).clamps = s.clamps ∧ (memPut a b s).dbHeld = s.dbHeld ∧
    (memPut a b s).linkAt = s.linkAt ∧ (memPut a b s).bondRx = s.bondRx ∧ (memPut a b s).fillRx = s.fillRx ∧
    (memPut a b s).xbarFrom = s.xbarFrom ∧ (memPut a b s).qfullFrom = s.qfullFrom ∧ (memPut a b s).phy = s.phy ∧
    (memPut a b s).bootPins = s.bootPins ∧ (memPut a b s).defaults = s.defaults ∧ (memPut a b s).upOnce = s.upOnce ∧
    (memPut a b s).coolantSince = s.coolantSince := by
  repeat' constructor

/-- `hostPut` changes `host` alone. -/
@[simp] theorem hostPut_fields (a : Nat) (b : Byte) (s : State) :
    (hostPut a b s).pending = s.pending ∧ (hostPut a b s).regs = s.regs ∧ (hostPut a b s).force = s.force ∧
    (hostPut a b s).mem = s.mem ∧ (hostPut a b s).syn = s.syn ∧ (hostPut a b s).bob = s.bob ∧
    (hostPut a b s).free = s.free ∧ (hostPut a b s).out = s.out ∧ (hostPut a b s).rings = s.rings ∧
    (hostPut a b s).ctxs = s.ctxs ∧ (hostPut a b s).ctrs = s.ctrs ∧ (hostPut a b s).inflight = s.inflight ∧
    (hostPut a b s).wbWait = s.wbWait ∧ (hostPut a b s).holder = s.holder ∧ (hostPut a b s).heldSince = s.heldSince ∧
    (hostPut a b s).mbWait = s.mbWait ∧ (hostPut a b s).steps = s.steps ∧
    (hostPut a b s).stoppedShown = s.stoppedShown ∧ (hostPut a b s).lastDisc = s.lastDisc ∧
    (hostPut a b s).upds = s.upds ∧ (hostPut a b s).winHold = s.winHold ∧ (hostPut a b s).heldReads = s.heldReads ∧
    (hostPut a b s).ownBad = s.ownBad ∧ (hostPut a b s).kept = s.kept ∧ (hostPut a b s).verifies = s.verifies ∧
    (hostPut a b s).readys = s.readys ∧ (hostPut a b s).groups = s.groups ∧ (hostPut a b s).mcValid = s.mcValid ∧
    (hostPut a b s).seamTx = s.seamTx ∧ (hostPut a b s).seamRx = s.seamRx ∧ (hostPut a b s).seamWait = s.seamWait ∧
    (hostPut a b s).xfer = s.xfer ∧ (hostPut a b s).loadRx = s.loadRx ∧ (hostPut a b s).press = s.press ∧
    (hostPut a b s).ckptNow = s.ckptNow ∧ (hostPut a b s).ckptLast = s.ckptLast ∧ (hostPut a b s).drain = s.drain ∧
    (hostPut a b s).ckptRx = s.ckptRx ∧ (hostPut a b s).restore = s.restore ∧ (hostPut a b s).ceCount = s.ceCount ∧
    (hostPut a b s).side = s.side ∧ (hostPut a b s).sideMem = s.sideMem ∧ (hostPut a b s).partPend = s.partPend ∧
    (hostPut a b s).pushed = s.pushed ∧ (hostPut a b s).lent = s.lent ∧ (hostPut a b s).lintRecs = s.lintRecs ∧
    (hostPut a b s).lintOld = s.lintOld ∧ (hostPut a b s).lintFirst = s.lintFirst ∧
    (hostPut a b s).lintPack = s.lintPack ∧ (hostPut a b s).lintNew = s.lintNew ∧
    (hostPut a b s).lintHead = s.lintHead ∧ (hostPut a b s).tgBusy = s.tgBusy ∧
    (hostPut a b s).sensorMiss = s.sensorMiss ∧ (hostPut a b s).tripPend = s.tripPend ∧
    (hostPut a b s).rtrUp = s.rtrUp ∧ (hostPut a b s).hifUp = s.hifUp ∧ (hostPut a b s).memUp = s.memUp ∧
    (hostPut a b s).cmpUp = s.cmpUp ∧ (hostPut a b s).fenceNeed = s.fenceNeed ∧
    (hostPut a b s).fenceGot = s.fenceGot ∧ (hostPut a b s).reportSeq = s.reportSeq ∧
    (hostPut a b s).outcomes = s.outcomes ∧ (hostPut a b s).mirrorGroups = s.mirrorGroups ∧
    (hostPut a b s).ports = s.ports ∧ (hostPut a b s).vcs = s.vcs ∧ (hostPut a b s).injHeld = s.injHeld ∧
    (hostPut a b s).drains = s.drains ∧ (hostPut a b s).bondSeq = s.bondSeq ∧ (hostPut a b s).collIdx = s.collIdx ∧
    (hostPut a b s).sends = s.sends ∧ (hostPut a b s).fenceQ = s.fenceQ ∧ (hostPut a b s).eng = s.eng ∧
    (hostPut a b s).waveT = s.waveT ∧ (hostPut a b s).waveHeld = s.waveHeld ∧ (hostPut a b s).waveDue = s.waveDue ∧
    (hostPut a b s).folded = s.folded ∧ (hostPut a b s).vcore = s.vcore ∧ (hostPut a b s).oppWord = s.oppWord ∧
    (hostPut a b s).oppTarget = s.oppTarget ∧ (hostPut a b s).oppNext = s.oppNext ∧
    (hostPut a b s).sprint = s.sprint ∧ (hostPut a b s).rampWait = s.rampWait ∧
    (hostPut a b s).rampHard = s.rampHard ∧ (hostPut a b s).droopLow = s.droopLow ∧
    (hostPut a b s).stretched = s.stretched ∧ (hostPut a b s).quiet = s.quiet ∧
    (hostPut a b s).sprintOn = s.sprintOn ∧ (hostPut a b s).sprintLog = s.sprintLog ∧
    (hostPut a b s).sprintRefused = s.sprintRefused ∧ (hostPut a b s).sprintNotice = s.sprintNotice ∧
    (hostPut a b s).cmpCut = s.cmpCut ∧ (hostPut a b s).tjMiss = s.tjMiss ∧ (hostPut a b s).energyUj = s.energyUj ∧
    (hostPut a b s).selfRefresh = s.selfRefresh ∧ (hostPut a b s).rst = s.rst ∧ (hostPut a b s).aon = s.aon ∧
    (hostPut a b s).rstTimes = s.rstTimes ∧ (hostPut a b s).flash = s.flash ∧ (hostPut a b s).bootSel = s.bootSel ∧
    (hostPut a b s).i3c = s.i3c ∧ (hostPut a b s).maddr = s.maddr ∧ (hostPut a b s).tables = s.tables ∧
    (hostPut a b s).rails = s.rails ∧ (hostPut a b s).tripLow = s.tripLow ∧ (hostPut a b s).mgmt = s.mgmt ∧
    (hostPut a b s).lands = s.lands ∧ (hostPut a b s).presCounts = s.presCounts ∧ (hostPut a b s).owner = s.owner ∧
    (hostPut a b s).pufSeed = s.pufSeed ∧ (hostPut a b s).spdm = s.spdm ∧ (hostPut a b s).jtag = s.jtag ∧
    (hostPut a b s).lintRan = s.lintRan ∧ (hostPut a b s).servo = s.servo ∧ (hostPut a b s).cmpAllow = s.cmpAllow ∧
    (hostPut a b s).cmpEntry = s.cmpEntry ∧ (hostPut a b s).cache = s.cache ∧ (hostPut a b s).xbarReqs = s.xbarReqs ∧
    (hostPut a b s).qfullReqs = s.qfullReqs ∧ (hostPut a b s).scrubAt = s.scrubAt ∧ (hostPut a b s).tgRun = s.tgRun ∧
    (hostPut a b s).sideSyn = s.sideSyn ∧ (hostPut a b s).copySyn = s.copySyn ∧
    (hostPut a b s).holdSince = s.holdSince ∧ (hostPut a b s).hemRecs = s.hemRecs ∧
    (hostPut a b s).lastBay = s.lastBay ∧ (hostPut a b s).idleAt = s.idleAt ∧ (hostPut a b s).idleNs = s.idleNs ∧
    (hostPut a b s).steamRun = s.steamRun ∧ (hostPut a b s).lintAt = s.lintAt ∧
    (hostPut a b s).lintTurn = s.lintTurn ∧ (hostPut a b s).lintUsed = s.lintUsed ∧
    (hostPut a b s).lintSince = s.lintSince ∧ (hostPut a b s).lintStart = s.lintStart ∧
    (hostPut a b s).fenceHeld = s.fenceHeld ∧ (hostPut a b s).seamHeld = s.seamHeld ∧
    (hostPut a b s).mirrorEfb = s.mirrorEfb ∧ (hostPut a b s).fetchAt = s.fetchAt ∧
    (hostPut a b s).deferSince = s.deferSince ∧ (hostPut a b s).capSince = s.capSince ∧
    (hostPut a b s).clamps = s.clamps ∧ (hostPut a b s).dbHeld = s.dbHeld ∧ (hostPut a b s).linkAt = s.linkAt ∧
    (hostPut a b s).bondRx = s.bondRx ∧ (hostPut a b s).fillRx = s.fillRx ∧ (hostPut a b s).xbarFrom = s.xbarFrom ∧
    (hostPut a b s).qfullFrom = s.qfullFrom ∧ (hostPut a b s).phy = s.phy ∧ (hostPut a b s).bootPins = s.bootPins ∧
    (hostPut a b s).defaults = s.defaults ∧ (hostPut a b s).upOnce = s.upOnce ∧
    (hostPut a b s).coolantSince = s.coolantSince := by
  repeat' constructor

/-- `synPut` changes `syn` alone. -/
@[simp] theorem synPut_fields (w x : Nat) (s : State) :
    (synPut w x s).pending = s.pending ∧ (synPut w x s).regs = s.regs ∧ (synPut w x s).force = s.force ∧
    (synPut w x s).mem = s.mem ∧ (synPut w x s).host = s.host ∧ (synPut w x s).bob = s.bob ∧
    (synPut w x s).free = s.free ∧ (synPut w x s).out = s.out ∧ (synPut w x s).rings = s.rings ∧
    (synPut w x s).ctxs = s.ctxs ∧ (synPut w x s).ctrs = s.ctrs ∧ (synPut w x s).inflight = s.inflight ∧
    (synPut w x s).wbWait = s.wbWait ∧ (synPut w x s).holder = s.holder ∧ (synPut w x s).heldSince = s.heldSince ∧
    (synPut w x s).mbWait = s.mbWait ∧ (synPut w x s).steps = s.steps ∧
    (synPut w x s).stoppedShown = s.stoppedShown ∧ (synPut w x s).lastDisc = s.lastDisc ∧
    (synPut w x s).upds = s.upds ∧ (synPut w x s).winHold = s.winHold ∧ (synPut w x s).heldReads = s.heldReads ∧
    (synPut w x s).ownBad = s.ownBad ∧ (synPut w x s).kept = s.kept ∧ (synPut w x s).verifies = s.verifies ∧
    (synPut w x s).readys = s.readys ∧ (synPut w x s).groups = s.groups ∧ (synPut w x s).mcValid = s.mcValid ∧
    (synPut w x s).seamTx = s.seamTx ∧ (synPut w x s).seamRx = s.seamRx ∧ (synPut w x s).seamWait = s.seamWait ∧
    (synPut w x s).xfer = s.xfer ∧ (synPut w x s).loadRx = s.loadRx ∧ (synPut w x s).press = s.press ∧
    (synPut w x s).ckptNow = s.ckptNow ∧ (synPut w x s).ckptLast = s.ckptLast ∧ (synPut w x s).drain = s.drain ∧
    (synPut w x s).ckptRx = s.ckptRx ∧ (synPut w x s).restore = s.restore ∧ (synPut w x s).ceCount = s.ceCount ∧
    (synPut w x s).side = s.side ∧ (synPut w x s).sideMem = s.sideMem ∧ (synPut w x s).partPend = s.partPend ∧
    (synPut w x s).pushed = s.pushed ∧ (synPut w x s).lent = s.lent ∧ (synPut w x s).lintRecs = s.lintRecs ∧
    (synPut w x s).lintOld = s.lintOld ∧ (synPut w x s).lintFirst = s.lintFirst ∧
    (synPut w x s).lintPack = s.lintPack ∧ (synPut w x s).lintNew = s.lintNew ∧
    (synPut w x s).lintHead = s.lintHead ∧ (synPut w x s).tgBusy = s.tgBusy ∧
    (synPut w x s).sensorMiss = s.sensorMiss ∧ (synPut w x s).tripPend = s.tripPend ∧
    (synPut w x s).rtrUp = s.rtrUp ∧ (synPut w x s).hifUp = s.hifUp ∧ (synPut w x s).memUp = s.memUp ∧
    (synPut w x s).cmpUp = s.cmpUp ∧ (synPut w x s).fenceNeed = s.fenceNeed ∧ (synPut w x s).fenceGot = s.fenceGot ∧
    (synPut w x s).reportSeq = s.reportSeq ∧ (synPut w x s).outcomes = s.outcomes ∧
    (synPut w x s).mirrorGroups = s.mirrorGroups ∧ (synPut w x s).ports = s.ports ∧ (synPut w x s).vcs = s.vcs ∧
    (synPut w x s).injHeld = s.injHeld ∧ (synPut w x s).drains = s.drains ∧ (synPut w x s).bondSeq = s.bondSeq ∧
    (synPut w x s).collIdx = s.collIdx ∧ (synPut w x s).sends = s.sends ∧ (synPut w x s).fenceQ = s.fenceQ ∧
    (synPut w x s).eng = s.eng ∧ (synPut w x s).waveT = s.waveT ∧ (synPut w x s).waveHeld = s.waveHeld ∧
    (synPut w x s).waveDue = s.waveDue ∧ (synPut w x s).folded = s.folded ∧ (synPut w x s).vcore = s.vcore ∧
    (synPut w x s).oppWord = s.oppWord ∧ (synPut w x s).oppTarget = s.oppTarget ∧
    (synPut w x s).oppNext = s.oppNext ∧ (synPut w x s).sprint = s.sprint ∧ (synPut w x s).rampWait = s.rampWait ∧
    (synPut w x s).rampHard = s.rampHard ∧ (synPut w x s).droopLow = s.droopLow ∧
    (synPut w x s).stretched = s.stretched ∧ (synPut w x s).quiet = s.quiet ∧ (synPut w x s).sprintOn = s.sprintOn ∧
    (synPut w x s).sprintLog = s.sprintLog ∧ (synPut w x s).sprintRefused = s.sprintRefused ∧
    (synPut w x s).sprintNotice = s.sprintNotice ∧ (synPut w x s).cmpCut = s.cmpCut ∧
    (synPut w x s).tjMiss = s.tjMiss ∧ (synPut w x s).energyUj = s.energyUj ∧
    (synPut w x s).selfRefresh = s.selfRefresh ∧ (synPut w x s).rst = s.rst ∧ (synPut w x s).aon = s.aon ∧
    (synPut w x s).rstTimes = s.rstTimes ∧ (synPut w x s).flash = s.flash ∧ (synPut w x s).bootSel = s.bootSel ∧
    (synPut w x s).i3c = s.i3c ∧ (synPut w x s).maddr = s.maddr ∧ (synPut w x s).tables = s.tables ∧
    (synPut w x s).rails = s.rails ∧ (synPut w x s).tripLow = s.tripLow ∧ (synPut w x s).mgmt = s.mgmt ∧
    (synPut w x s).lands = s.lands ∧ (synPut w x s).presCounts = s.presCounts ∧ (synPut w x s).owner = s.owner ∧
    (synPut w x s).pufSeed = s.pufSeed ∧ (synPut w x s).spdm = s.spdm ∧ (synPut w x s).jtag = s.jtag ∧
    (synPut w x s).lintRan = s.lintRan ∧ (synPut w x s).servo = s.servo ∧ (synPut w x s).cmpAllow = s.cmpAllow ∧
    (synPut w x s).cmpEntry = s.cmpEntry ∧ (synPut w x s).cache = s.cache ∧ (synPut w x s).xbarReqs = s.xbarReqs ∧
    (synPut w x s).qfullReqs = s.qfullReqs ∧ (synPut w x s).scrubAt = s.scrubAt ∧ (synPut w x s).tgRun = s.tgRun ∧
    (synPut w x s).sideSyn = s.sideSyn ∧ (synPut w x s).copySyn = s.copySyn ∧
    (synPut w x s).holdSince = s.holdSince ∧ (synPut w x s).hemRecs = s.hemRecs ∧
    (synPut w x s).lastBay = s.lastBay ∧ (synPut w x s).idleAt = s.idleAt ∧ (synPut w x s).idleNs = s.idleNs ∧
    (synPut w x s).steamRun = s.steamRun ∧ (synPut w x s).lintAt = s.lintAt ∧ (synPut w x s).lintTurn = s.lintTurn ∧
    (synPut w x s).lintUsed = s.lintUsed ∧ (synPut w x s).lintSince = s.lintSince ∧
    (synPut w x s).lintStart = s.lintStart ∧ (synPut w x s).fenceHeld = s.fenceHeld ∧
    (synPut w x s).seamHeld = s.seamHeld ∧ (synPut w x s).mirrorEfb = s.mirrorEfb ∧
    (synPut w x s).fetchAt = s.fetchAt ∧ (synPut w x s).deferSince = s.deferSince ∧
    (synPut w x s).capSince = s.capSince ∧ (synPut w x s).clamps = s.clamps ∧ (synPut w x s).dbHeld = s.dbHeld ∧
    (synPut w x s).linkAt = s.linkAt ∧ (synPut w x s).bondRx = s.bondRx ∧ (synPut w x s).fillRx = s.fillRx ∧
    (synPut w x s).xbarFrom = s.xbarFrom ∧ (synPut w x s).qfullFrom = s.qfullFrom ∧ (synPut w x s).phy = s.phy ∧
    (synPut w x s).bootPins = s.bootPins ∧ (synPut w x s).defaults = s.defaults ∧ (synPut w x s).upOnce = s.upOnce ∧
    (synPut w x s).coolantSince = s.coolantSince := by
  repeat' constructor

/-- `emit` changes `out` alone. -/
@[simp] theorem emit_fields (m : OutMsg) (s : State) :
    (emit m s).pending = s.pending ∧ (emit m s).regs = s.regs ∧ (emit m s).force = s.force ∧ (emit m s).mem = s.mem ∧
    (emit m s).syn = s.syn ∧ (emit m s).host = s.host ∧ (emit m s).bob = s.bob ∧ (emit m s).free = s.free ∧
    (emit m s).rings = s.rings ∧ (emit m s).ctxs = s.ctxs ∧ (emit m s).ctrs = s.ctrs ∧
    (emit m s).inflight = s.inflight ∧ (emit m s).wbWait = s.wbWait ∧ (emit m s).holder = s.holder ∧
    (emit m s).heldSince = s.heldSince ∧ (emit m s).mbWait = s.mbWait ∧ (emit m s).steps = s.steps ∧
    (emit m s).stoppedShown = s.stoppedShown ∧ (emit m s).lastDisc = s.lastDisc ∧ (emit m s).upds = s.upds ∧
    (emit m s).winHold = s.winHold ∧ (emit m s).heldReads = s.heldReads ∧ (emit m s).ownBad = s.ownBad ∧
    (emit m s).kept = s.kept ∧ (emit m s).verifies = s.verifies ∧ (emit m s).readys = s.readys ∧
    (emit m s).groups = s.groups ∧ (emit m s).mcValid = s.mcValid ∧ (emit m s).seamTx = s.seamTx ∧
    (emit m s).seamRx = s.seamRx ∧ (emit m s).seamWait = s.seamWait ∧ (emit m s).xfer = s.xfer ∧
    (emit m s).loadRx = s.loadRx ∧ (emit m s).press = s.press ∧ (emit m s).ckptNow = s.ckptNow ∧
    (emit m s).ckptLast = s.ckptLast ∧ (emit m s).drain = s.drain ∧ (emit m s).ckptRx = s.ckptRx ∧
    (emit m s).restore = s.restore ∧ (emit m s).ceCount = s.ceCount ∧ (emit m s).side = s.side ∧
    (emit m s).sideMem = s.sideMem ∧ (emit m s).partPend = s.partPend ∧ (emit m s).pushed = s.pushed ∧
    (emit m s).lent = s.lent ∧ (emit m s).lintRecs = s.lintRecs ∧ (emit m s).lintOld = s.lintOld ∧
    (emit m s).lintFirst = s.lintFirst ∧ (emit m s).lintPack = s.lintPack ∧ (emit m s).lintNew = s.lintNew ∧
    (emit m s).lintHead = s.lintHead ∧ (emit m s).tgBusy = s.tgBusy ∧ (emit m s).sensorMiss = s.sensorMiss ∧
    (emit m s).tripPend = s.tripPend ∧ (emit m s).rtrUp = s.rtrUp ∧ (emit m s).hifUp = s.hifUp ∧
    (emit m s).memUp = s.memUp ∧ (emit m s).cmpUp = s.cmpUp ∧ (emit m s).fenceNeed = s.fenceNeed ∧
    (emit m s).fenceGot = s.fenceGot ∧ (emit m s).reportSeq = s.reportSeq ∧ (emit m s).outcomes = s.outcomes ∧
    (emit m s).mirrorGroups = s.mirrorGroups ∧ (emit m s).ports = s.ports ∧ (emit m s).vcs = s.vcs ∧
    (emit m s).injHeld = s.injHeld ∧ (emit m s).drains = s.drains ∧ (emit m s).bondSeq = s.bondSeq ∧
    (emit m s).collIdx = s.collIdx ∧ (emit m s).sends = s.sends ∧ (emit m s).fenceQ = s.fenceQ ∧
    (emit m s).eng = s.eng ∧ (emit m s).waveT = s.waveT ∧ (emit m s).waveHeld = s.waveHeld ∧
    (emit m s).waveDue = s.waveDue ∧ (emit m s).folded = s.folded ∧ (emit m s).vcore = s.vcore ∧
    (emit m s).oppWord = s.oppWord ∧ (emit m s).oppTarget = s.oppTarget ∧ (emit m s).oppNext = s.oppNext ∧
    (emit m s).sprint = s.sprint ∧ (emit m s).rampWait = s.rampWait ∧ (emit m s).rampHard = s.rampHard ∧
    (emit m s).droopLow = s.droopLow ∧ (emit m s).stretched = s.stretched ∧ (emit m s).quiet = s.quiet ∧
    (emit m s).sprintOn = s.sprintOn ∧ (emit m s).sprintLog = s.sprintLog ∧
    (emit m s).sprintRefused = s.sprintRefused ∧ (emit m s).sprintNotice = s.sprintNotice ∧
    (emit m s).cmpCut = s.cmpCut ∧ (emit m s).tjMiss = s.tjMiss ∧ (emit m s).energyUj = s.energyUj ∧
    (emit m s).selfRefresh = s.selfRefresh ∧ (emit m s).rst = s.rst ∧ (emit m s).aon = s.aon ∧
    (emit m s).rstTimes = s.rstTimes ∧ (emit m s).flash = s.flash ∧ (emit m s).bootSel = s.bootSel ∧
    (emit m s).i3c = s.i3c ∧ (emit m s).maddr = s.maddr ∧ (emit m s).tables = s.tables ∧ (emit m s).rails = s.rails ∧
    (emit m s).tripLow = s.tripLow ∧ (emit m s).mgmt = s.mgmt ∧ (emit m s).lands = s.lands ∧
    (emit m s).presCounts = s.presCounts ∧ (emit m s).owner = s.owner ∧ (emit m s).pufSeed = s.pufSeed ∧
    (emit m s).spdm = s.spdm ∧ (emit m s).jtag = s.jtag ∧ (emit m s).lintRan = s.lintRan ∧
    (emit m s).servo = s.servo ∧ (emit m s).cmpAllow = s.cmpAllow ∧ (emit m s).cmpEntry = s.cmpEntry ∧
    (emit m s).cache = s.cache ∧ (emit m s).xbarReqs = s.xbarReqs ∧ (emit m s).qfullReqs = s.qfullReqs ∧
    (emit m s).scrubAt = s.scrubAt ∧ (emit m s).tgRun = s.tgRun ∧ (emit m s).sideSyn = s.sideSyn ∧
    (emit m s).copySyn = s.copySyn ∧ (emit m s).holdSince = s.holdSince ∧ (emit m s).hemRecs = s.hemRecs ∧
    (emit m s).lastBay = s.lastBay ∧ (emit m s).idleAt = s.idleAt ∧ (emit m s).idleNs = s.idleNs ∧
    (emit m s).steamRun = s.steamRun ∧ (emit m s).lintAt = s.lintAt ∧ (emit m s).lintTurn = s.lintTurn ∧
    (emit m s).lintUsed = s.lintUsed ∧ (emit m s).lintSince = s.lintSince ∧ (emit m s).lintStart = s.lintStart ∧
    (emit m s).fenceHeld = s.fenceHeld ∧ (emit m s).seamHeld = s.seamHeld ∧ (emit m s).mirrorEfb = s.mirrorEfb ∧
    (emit m s).fetchAt = s.fetchAt ∧ (emit m s).deferSince = s.deferSince ∧ (emit m s).capSince = s.capSince ∧
    (emit m s).clamps = s.clamps ∧ (emit m s).dbHeld = s.dbHeld ∧ (emit m s).linkAt = s.linkAt ∧
    (emit m s).bondRx = s.bondRx ∧ (emit m s).fillRx = s.fillRx ∧ (emit m s).xbarFrom = s.xbarFrom ∧
    (emit m s).qfullFrom = s.qfullFrom ∧ (emit m s).phy = s.phy ∧ (emit m s).bootPins = s.bootPins ∧
    (emit m s).defaults = s.defaults ∧ (emit m s).upOnce = s.upOnce ∧ (emit m s).coolantSince = s.coolantSince := by
  repeat' constructor

/-- `drawFree` changes `free` alone. -/
@[simp] theorem drawFree_fields (s : State) :
    ((drawFree s).2).pending = s.pending ∧ ((drawFree s).2).regs = s.regs ∧ ((drawFree s).2).force = s.force ∧
    ((drawFree s).2).mem = s.mem ∧ ((drawFree s).2).syn = s.syn ∧ ((drawFree s).2).host = s.host ∧
    ((drawFree s).2).bob = s.bob ∧ ((drawFree s).2).out = s.out ∧ ((drawFree s).2).rings = s.rings ∧
    ((drawFree s).2).ctxs = s.ctxs ∧ ((drawFree s).2).ctrs = s.ctrs ∧ ((drawFree s).2).inflight = s.inflight ∧
    ((drawFree s).2).wbWait = s.wbWait ∧ ((drawFree s).2).holder = s.holder ∧
    ((drawFree s).2).heldSince = s.heldSince ∧ ((drawFree s).2).mbWait = s.mbWait ∧
    ((drawFree s).2).steps = s.steps ∧ ((drawFree s).2).stoppedShown = s.stoppedShown ∧
    ((drawFree s).2).lastDisc = s.lastDisc ∧ ((drawFree s).2).upds = s.upds ∧ ((drawFree s).2).winHold = s.winHold ∧
    ((drawFree s).2).heldReads = s.heldReads ∧ ((drawFree s).2).ownBad = s.ownBad ∧ ((drawFree s).2).kept = s.kept ∧
    ((drawFree s).2).verifies = s.verifies ∧ ((drawFree s).2).readys = s.readys ∧
    ((drawFree s).2).groups = s.groups ∧ ((drawFree s).2).mcValid = s.mcValid ∧ ((drawFree s).2).seamTx = s.seamTx ∧
    ((drawFree s).2).seamRx = s.seamRx ∧ ((drawFree s).2).seamWait = s.seamWait ∧ ((drawFree s).2).xfer = s.xfer ∧
    ((drawFree s).2).loadRx = s.loadRx ∧ ((drawFree s).2).press = s.press ∧ ((drawFree s).2).ckptNow = s.ckptNow ∧
    ((drawFree s).2).ckptLast = s.ckptLast ∧ ((drawFree s).2).drain = s.drain ∧ ((drawFree s).2).ckptRx = s.ckptRx ∧
    ((drawFree s).2).restore = s.restore ∧ ((drawFree s).2).ceCount = s.ceCount ∧ ((drawFree s).2).side = s.side ∧
    ((drawFree s).2).sideMem = s.sideMem ∧ ((drawFree s).2).partPend = s.partPend ∧
    ((drawFree s).2).pushed = s.pushed ∧ ((drawFree s).2).lent = s.lent ∧ ((drawFree s).2).lintRecs = s.lintRecs ∧
    ((drawFree s).2).lintOld = s.lintOld ∧ ((drawFree s).2).lintFirst = s.lintFirst ∧
    ((drawFree s).2).lintPack = s.lintPack ∧ ((drawFree s).2).lintNew = s.lintNew ∧
    ((drawFree s).2).lintHead = s.lintHead ∧ ((drawFree s).2).tgBusy = s.tgBusy ∧
    ((drawFree s).2).sensorMiss = s.sensorMiss ∧ ((drawFree s).2).tripPend = s.tripPend ∧
    ((drawFree s).2).rtrUp = s.rtrUp ∧ ((drawFree s).2).hifUp = s.hifUp ∧ ((drawFree s).2).memUp = s.memUp ∧
    ((drawFree s).2).cmpUp = s.cmpUp ∧ ((drawFree s).2).fenceNeed = s.fenceNeed ∧
    ((drawFree s).2).fenceGot = s.fenceGot ∧ ((drawFree s).2).reportSeq = s.reportSeq ∧
    ((drawFree s).2).outcomes = s.outcomes ∧ ((drawFree s).2).mirrorGroups = s.mirrorGroups ∧
    ((drawFree s).2).ports = s.ports ∧ ((drawFree s).2).vcs = s.vcs ∧ ((drawFree s).2).injHeld = s.injHeld ∧
    ((drawFree s).2).drains = s.drains ∧ ((drawFree s).2).bondSeq = s.bondSeq ∧
    ((drawFree s).2).collIdx = s.collIdx ∧ ((drawFree s).2).sends = s.sends ∧ ((drawFree s).2).fenceQ = s.fenceQ ∧
    ((drawFree s).2).eng = s.eng ∧ ((drawFree s).2).waveT = s.waveT ∧ ((drawFree s).2).waveHeld = s.waveHeld ∧
    ((drawFree s).2).waveDue = s.waveDue ∧ ((drawFree s).2).folded = s.folded ∧ ((drawFree s).2).vcore = s.vcore ∧
    ((drawFree s).2).oppWord = s.oppWord ∧ ((drawFree s).2).oppTarget = s.oppTarget ∧
    ((drawFree s).2).oppNext = s.oppNext ∧ ((drawFree s).2).sprint = s.sprint ∧
    ((drawFree s).2).rampWait = s.rampWait ∧ ((drawFree s).2).rampHard = s.rampHard ∧
    ((drawFree s).2).droopLow = s.droopLow ∧ ((drawFree s).2).stretched = s.stretched ∧
    ((drawFree s).2).quiet = s.quiet ∧ ((drawFree s).2).sprintOn = s.sprintOn ∧
    ((drawFree s).2).sprintLog = s.sprintLog ∧ ((drawFree s).2).sprintRefused = s.sprintRefused ∧
    ((drawFree s).2).sprintNotice = s.sprintNotice ∧ ((drawFree s).2).cmpCut = s.cmpCut ∧
    ((drawFree s).2).tjMiss = s.tjMiss ∧ ((drawFree s).2).energyUj = s.energyUj ∧
    ((drawFree s).2).selfRefresh = s.selfRefresh ∧ ((drawFree s).2).rst = s.rst ∧ ((drawFree s).2).aon = s.aon ∧
    ((drawFree s).2).rstTimes = s.rstTimes ∧ ((drawFree s).2).flash = s.flash ∧
    ((drawFree s).2).bootSel = s.bootSel ∧ ((drawFree s).2).i3c = s.i3c ∧ ((drawFree s).2).maddr = s.maddr ∧
    ((drawFree s).2).tables = s.tables ∧ ((drawFree s).2).rails = s.rails ∧ ((drawFree s).2).tripLow = s.tripLow ∧
    ((drawFree s).2).mgmt = s.mgmt ∧ ((drawFree s).2).lands = s.lands ∧ ((drawFree s).2).presCounts = s.presCounts ∧
    ((drawFree s).2).owner = s.owner ∧ ((drawFree s).2).pufSeed = s.pufSeed ∧ ((drawFree s).2).spdm = s.spdm ∧
    ((drawFree s).2).jtag = s.jtag ∧ ((drawFree s).2).lintRan = s.lintRan ∧ ((drawFree s).2).servo = s.servo ∧
    ((drawFree s).2).cmpAllow = s.cmpAllow ∧ ((drawFree s).2).cmpEntry = s.cmpEntry ∧
    ((drawFree s).2).cache = s.cache ∧ ((drawFree s).2).xbarReqs = s.xbarReqs ∧
    ((drawFree s).2).qfullReqs = s.qfullReqs ∧ ((drawFree s).2).scrubAt = s.scrubAt ∧
    ((drawFree s).2).tgRun = s.tgRun ∧ ((drawFree s).2).sideSyn = s.sideSyn ∧ ((drawFree s).2).copySyn = s.copySyn ∧
    ((drawFree s).2).holdSince = s.holdSince ∧ ((drawFree s).2).hemRecs = s.hemRecs ∧
    ((drawFree s).2).lastBay = s.lastBay ∧ ((drawFree s).2).idleAt = s.idleAt ∧ ((drawFree s).2).idleNs = s.idleNs ∧
    ((drawFree s).2).steamRun = s.steamRun ∧ ((drawFree s).2).lintAt = s.lintAt ∧
    ((drawFree s).2).lintTurn = s.lintTurn ∧ ((drawFree s).2).lintUsed = s.lintUsed ∧
    ((drawFree s).2).lintSince = s.lintSince ∧ ((drawFree s).2).lintStart = s.lintStart ∧
    ((drawFree s).2).fenceHeld = s.fenceHeld ∧ ((drawFree s).2).seamHeld = s.seamHeld ∧
    ((drawFree s).2).mirrorEfb = s.mirrorEfb ∧ ((drawFree s).2).fetchAt = s.fetchAt ∧
    ((drawFree s).2).deferSince = s.deferSince ∧ ((drawFree s).2).capSince = s.capSince ∧
    ((drawFree s).2).clamps = s.clamps ∧ ((drawFree s).2).dbHeld = s.dbHeld ∧ ((drawFree s).2).linkAt = s.linkAt ∧
    ((drawFree s).2).bondRx = s.bondRx ∧ ((drawFree s).2).fillRx = s.fillRx ∧
    ((drawFree s).2).xbarFrom = s.xbarFrom ∧ ((drawFree s).2).qfullFrom = s.qfullFrom ∧
    ((drawFree s).2).phy = s.phy ∧ ((drawFree s).2).bootPins = s.bootPins ∧ ((drawFree s).2).defaults = s.defaults ∧
    ((drawFree s).2).upOnce = s.upOnce ∧ ((drawFree s).2).coolantSince = s.coolantSince := by
  repeat' constructor

/-- `ctrPut` changes `ctrs` alone. -/
@[simp] theorem ctrPut_fields (k v : Nat) (s : State) :
    (ctrPut k v s).pending = s.pending ∧ (ctrPut k v s).regs = s.regs ∧ (ctrPut k v s).force = s.force ∧
    (ctrPut k v s).mem = s.mem ∧ (ctrPut k v s).syn = s.syn ∧ (ctrPut k v s).host = s.host ∧
    (ctrPut k v s).bob = s.bob ∧ (ctrPut k v s).free = s.free ∧ (ctrPut k v s).out = s.out ∧
    (ctrPut k v s).rings = s.rings ∧ (ctrPut k v s).ctxs = s.ctxs ∧ (ctrPut k v s).inflight = s.inflight ∧
    (ctrPut k v s).wbWait = s.wbWait ∧ (ctrPut k v s).holder = s.holder ∧ (ctrPut k v s).heldSince = s.heldSince ∧
    (ctrPut k v s).mbWait = s.mbWait ∧ (ctrPut k v s).steps = s.steps ∧
    (ctrPut k v s).stoppedShown = s.stoppedShown ∧ (ctrPut k v s).lastDisc = s.lastDisc ∧
    (ctrPut k v s).upds = s.upds ∧ (ctrPut k v s).winHold = s.winHold ∧ (ctrPut k v s).heldReads = s.heldReads ∧
    (ctrPut k v s).ownBad = s.ownBad ∧ (ctrPut k v s).kept = s.kept ∧ (ctrPut k v s).verifies = s.verifies ∧
    (ctrPut k v s).readys = s.readys ∧ (ctrPut k v s).groups = s.groups ∧ (ctrPut k v s).mcValid = s.mcValid ∧
    (ctrPut k v s).seamTx = s.seamTx ∧ (ctrPut k v s).seamRx = s.seamRx ∧ (ctrPut k v s).seamWait = s.seamWait ∧
    (ctrPut k v s).xfer = s.xfer ∧ (ctrPut k v s).loadRx = s.loadRx ∧ (ctrPut k v s).press = s.press ∧
    (ctrPut k v s).ckptNow = s.ckptNow ∧ (ctrPut k v s).ckptLast = s.ckptLast ∧ (ctrPut k v s).drain = s.drain ∧
    (ctrPut k v s).ckptRx = s.ckptRx ∧ (ctrPut k v s).restore = s.restore ∧ (ctrPut k v s).ceCount = s.ceCount ∧
    (ctrPut k v s).side = s.side ∧ (ctrPut k v s).sideMem = s.sideMem ∧ (ctrPut k v s).partPend = s.partPend ∧
    (ctrPut k v s).pushed = s.pushed ∧ (ctrPut k v s).lent = s.lent ∧ (ctrPut k v s).lintRecs = s.lintRecs ∧
    (ctrPut k v s).lintOld = s.lintOld ∧ (ctrPut k v s).lintFirst = s.lintFirst ∧
    (ctrPut k v s).lintPack = s.lintPack ∧ (ctrPut k v s).lintNew = s.lintNew ∧
    (ctrPut k v s).lintHead = s.lintHead ∧ (ctrPut k v s).tgBusy = s.tgBusy ∧
    (ctrPut k v s).sensorMiss = s.sensorMiss ∧ (ctrPut k v s).tripPend = s.tripPend ∧
    (ctrPut k v s).rtrUp = s.rtrUp ∧ (ctrPut k v s).hifUp = s.hifUp ∧ (ctrPut k v s).memUp = s.memUp ∧
    (ctrPut k v s).cmpUp = s.cmpUp ∧ (ctrPut k v s).fenceNeed = s.fenceNeed ∧ (ctrPut k v s).fenceGot = s.fenceGot ∧
    (ctrPut k v s).reportSeq = s.reportSeq ∧ (ctrPut k v s).outcomes = s.outcomes ∧
    (ctrPut k v s).mirrorGroups = s.mirrorGroups ∧ (ctrPut k v s).ports = s.ports ∧ (ctrPut k v s).vcs = s.vcs ∧
    (ctrPut k v s).injHeld = s.injHeld ∧ (ctrPut k v s).drains = s.drains ∧ (ctrPut k v s).bondSeq = s.bondSeq ∧
    (ctrPut k v s).collIdx = s.collIdx ∧ (ctrPut k v s).sends = s.sends ∧ (ctrPut k v s).fenceQ = s.fenceQ ∧
    (ctrPut k v s).eng = s.eng ∧ (ctrPut k v s).waveT = s.waveT ∧ (ctrPut k v s).waveHeld = s.waveHeld ∧
    (ctrPut k v s).waveDue = s.waveDue ∧ (ctrPut k v s).folded = s.folded ∧ (ctrPut k v s).vcore = s.vcore ∧
    (ctrPut k v s).oppWord = s.oppWord ∧ (ctrPut k v s).oppTarget = s.oppTarget ∧
    (ctrPut k v s).oppNext = s.oppNext ∧ (ctrPut k v s).sprint = s.sprint ∧ (ctrPut k v s).rampWait = s.rampWait ∧
    (ctrPut k v s).rampHard = s.rampHard ∧ (ctrPut k v s).droopLow = s.droopLow ∧
    (ctrPut k v s).stretched = s.stretched ∧ (ctrPut k v s).quiet = s.quiet ∧ (ctrPut k v s).sprintOn = s.sprintOn ∧
    (ctrPut k v s).sprintLog = s.sprintLog ∧ (ctrPut k v s).sprintRefused = s.sprintRefused ∧
    (ctrPut k v s).sprintNotice = s.sprintNotice ∧ (ctrPut k v s).cmpCut = s.cmpCut ∧
    (ctrPut k v s).tjMiss = s.tjMiss ∧ (ctrPut k v s).energyUj = s.energyUj ∧
    (ctrPut k v s).selfRefresh = s.selfRefresh ∧ (ctrPut k v s).rst = s.rst ∧ (ctrPut k v s).aon = s.aon ∧
    (ctrPut k v s).rstTimes = s.rstTimes ∧ (ctrPut k v s).flash = s.flash ∧ (ctrPut k v s).bootSel = s.bootSel ∧
    (ctrPut k v s).i3c = s.i3c ∧ (ctrPut k v s).maddr = s.maddr ∧ (ctrPut k v s).tables = s.tables ∧
    (ctrPut k v s).rails = s.rails ∧ (ctrPut k v s).tripLow = s.tripLow ∧ (ctrPut k v s).mgmt = s.mgmt ∧
    (ctrPut k v s).lands = s.lands ∧ (ctrPut k v s).presCounts = s.presCounts ∧ (ctrPut k v s).owner = s.owner ∧
    (ctrPut k v s).pufSeed = s.pufSeed ∧ (ctrPut k v s).spdm = s.spdm ∧ (ctrPut k v s).jtag = s.jtag ∧
    (ctrPut k v s).lintRan = s.lintRan ∧ (ctrPut k v s).servo = s.servo ∧ (ctrPut k v s).cmpAllow = s.cmpAllow ∧
    (ctrPut k v s).cmpEntry = s.cmpEntry ∧ (ctrPut k v s).cache = s.cache ∧ (ctrPut k v s).xbarReqs = s.xbarReqs ∧
    (ctrPut k v s).qfullReqs = s.qfullReqs ∧ (ctrPut k v s).scrubAt = s.scrubAt ∧ (ctrPut k v s).tgRun = s.tgRun ∧
    (ctrPut k v s).sideSyn = s.sideSyn ∧ (ctrPut k v s).copySyn = s.copySyn ∧
    (ctrPut k v s).holdSince = s.holdSince ∧ (ctrPut k v s).hemRecs = s.hemRecs ∧
    (ctrPut k v s).lastBay = s.lastBay ∧ (ctrPut k v s).idleAt = s.idleAt ∧ (ctrPut k v s).idleNs = s.idleNs ∧
    (ctrPut k v s).steamRun = s.steamRun ∧ (ctrPut k v s).lintAt = s.lintAt ∧ (ctrPut k v s).lintTurn = s.lintTurn ∧
    (ctrPut k v s).lintUsed = s.lintUsed ∧ (ctrPut k v s).lintSince = s.lintSince ∧
    (ctrPut k v s).lintStart = s.lintStart ∧ (ctrPut k v s).fenceHeld = s.fenceHeld ∧
    (ctrPut k v s).seamHeld = s.seamHeld ∧ (ctrPut k v s).mirrorEfb = s.mirrorEfb ∧
    (ctrPut k v s).fetchAt = s.fetchAt ∧ (ctrPut k v s).deferSince = s.deferSince ∧
    (ctrPut k v s).capSince = s.capSince ∧ (ctrPut k v s).clamps = s.clamps ∧ (ctrPut k v s).dbHeld = s.dbHeld ∧
    (ctrPut k v s).linkAt = s.linkAt ∧ (ctrPut k v s).bondRx = s.bondRx ∧ (ctrPut k v s).fillRx = s.fillRx ∧
    (ctrPut k v s).xbarFrom = s.xbarFrom ∧ (ctrPut k v s).qfullFrom = s.qfullFrom ∧ (ctrPut k v s).phy = s.phy ∧
    (ctrPut k v s).bootPins = s.bootPins ∧ (ctrPut k v s).defaults = s.defaults ∧ (ctrPut k v s).upOnce = s.upOnce ∧
    (ctrPut k v s).coolantSince = s.coolantSince := by
  repeat' constructor

/-- `setCtxRt` changes `ctxs` alone. -/
@[simp] theorem setCtxRt_fields (c : Nat) (r : CtxRt) (s : State) :
    (setCtxRt c r s).pending = s.pending ∧ (setCtxRt c r s).regs = s.regs ∧ (setCtxRt c r s).force = s.force ∧
    (setCtxRt c r s).mem = s.mem ∧ (setCtxRt c r s).syn = s.syn ∧ (setCtxRt c r s).host = s.host ∧
    (setCtxRt c r s).bob = s.bob ∧ (setCtxRt c r s).free = s.free ∧ (setCtxRt c r s).out = s.out ∧
    (setCtxRt c r s).rings = s.rings ∧ (setCtxRt c r s).ctrs = s.ctrs ∧ (setCtxRt c r s).inflight = s.inflight ∧
    (setCtxRt c r s).wbWait = s.wbWait ∧ (setCtxRt c r s).holder = s.holder ∧
    (setCtxRt c r s).heldSince = s.heldSince ∧ (setCtxRt c r s).mbWait = s.mbWait ∧
    (setCtxRt c r s).steps = s.steps ∧ (setCtxRt c r s).stoppedShown = s.stoppedShown ∧
    (setCtxRt c r s).lastDisc = s.lastDisc ∧ (setCtxRt c r s).upds = s.upds ∧ (setCtxRt c r s).winHold = s.winHold ∧
    (setCtxRt c r s).heldReads = s.heldReads ∧ (setCtxRt c r s).ownBad = s.ownBad ∧ (setCtxRt c r s).kept = s.kept ∧
    (setCtxRt c r s).verifies = s.verifies ∧ (setCtxRt c r s).readys = s.readys ∧
    (setCtxRt c r s).groups = s.groups ∧ (setCtxRt c r s).mcValid = s.mcValid ∧ (setCtxRt c r s).seamTx = s.seamTx ∧
    (setCtxRt c r s).seamRx = s.seamRx ∧ (setCtxRt c r s).seamWait = s.seamWait ∧ (setCtxRt c r s).xfer = s.xfer ∧
    (setCtxRt c r s).loadRx = s.loadRx ∧ (setCtxRt c r s).press = s.press ∧ (setCtxRt c r s).ckptNow = s.ckptNow ∧
    (setCtxRt c r s).ckptLast = s.ckptLast ∧ (setCtxRt c r s).drain = s.drain ∧ (setCtxRt c r s).ckptRx = s.ckptRx ∧
    (setCtxRt c r s).restore = s.restore ∧ (setCtxRt c r s).ceCount = s.ceCount ∧ (setCtxRt c r s).side = s.side ∧
    (setCtxRt c r s).sideMem = s.sideMem ∧ (setCtxRt c r s).partPend = s.partPend ∧
    (setCtxRt c r s).pushed = s.pushed ∧ (setCtxRt c r s).lent = s.lent ∧ (setCtxRt c r s).lintRecs = s.lintRecs ∧
    (setCtxRt c r s).lintOld = s.lintOld ∧ (setCtxRt c r s).lintFirst = s.lintFirst ∧
    (setCtxRt c r s).lintPack = s.lintPack ∧ (setCtxRt c r s).lintNew = s.lintNew ∧
    (setCtxRt c r s).lintHead = s.lintHead ∧ (setCtxRt c r s).tgBusy = s.tgBusy ∧
    (setCtxRt c r s).sensorMiss = s.sensorMiss ∧ (setCtxRt c r s).tripPend = s.tripPend ∧
    (setCtxRt c r s).rtrUp = s.rtrUp ∧ (setCtxRt c r s).hifUp = s.hifUp ∧ (setCtxRt c r s).memUp = s.memUp ∧
    (setCtxRt c r s).cmpUp = s.cmpUp ∧ (setCtxRt c r s).fenceNeed = s.fenceNeed ∧
    (setCtxRt c r s).fenceGot = s.fenceGot ∧ (setCtxRt c r s).reportSeq = s.reportSeq ∧
    (setCtxRt c r s).outcomes = s.outcomes ∧ (setCtxRt c r s).mirrorGroups = s.mirrorGroups ∧
    (setCtxRt c r s).ports = s.ports ∧ (setCtxRt c r s).vcs = s.vcs ∧ (setCtxRt c r s).injHeld = s.injHeld ∧
    (setCtxRt c r s).drains = s.drains ∧ (setCtxRt c r s).bondSeq = s.bondSeq ∧
    (setCtxRt c r s).collIdx = s.collIdx ∧ (setCtxRt c r s).sends = s.sends ∧ (setCtxRt c r s).fenceQ = s.fenceQ ∧
    (setCtxRt c r s).eng = s.eng ∧ (setCtxRt c r s).waveT = s.waveT ∧ (setCtxRt c r s).waveHeld = s.waveHeld ∧
    (setCtxRt c r s).waveDue = s.waveDue ∧ (setCtxRt c r s).folded = s.folded ∧ (setCtxRt c r s).vcore = s.vcore ∧
    (setCtxRt c r s).oppWord = s.oppWord ∧ (setCtxRt c r s).oppTarget = s.oppTarget ∧
    (setCtxRt c r s).oppNext = s.oppNext ∧ (setCtxRt c r s).sprint = s.sprint ∧
    (setCtxRt c r s).rampWait = s.rampWait ∧ (setCtxRt c r s).rampHard = s.rampHard ∧
    (setCtxRt c r s).droopLow = s.droopLow ∧ (setCtxRt c r s).stretched = s.stretched ∧
    (setCtxRt c r s).quiet = s.quiet ∧ (setCtxRt c r s).sprintOn = s.sprintOn ∧
    (setCtxRt c r s).sprintLog = s.sprintLog ∧ (setCtxRt c r s).sprintRefused = s.sprintRefused ∧
    (setCtxRt c r s).sprintNotice = s.sprintNotice ∧ (setCtxRt c r s).cmpCut = s.cmpCut ∧
    (setCtxRt c r s).tjMiss = s.tjMiss ∧ (setCtxRt c r s).energyUj = s.energyUj ∧
    (setCtxRt c r s).selfRefresh = s.selfRefresh ∧ (setCtxRt c r s).rst = s.rst ∧ (setCtxRt c r s).aon = s.aon ∧
    (setCtxRt c r s).rstTimes = s.rstTimes ∧ (setCtxRt c r s).flash = s.flash ∧
    (setCtxRt c r s).bootSel = s.bootSel ∧ (setCtxRt c r s).i3c = s.i3c ∧ (setCtxRt c r s).maddr = s.maddr ∧
    (setCtxRt c r s).tables = s.tables ∧ (setCtxRt c r s).rails = s.rails ∧ (setCtxRt c r s).tripLow = s.tripLow ∧
    (setCtxRt c r s).mgmt = s.mgmt ∧ (setCtxRt c r s).lands = s.lands ∧ (setCtxRt c r s).presCounts = s.presCounts ∧
    (setCtxRt c r s).owner = s.owner ∧ (setCtxRt c r s).pufSeed = s.pufSeed ∧ (setCtxRt c r s).spdm = s.spdm ∧
    (setCtxRt c r s).jtag = s.jtag ∧ (setCtxRt c r s).lintRan = s.lintRan ∧ (setCtxRt c r s).servo = s.servo ∧
    (setCtxRt c r s).cmpAllow = s.cmpAllow ∧ (setCtxRt c r s).cmpEntry = s.cmpEntry ∧
    (setCtxRt c r s).cache = s.cache ∧ (setCtxRt c r s).xbarReqs = s.xbarReqs ∧
    (setCtxRt c r s).qfullReqs = s.qfullReqs ∧ (setCtxRt c r s).scrubAt = s.scrubAt ∧
    (setCtxRt c r s).tgRun = s.tgRun ∧ (setCtxRt c r s).sideSyn = s.sideSyn ∧ (setCtxRt c r s).copySyn = s.copySyn ∧
    (setCtxRt c r s).holdSince = s.holdSince ∧ (setCtxRt c r s).hemRecs = s.hemRecs ∧
    (setCtxRt c r s).lastBay = s.lastBay ∧ (setCtxRt c r s).idleAt = s.idleAt ∧ (setCtxRt c r s).idleNs = s.idleNs ∧
    (setCtxRt c r s).steamRun = s.steamRun ∧ (setCtxRt c r s).lintAt = s.lintAt ∧
    (setCtxRt c r s).lintTurn = s.lintTurn ∧ (setCtxRt c r s).lintUsed = s.lintUsed ∧
    (setCtxRt c r s).lintSince = s.lintSince ∧ (setCtxRt c r s).lintStart = s.lintStart ∧
    (setCtxRt c r s).fenceHeld = s.fenceHeld ∧ (setCtxRt c r s).seamHeld = s.seamHeld ∧
    (setCtxRt c r s).mirrorEfb = s.mirrorEfb ∧ (setCtxRt c r s).fetchAt = s.fetchAt ∧
    (setCtxRt c r s).deferSince = s.deferSince ∧ (setCtxRt c r s).capSince = s.capSince ∧
    (setCtxRt c r s).clamps = s.clamps ∧ (setCtxRt c r s).dbHeld = s.dbHeld ∧ (setCtxRt c r s).linkAt = s.linkAt ∧
    (setCtxRt c r s).bondRx = s.bondRx ∧ (setCtxRt c r s).fillRx = s.fillRx ∧
    (setCtxRt c r s).xbarFrom = s.xbarFrom ∧ (setCtxRt c r s).qfullFrom = s.qfullFrom ∧
    (setCtxRt c r s).phy = s.phy ∧ (setCtxRt c r s).bootPins = s.bootPins ∧ (setCtxRt c r s).defaults = s.defaults ∧
    (setCtxRt c r s).upOnce = s.upOnce ∧ (setCtxRt c r s).coolantSince = s.coolantSince := by
  repeat' constructor

/-- `setRingRt` changes `rings` alone. -/
@[simp] theorem setRingRt_fields (c r : Nat) (x : RingRt) (s : State) :
    (setRingRt c r x s).pending = s.pending ∧ (setRingRt c r x s).regs = s.regs ∧
    (setRingRt c r x s).force = s.force ∧ (setRingRt c r x s).mem = s.mem ∧ (setRingRt c r x s).syn = s.syn ∧
    (setRingRt c r x s).host = s.host ∧ (setRingRt c r x s).bob = s.bob ∧ (setRingRt c r x s).free = s.free ∧
    (setRingRt c r x s).out = s.out ∧ (setRingRt c r x s).ctxs = s.ctxs ∧ (setRingRt c r x s).ctrs = s.ctrs ∧
    (setRingRt c r x s).inflight = s.inflight ∧ (setRingRt c r x s).wbWait = s.wbWait ∧
    (setRingRt c r x s).holder = s.holder ∧ (setRingRt c r x s).heldSince = s.heldSince ∧
    (setRingRt c r x s).mbWait = s.mbWait ∧ (setRingRt c r x s).steps = s.steps ∧
    (setRingRt c r x s).stoppedShown = s.stoppedShown ∧ (setRingRt c r x s).lastDisc = s.lastDisc ∧
    (setRingRt c r x s).upds = s.upds ∧ (setRingRt c r x s).winHold = s.winHold ∧
    (setRingRt c r x s).heldReads = s.heldReads ∧ (setRingRt c r x s).ownBad = s.ownBad ∧
    (setRingRt c r x s).kept = s.kept ∧ (setRingRt c r x s).verifies = s.verifies ∧
    (setRingRt c r x s).readys = s.readys ∧ (setRingRt c r x s).groups = s.groups ∧
    (setRingRt c r x s).mcValid = s.mcValid ∧ (setRingRt c r x s).seamTx = s.seamTx ∧
    (setRingRt c r x s).seamRx = s.seamRx ∧ (setRingRt c r x s).seamWait = s.seamWait ∧
    (setRingRt c r x s).xfer = s.xfer ∧ (setRingRt c r x s).loadRx = s.loadRx ∧ (setRingRt c r x s).press = s.press ∧
    (setRingRt c r x s).ckptNow = s.ckptNow ∧ (setRingRt c r x s).ckptLast = s.ckptLast ∧
    (setRingRt c r x s).drain = s.drain ∧ (setRingRt c r x s).ckptRx = s.ckptRx ∧
    (setRingRt c r x s).restore = s.restore ∧ (setRingRt c r x s).ceCount = s.ceCount ∧
    (setRingRt c r x s).side = s.side ∧ (setRingRt c r x s).sideMem = s.sideMem ∧
    (setRingRt c r x s).partPend = s.partPend ∧ (setRingRt c r x s).pushed = s.pushed ∧
    (setRingRt c r x s).lent = s.lent ∧ (setRingRt c r x s).lintRecs = s.lintRecs ∧
    (setRingRt c r x s).lintOld = s.lintOld ∧ (setRingRt c r x s).lintFirst = s.lintFirst ∧
    (setRingRt c r x s).lintPack = s.lintPack ∧ (setRingRt c r x s).lintNew = s.lintNew ∧
    (setRingRt c r x s).lintHead = s.lintHead ∧ (setRingRt c r x s).tgBusy = s.tgBusy ∧
    (setRingRt c r x s).sensorMiss = s.sensorMiss ∧ (setRingRt c r x s).tripPend = s.tripPend ∧
    (setRingRt c r x s).rtrUp = s.rtrUp ∧ (setRingRt c r x s).hifUp = s.hifUp ∧ (setRingRt c r x s).memUp = s.memUp ∧
    (setRingRt c r x s).cmpUp = s.cmpUp ∧ (setRingRt c r x s).fenceNeed = s.fenceNeed ∧
    (setRingRt c r x s).fenceGot = s.fenceGot ∧ (setRingRt c r x s).reportSeq = s.reportSeq ∧
    (setRingRt c r x s).outcomes = s.outcomes ∧ (setRingRt c r x s).mirrorGroups = s.mirrorGroups ∧
    (setRingRt c r x s).ports = s.ports ∧ (setRingRt c r x s).vcs = s.vcs ∧ (setRingRt c r x s).injHeld = s.injHeld ∧
    (setRingRt c r x s).drains = s.drains ∧ (setRingRt c r x s).bondSeq = s.bondSeq ∧
    (setRingRt c r x s).collIdx = s.collIdx ∧ (setRingRt c r x s).sends = s.sends ∧
    (setRingRt c r x s).fenceQ = s.fenceQ ∧ (setRingRt c r x s).eng = s.eng ∧ (setRingRt c r x s).waveT = s.waveT ∧
    (setRingRt c r x s).waveHeld = s.waveHeld ∧ (setRingRt c r x s).waveDue = s.waveDue ∧
    (setRingRt c r x s).folded = s.folded ∧ (setRingRt c r x s).vcore = s.vcore ∧
    (setRingRt c r x s).oppWord = s.oppWord ∧ (setRingRt c r x s).oppTarget = s.oppTarget ∧
    (setRingRt c r x s).oppNext = s.oppNext ∧ (setRingRt c r x s).sprint = s.sprint ∧
    (setRingRt c r x s).rampWait = s.rampWait ∧ (setRingRt c r x s).rampHard = s.rampHard ∧
    (setRingRt c r x s).droopLow = s.droopLow ∧ (setRingRt c r x s).stretched = s.stretched ∧
    (setRingRt c r x s).quiet = s.quiet ∧ (setRingRt c r x s).sprintOn = s.sprintOn ∧
    (setRingRt c r x s).sprintLog = s.sprintLog ∧ (setRingRt c r x s).sprintRefused = s.sprintRefused ∧
    (setRingRt c r x s).sprintNotice = s.sprintNotice ∧ (setRingRt c r x s).cmpCut = s.cmpCut ∧
    (setRingRt c r x s).tjMiss = s.tjMiss ∧ (setRingRt c r x s).energyUj = s.energyUj ∧
    (setRingRt c r x s).selfRefresh = s.selfRefresh ∧ (setRingRt c r x s).rst = s.rst ∧
    (setRingRt c r x s).aon = s.aon ∧ (setRingRt c r x s).rstTimes = s.rstTimes ∧
    (setRingRt c r x s).flash = s.flash ∧ (setRingRt c r x s).bootSel = s.bootSel ∧ (setRingRt c r x s).i3c = s.i3c ∧
    (setRingRt c r x s).maddr = s.maddr ∧ (setRingRt c r x s).tables = s.tables ∧
    (setRingRt c r x s).rails = s.rails ∧ (setRingRt c r x s).tripLow = s.tripLow ∧
    (setRingRt c r x s).mgmt = s.mgmt ∧ (setRingRt c r x s).lands = s.lands ∧
    (setRingRt c r x s).presCounts = s.presCounts ∧ (setRingRt c r x s).owner = s.owner ∧
    (setRingRt c r x s).pufSeed = s.pufSeed ∧ (setRingRt c r x s).spdm = s.spdm ∧ (setRingRt c r x s).jtag = s.jtag ∧
    (setRingRt c r x s).lintRan = s.lintRan ∧ (setRingRt c r x s).servo = s.servo ∧
    (setRingRt c r x s).cmpAllow = s.cmpAllow ∧ (setRingRt c r x s).cmpEntry = s.cmpEntry ∧
    (setRingRt c r x s).cache = s.cache ∧ (setRingRt c r x s).xbarReqs = s.xbarReqs ∧
    (setRingRt c r x s).qfullReqs = s.qfullReqs ∧ (setRingRt c r x s).scrubAt = s.scrubAt ∧
    (setRingRt c r x s).tgRun = s.tgRun ∧ (setRingRt c r x s).sideSyn = s.sideSyn ∧
    (setRingRt c r x s).copySyn = s.copySyn ∧ (setRingRt c r x s).holdSince = s.holdSince ∧
    (setRingRt c r x s).hemRecs = s.hemRecs ∧ (setRingRt c r x s).lastBay = s.lastBay ∧
    (setRingRt c r x s).idleAt = s.idleAt ∧ (setRingRt c r x s).idleNs = s.idleNs ∧
    (setRingRt c r x s).steamRun = s.steamRun ∧ (setRingRt c r x s).lintAt = s.lintAt ∧
    (setRingRt c r x s).lintTurn = s.lintTurn ∧ (setRingRt c r x s).lintUsed = s.lintUsed ∧
    (setRingRt c r x s).lintSince = s.lintSince ∧ (setRingRt c r x s).lintStart = s.lintStart ∧
    (setRingRt c r x s).fenceHeld = s.fenceHeld ∧ (setRingRt c r x s).seamHeld = s.seamHeld ∧
    (setRingRt c r x s).mirrorEfb = s.mirrorEfb ∧ (setRingRt c r x s).fetchAt = s.fetchAt ∧
    (setRingRt c r x s).deferSince = s.deferSince ∧ (setRingRt c r x s).capSince = s.capSince ∧
    (setRingRt c r x s).clamps = s.clamps ∧ (setRingRt c r x s).dbHeld = s.dbHeld ∧
    (setRingRt c r x s).linkAt = s.linkAt ∧ (setRingRt c r x s).bondRx = s.bondRx ∧
    (setRingRt c r x s).fillRx = s.fillRx ∧ (setRingRt c r x s).xbarFrom = s.xbarFrom ∧
    (setRingRt c r x s).qfullFrom = s.qfullFrom ∧ (setRingRt c r x s).phy = s.phy ∧
    (setRingRt c r x s).bootPins = s.bootPins ∧ (setRingRt c r x s).defaults = s.defaults ∧
    (setRingRt c r x s).upOnce = s.upOnce ∧ (setRingRt c r x s).coolantSince = s.coolantSince := by
  repeat' constructor

/-- `setStep` changes `steps` alone. -/
@[simp] theorem setStep_fields (r : StepRec) (s : State) :
    (setStep r s).pending = s.pending ∧ (setStep r s).regs = s.regs ∧ (setStep r s).force = s.force ∧
    (setStep r s).mem = s.mem ∧ (setStep r s).syn = s.syn ∧ (setStep r s).host = s.host ∧ (setStep r s).bob = s.bob ∧
    (setStep r s).free = s.free ∧ (setStep r s).out = s.out ∧ (setStep r s).rings = s.rings ∧
    (setStep r s).ctxs = s.ctxs ∧ (setStep r s).ctrs = s.ctrs ∧ (setStep r s).inflight = s.inflight ∧
    (setStep r s).wbWait = s.wbWait ∧ (setStep r s).holder = s.holder ∧ (setStep r s).heldSince = s.heldSince ∧
    (setStep r s).mbWait = s.mbWait ∧ (setStep r s).stoppedShown = s.stoppedShown ∧
    (setStep r s).lastDisc = s.lastDisc ∧ (setStep r s).upds = s.upds ∧ (setStep r s).winHold = s.winHold ∧
    (setStep r s).heldReads = s.heldReads ∧ (setStep r s).ownBad = s.ownBad ∧ (setStep r s).kept = s.kept ∧
    (setStep r s).verifies = s.verifies ∧ (setStep r s).readys = s.readys ∧ (setStep r s).groups = s.groups ∧
    (setStep r s).mcValid = s.mcValid ∧ (setStep r s).seamTx = s.seamTx ∧ (setStep r s).seamRx = s.seamRx ∧
    (setStep r s).seamWait = s.seamWait ∧ (setStep r s).xfer = s.xfer ∧ (setStep r s).loadRx = s.loadRx ∧
    (setStep r s).press = s.press ∧ (setStep r s).ckptNow = s.ckptNow ∧ (setStep r s).ckptLast = s.ckptLast ∧
    (setStep r s).drain = s.drain ∧ (setStep r s).ckptRx = s.ckptRx ∧ (setStep r s).restore = s.restore ∧
    (setStep r s).ceCount = s.ceCount ∧ (setStep r s).side = s.side ∧ (setStep r s).sideMem = s.sideMem ∧
    (setStep r s).partPend = s.partPend ∧ (setStep r s).pushed = s.pushed ∧ (setStep r s).lent = s.lent ∧
    (setStep r s).lintRecs = s.lintRecs ∧ (setStep r s).lintOld = s.lintOld ∧ (setStep r s).lintFirst = s.lintFirst ∧
    (setStep r s).lintPack = s.lintPack ∧ (setStep r s).lintNew = s.lintNew ∧ (setStep r s).lintHead = s.lintHead ∧
    (setStep r s).tgBusy = s.tgBusy ∧ (setStep r s).sensorMiss = s.sensorMiss ∧ (setStep r s).tripPend = s.tripPend ∧
    (setStep r s).rtrUp = s.rtrUp ∧ (setStep r s).hifUp = s.hifUp ∧ (setStep r s).memUp = s.memUp ∧
    (setStep r s).cmpUp = s.cmpUp ∧ (setStep r s).fenceNeed = s.fenceNeed ∧ (setStep r s).fenceGot = s.fenceGot ∧
    (setStep r s).reportSeq = s.reportSeq ∧ (setStep r s).outcomes = s.outcomes ∧
    (setStep r s).mirrorGroups = s.mirrorGroups ∧ (setStep r s).ports = s.ports ∧ (setStep r s).vcs = s.vcs ∧
    (setStep r s).injHeld = s.injHeld ∧ (setStep r s).drains = s.drains ∧ (setStep r s).bondSeq = s.bondSeq ∧
    (setStep r s).collIdx = s.collIdx ∧ (setStep r s).sends = s.sends ∧ (setStep r s).fenceQ = s.fenceQ ∧
    (setStep r s).eng = s.eng ∧ (setStep r s).waveT = s.waveT ∧ (setStep r s).waveHeld = s.waveHeld ∧
    (setStep r s).waveDue = s.waveDue ∧ (setStep r s).folded = s.folded ∧ (setStep r s).vcore = s.vcore ∧
    (setStep r s).oppWord = s.oppWord ∧ (setStep r s).oppTarget = s.oppTarget ∧ (setStep r s).oppNext = s.oppNext ∧
    (setStep r s).sprint = s.sprint ∧ (setStep r s).rampWait = s.rampWait ∧ (setStep r s).rampHard = s.rampHard ∧
    (setStep r s).droopLow = s.droopLow ∧ (setStep r s).stretched = s.stretched ∧ (setStep r s).quiet = s.quiet ∧
    (setStep r s).sprintOn = s.sprintOn ∧ (setStep r s).sprintLog = s.sprintLog ∧
    (setStep r s).sprintRefused = s.sprintRefused ∧ (setStep r s).sprintNotice = s.sprintNotice ∧
    (setStep r s).cmpCut = s.cmpCut ∧ (setStep r s).tjMiss = s.tjMiss ∧ (setStep r s).energyUj = s.energyUj ∧
    (setStep r s).selfRefresh = s.selfRefresh ∧ (setStep r s).rst = s.rst ∧ (setStep r s).aon = s.aon ∧
    (setStep r s).rstTimes = s.rstTimes ∧ (setStep r s).flash = s.flash ∧ (setStep r s).bootSel = s.bootSel ∧
    (setStep r s).i3c = s.i3c ∧ (setStep r s).maddr = s.maddr ∧ (setStep r s).tables = s.tables ∧
    (setStep r s).rails = s.rails ∧ (setStep r s).tripLow = s.tripLow ∧ (setStep r s).mgmt = s.mgmt ∧
    (setStep r s).lands = s.lands ∧ (setStep r s).presCounts = s.presCounts ∧ (setStep r s).owner = s.owner ∧
    (setStep r s).pufSeed = s.pufSeed ∧ (setStep r s).spdm = s.spdm ∧ (setStep r s).jtag = s.jtag ∧
    (setStep r s).lintRan = s.lintRan ∧ (setStep r s).servo = s.servo ∧ (setStep r s).cmpAllow = s.cmpAllow ∧
    (setStep r s).cmpEntry = s.cmpEntry ∧ (setStep r s).cache = s.cache ∧ (setStep r s).xbarReqs = s.xbarReqs ∧
    (setStep r s).qfullReqs = s.qfullReqs ∧ (setStep r s).scrubAt = s.scrubAt ∧ (setStep r s).tgRun = s.tgRun ∧
    (setStep r s).sideSyn = s.sideSyn ∧ (setStep r s).copySyn = s.copySyn ∧ (setStep r s).holdSince = s.holdSince ∧
    (setStep r s).hemRecs = s.hemRecs ∧ (setStep r s).lastBay = s.lastBay ∧ (setStep r s).idleAt = s.idleAt ∧
    (setStep r s).idleNs = s.idleNs ∧ (setStep r s).steamRun = s.steamRun ∧ (setStep r s).lintAt = s.lintAt ∧
    (setStep r s).lintTurn = s.lintTurn ∧ (setStep r s).lintUsed = s.lintUsed ∧
    (setStep r s).lintSince = s.lintSince ∧ (setStep r s).lintStart = s.lintStart ∧
    (setStep r s).fenceHeld = s.fenceHeld ∧ (setStep r s).seamHeld = s.seamHeld ∧
    (setStep r s).mirrorEfb = s.mirrorEfb ∧ (setStep r s).fetchAt = s.fetchAt ∧
    (setStep r s).deferSince = s.deferSince ∧ (setStep r s).capSince = s.capSince ∧ (setStep r s).clamps = s.clamps ∧
    (setStep r s).dbHeld = s.dbHeld ∧ (setStep r s).linkAt = s.linkAt ∧ (setStep r s).bondRx = s.bondRx ∧
    (setStep r s).fillRx = s.fillRx ∧ (setStep r s).xbarFrom = s.xbarFrom ∧ (setStep r s).qfullFrom = s.qfullFrom ∧
    (setStep r s).phy = s.phy ∧ (setStep r s).bootPins = s.bootPins ∧ (setStep r s).defaults = s.defaults ∧
    (setStep r s).upOnce = s.upOnce ∧ (setStep r s).coolantSince = s.coolantSince := by
  repeat' constructor

/-- `modStep` changes `steps` alone. -/
@[simp] theorem modStep_fields (n : Nat) (f : StepRec → StepRec) (s : State) :
    (modStep n f s).pending = s.pending ∧ (modStep n f s).regs = s.regs ∧ (modStep n f s).force = s.force ∧
    (modStep n f s).mem = s.mem ∧ (modStep n f s).syn = s.syn ∧ (modStep n f s).host = s.host ∧
    (modStep n f s).bob = s.bob ∧ (modStep n f s).free = s.free ∧ (modStep n f s).out = s.out ∧
    (modStep n f s).rings = s.rings ∧ (modStep n f s).ctxs = s.ctxs ∧ (modStep n f s).ctrs = s.ctrs ∧
    (modStep n f s).inflight = s.inflight ∧ (modStep n f s).wbWait = s.wbWait ∧ (modStep n f s).holder = s.holder ∧
    (modStep n f s).heldSince = s.heldSince ∧ (modStep n f s).mbWait = s.mbWait ∧
    (modStep n f s).stoppedShown = s.stoppedShown ∧ (modStep n f s).lastDisc = s.lastDisc ∧
    (modStep n f s).upds = s.upds ∧ (modStep n f s).winHold = s.winHold ∧ (modStep n f s).heldReads = s.heldReads ∧
    (modStep n f s).ownBad = s.ownBad ∧ (modStep n f s).kept = s.kept ∧ (modStep n f s).verifies = s.verifies ∧
    (modStep n f s).readys = s.readys ∧ (modStep n f s).groups = s.groups ∧ (modStep n f s).mcValid = s.mcValid ∧
    (modStep n f s).seamTx = s.seamTx ∧ (modStep n f s).seamRx = s.seamRx ∧ (modStep n f s).seamWait = s.seamWait ∧
    (modStep n f s).xfer = s.xfer ∧ (modStep n f s).loadRx = s.loadRx ∧ (modStep n f s).press = s.press ∧
    (modStep n f s).ckptNow = s.ckptNow ∧ (modStep n f s).ckptLast = s.ckptLast ∧ (modStep n f s).drain = s.drain ∧
    (modStep n f s).ckptRx = s.ckptRx ∧ (modStep n f s).restore = s.restore ∧ (modStep n f s).ceCount = s.ceCount ∧
    (modStep n f s).side = s.side ∧ (modStep n f s).sideMem = s.sideMem ∧ (modStep n f s).partPend = s.partPend ∧
    (modStep n f s).pushed = s.pushed ∧ (modStep n f s).lent = s.lent ∧ (modStep n f s).lintRecs = s.lintRecs ∧
    (modStep n f s).lintOld = s.lintOld ∧ (modStep n f s).lintFirst = s.lintFirst ∧
    (modStep n f s).lintPack = s.lintPack ∧ (modStep n f s).lintNew = s.lintNew ∧
    (modStep n f s).lintHead = s.lintHead ∧ (modStep n f s).tgBusy = s.tgBusy ∧
    (modStep n f s).sensorMiss = s.sensorMiss ∧ (modStep n f s).tripPend = s.tripPend ∧
    (modStep n f s).rtrUp = s.rtrUp ∧ (modStep n f s).hifUp = s.hifUp ∧ (modStep n f s).memUp = s.memUp ∧
    (modStep n f s).cmpUp = s.cmpUp ∧ (modStep n f s).fenceNeed = s.fenceNeed ∧
    (modStep n f s).fenceGot = s.fenceGot ∧ (modStep n f s).reportSeq = s.reportSeq ∧
    (modStep n f s).outcomes = s.outcomes ∧ (modStep n f s).mirrorGroups = s.mirrorGroups ∧
    (modStep n f s).ports = s.ports ∧ (modStep n f s).vcs = s.vcs ∧ (modStep n f s).injHeld = s.injHeld ∧
    (modStep n f s).drains = s.drains ∧ (modStep n f s).bondSeq = s.bondSeq ∧ (modStep n f s).collIdx = s.collIdx ∧
    (modStep n f s).sends = s.sends ∧ (modStep n f s).fenceQ = s.fenceQ ∧ (modStep n f s).eng = s.eng ∧
    (modStep n f s).waveT = s.waveT ∧ (modStep n f s).waveHeld = s.waveHeld ∧ (modStep n f s).waveDue = s.waveDue ∧
    (modStep n f s).folded = s.folded ∧ (modStep n f s).vcore = s.vcore ∧ (modStep n f s).oppWord = s.oppWord ∧
    (modStep n f s).oppTarget = s.oppTarget ∧ (modStep n f s).oppNext = s.oppNext ∧
    (modStep n f s).sprint = s.sprint ∧ (modStep n f s).rampWait = s.rampWait ∧
    (modStep n f s).rampHard = s.rampHard ∧ (modStep n f s).droopLow = s.droopLow ∧
    (modStep n f s).stretched = s.stretched ∧ (modStep n f s).quiet = s.quiet ∧
    (modStep n f s).sprintOn = s.sprintOn ∧ (modStep n f s).sprintLog = s.sprintLog ∧
    (modStep n f s).sprintRefused = s.sprintRefused ∧ (modStep n f s).sprintNotice = s.sprintNotice ∧
    (modStep n f s).cmpCut = s.cmpCut ∧ (modStep n f s).tjMiss = s.tjMiss ∧ (modStep n f s).energyUj = s.energyUj ∧
    (modStep n f s).selfRefresh = s.selfRefresh ∧ (modStep n f s).rst = s.rst ∧ (modStep n f s).aon = s.aon ∧
    (modStep n f s).rstTimes = s.rstTimes ∧ (modStep n f s).flash = s.flash ∧ (modStep n f s).bootSel = s.bootSel ∧
    (modStep n f s).i3c = s.i3c ∧ (modStep n f s).maddr = s.maddr ∧ (modStep n f s).tables = s.tables ∧
    (modStep n f s).rails = s.rails ∧ (modStep n f s).tripLow = s.tripLow ∧ (modStep n f s).mgmt = s.mgmt ∧
    (modStep n f s).lands = s.lands ∧ (modStep n f s).presCounts = s.presCounts ∧ (modStep n f s).owner = s.owner ∧
    (modStep n f s).pufSeed = s.pufSeed ∧ (modStep n f s).spdm = s.spdm ∧ (modStep n f s).jtag = s.jtag ∧
    (modStep n f s).lintRan = s.lintRan ∧ (modStep n f s).servo = s.servo ∧ (modStep n f s).cmpAllow = s.cmpAllow ∧
    (modStep n f s).cmpEntry = s.cmpEntry ∧ (modStep n f s).cache = s.cache ∧ (modStep n f s).xbarReqs = s.xbarReqs ∧
    (modStep n f s).qfullReqs = s.qfullReqs ∧ (modStep n f s).scrubAt = s.scrubAt ∧ (modStep n f s).tgRun = s.tgRun ∧
    (modStep n f s).sideSyn = s.sideSyn ∧ (modStep n f s).copySyn = s.copySyn ∧
    (modStep n f s).holdSince = s.holdSince ∧ (modStep n f s).hemRecs = s.hemRecs ∧
    (modStep n f s).lastBay = s.lastBay ∧ (modStep n f s).idleAt = s.idleAt ∧ (modStep n f s).idleNs = s.idleNs ∧
    (modStep n f s).steamRun = s.steamRun ∧ (modStep n f s).lintAt = s.lintAt ∧
    (modStep n f s).lintTurn = s.lintTurn ∧ (modStep n f s).lintUsed = s.lintUsed ∧
    (modStep n f s).lintSince = s.lintSince ∧ (modStep n f s).lintStart = s.lintStart ∧
    (modStep n f s).fenceHeld = s.fenceHeld ∧ (modStep n f s).seamHeld = s.seamHeld ∧
    (modStep n f s).mirrorEfb = s.mirrorEfb ∧ (modStep n f s).fetchAt = s.fetchAt ∧
    (modStep n f s).deferSince = s.deferSince ∧ (modStep n f s).capSince = s.capSince ∧
    (modStep n f s).clamps = s.clamps ∧ (modStep n f s).dbHeld = s.dbHeld ∧ (modStep n f s).linkAt = s.linkAt ∧
    (modStep n f s).bondRx = s.bondRx ∧ (modStep n f s).fillRx = s.fillRx ∧ (modStep n f s).xbarFrom = s.xbarFrom ∧
    (modStep n f s).qfullFrom = s.qfullFrom ∧ (modStep n f s).phy = s.phy ∧ (modStep n f s).bootPins = s.bootPins ∧
    (modStep n f s).defaults = s.defaults ∧ (modStep n f s).upOnce = s.upOnce ∧
    (modStep n f s).coolantSince = s.coolantSince := by
  repeat' constructor

/-- `setDesc` changes `inflight` alone. -/
@[simp] theorem setDesc_fields (d : Desc) (s : State) :
    (setDesc d s).pending = s.pending ∧ (setDesc d s).regs = s.regs ∧ (setDesc d s).force = s.force ∧
    (setDesc d s).mem = s.mem ∧ (setDesc d s).syn = s.syn ∧ (setDesc d s).host = s.host ∧ (setDesc d s).bob = s.bob ∧
    (setDesc d s).free = s.free ∧ (setDesc d s).out = s.out ∧ (setDesc d s).rings = s.rings ∧
    (setDesc d s).ctxs = s.ctxs ∧ (setDesc d s).ctrs = s.ctrs ∧ (setDesc d s).wbWait = s.wbWait ∧
    (setDesc d s).holder = s.holder ∧ (setDesc d s).heldSince = s.heldSince ∧ (setDesc d s).mbWait = s.mbWait ∧
    (setDesc d s).steps = s.steps ∧ (setDesc d s).stoppedShown = s.stoppedShown ∧
    (setDesc d s).lastDisc = s.lastDisc ∧ (setDesc d s).upds = s.upds ∧ (setDesc d s).winHold = s.winHold ∧
    (setDesc d s).heldReads = s.heldReads ∧ (setDesc d s).ownBad = s.ownBad ∧ (setDesc d s).kept = s.kept ∧
    (setDesc d s).verifies = s.verifies ∧ (setDesc d s).readys = s.readys ∧ (setDesc d s).groups = s.groups ∧
    (setDesc d s).mcValid = s.mcValid ∧ (setDesc d s).seamTx = s.seamTx ∧ (setDesc d s).seamRx = s.seamRx ∧
    (setDesc d s).seamWait = s.seamWait ∧ (setDesc d s).xfer = s.xfer ∧ (setDesc d s).loadRx = s.loadRx ∧
    (setDesc d s).press = s.press ∧ (setDesc d s).ckptNow = s.ckptNow ∧ (setDesc d s).ckptLast = s.ckptLast ∧
    (setDesc d s).drain = s.drain ∧ (setDesc d s).ckptRx = s.ckptRx ∧ (setDesc d s).restore = s.restore ∧
    (setDesc d s).ceCount = s.ceCount ∧ (setDesc d s).side = s.side ∧ (setDesc d s).sideMem = s.sideMem ∧
    (setDesc d s).partPend = s.partPend ∧ (setDesc d s).pushed = s.pushed ∧ (setDesc d s).lent = s.lent ∧
    (setDesc d s).lintRecs = s.lintRecs ∧ (setDesc d s).lintOld = s.lintOld ∧ (setDesc d s).lintFirst = s.lintFirst ∧
    (setDesc d s).lintPack = s.lintPack ∧ (setDesc d s).lintNew = s.lintNew ∧ (setDesc d s).lintHead = s.lintHead ∧
    (setDesc d s).tgBusy = s.tgBusy ∧ (setDesc d s).sensorMiss = s.sensorMiss ∧ (setDesc d s).tripPend = s.tripPend ∧
    (setDesc d s).rtrUp = s.rtrUp ∧ (setDesc d s).hifUp = s.hifUp ∧ (setDesc d s).memUp = s.memUp ∧
    (setDesc d s).cmpUp = s.cmpUp ∧ (setDesc d s).fenceNeed = s.fenceNeed ∧ (setDesc d s).fenceGot = s.fenceGot ∧
    (setDesc d s).reportSeq = s.reportSeq ∧ (setDesc d s).outcomes = s.outcomes ∧
    (setDesc d s).mirrorGroups = s.mirrorGroups ∧ (setDesc d s).ports = s.ports ∧ (setDesc d s).vcs = s.vcs ∧
    (setDesc d s).injHeld = s.injHeld ∧ (setDesc d s).drains = s.drains ∧ (setDesc d s).bondSeq = s.bondSeq ∧
    (setDesc d s).collIdx = s.collIdx ∧ (setDesc d s).sends = s.sends ∧ (setDesc d s).fenceQ = s.fenceQ ∧
    (setDesc d s).eng = s.eng ∧ (setDesc d s).waveT = s.waveT ∧ (setDesc d s).waveHeld = s.waveHeld ∧
    (setDesc d s).waveDue = s.waveDue ∧ (setDesc d s).folded = s.folded ∧ (setDesc d s).vcore = s.vcore ∧
    (setDesc d s).oppWord = s.oppWord ∧ (setDesc d s).oppTarget = s.oppTarget ∧ (setDesc d s).oppNext = s.oppNext ∧
    (setDesc d s).sprint = s.sprint ∧ (setDesc d s).rampWait = s.rampWait ∧ (setDesc d s).rampHard = s.rampHard ∧
    (setDesc d s).droopLow = s.droopLow ∧ (setDesc d s).stretched = s.stretched ∧ (setDesc d s).quiet = s.quiet ∧
    (setDesc d s).sprintOn = s.sprintOn ∧ (setDesc d s).sprintLog = s.sprintLog ∧
    (setDesc d s).sprintRefused = s.sprintRefused ∧ (setDesc d s).sprintNotice = s.sprintNotice ∧
    (setDesc d s).cmpCut = s.cmpCut ∧ (setDesc d s).tjMiss = s.tjMiss ∧ (setDesc d s).energyUj = s.energyUj ∧
    (setDesc d s).selfRefresh = s.selfRefresh ∧ (setDesc d s).rst = s.rst ∧ (setDesc d s).aon = s.aon ∧
    (setDesc d s).rstTimes = s.rstTimes ∧ (setDesc d s).flash = s.flash ∧ (setDesc d s).bootSel = s.bootSel ∧
    (setDesc d s).i3c = s.i3c ∧ (setDesc d s).maddr = s.maddr ∧ (setDesc d s).tables = s.tables ∧
    (setDesc d s).rails = s.rails ∧ (setDesc d s).tripLow = s.tripLow ∧ (setDesc d s).mgmt = s.mgmt ∧
    (setDesc d s).lands = s.lands ∧ (setDesc d s).presCounts = s.presCounts ∧ (setDesc d s).owner = s.owner ∧
    (setDesc d s).pufSeed = s.pufSeed ∧ (setDesc d s).spdm = s.spdm ∧ (setDesc d s).jtag = s.jtag ∧
    (setDesc d s).lintRan = s.lintRan ∧ (setDesc d s).servo = s.servo ∧ (setDesc d s).cmpAllow = s.cmpAllow ∧
    (setDesc d s).cmpEntry = s.cmpEntry ∧ (setDesc d s).cache = s.cache ∧ (setDesc d s).xbarReqs = s.xbarReqs ∧
    (setDesc d s).qfullReqs = s.qfullReqs ∧ (setDesc d s).scrubAt = s.scrubAt ∧ (setDesc d s).tgRun = s.tgRun ∧
    (setDesc d s).sideSyn = s.sideSyn ∧ (setDesc d s).copySyn = s.copySyn ∧ (setDesc d s).holdSince = s.holdSince ∧
    (setDesc d s).hemRecs = s.hemRecs ∧ (setDesc d s).lastBay = s.lastBay ∧ (setDesc d s).idleAt = s.idleAt ∧
    (setDesc d s).idleNs = s.idleNs ∧ (setDesc d s).steamRun = s.steamRun ∧ (setDesc d s).lintAt = s.lintAt ∧
    (setDesc d s).lintTurn = s.lintTurn ∧ (setDesc d s).lintUsed = s.lintUsed ∧
    (setDesc d s).lintSince = s.lintSince ∧ (setDesc d s).lintStart = s.lintStart ∧
    (setDesc d s).fenceHeld = s.fenceHeld ∧ (setDesc d s).seamHeld = s.seamHeld ∧
    (setDesc d s).mirrorEfb = s.mirrorEfb ∧ (setDesc d s).fetchAt = s.fetchAt ∧
    (setDesc d s).deferSince = s.deferSince ∧ (setDesc d s).capSince = s.capSince ∧ (setDesc d s).clamps = s.clamps ∧
    (setDesc d s).dbHeld = s.dbHeld ∧ (setDesc d s).linkAt = s.linkAt ∧ (setDesc d s).bondRx = s.bondRx ∧
    (setDesc d s).fillRx = s.fillRx ∧ (setDesc d s).xbarFrom = s.xbarFrom ∧ (setDesc d s).qfullFrom = s.qfullFrom ∧
    (setDesc d s).phy = s.phy ∧ (setDesc d s).bootPins = s.bootPins ∧ (setDesc d s).defaults = s.defaults ∧
    (setDesc d s).upOnce = s.upOnce ∧ (setDesc d s).coolantSince = s.coolantSince := by
  repeat' constructor

/-- `hostPoke` changes at most `host`. -/
@[simp] theorem hostPoke_fields (a : Nat) (bs : List Byte) (s : State) :
    (hostPoke a bs s).pending = s.pending ∧ (hostPoke a bs s).regs = s.regs ∧ (hostPoke a bs s).force = s.force ∧
    (hostPoke a bs s).mem = s.mem ∧ (hostPoke a bs s).syn = s.syn ∧ (hostPoke a bs s).bob = s.bob ∧
    (hostPoke a bs s).free = s.free ∧ (hostPoke a bs s).out = s.out ∧ (hostPoke a bs s).rings = s.rings ∧
    (hostPoke a bs s).ctxs = s.ctxs ∧ (hostPoke a bs s).ctrs = s.ctrs ∧ (hostPoke a bs s).inflight = s.inflight ∧
    (hostPoke a bs s).wbWait = s.wbWait ∧ (hostPoke a bs s).holder = s.holder ∧
    (hostPoke a bs s).heldSince = s.heldSince ∧ (hostPoke a bs s).mbWait = s.mbWait ∧
    (hostPoke a bs s).steps = s.steps ∧ (hostPoke a bs s).stoppedShown = s.stoppedShown ∧
    (hostPoke a bs s).lastDisc = s.lastDisc ∧ (hostPoke a bs s).upds = s.upds ∧
    (hostPoke a bs s).winHold = s.winHold ∧ (hostPoke a bs s).heldReads = s.heldReads ∧
    (hostPoke a bs s).ownBad = s.ownBad ∧ (hostPoke a bs s).kept = s.kept ∧ (hostPoke a bs s).verifies = s.verifies ∧
    (hostPoke a bs s).readys = s.readys ∧ (hostPoke a bs s).groups = s.groups ∧
    (hostPoke a bs s).mcValid = s.mcValid ∧ (hostPoke a bs s).seamTx = s.seamTx ∧
    (hostPoke a bs s).seamRx = s.seamRx ∧ (hostPoke a bs s).seamWait = s.seamWait ∧ (hostPoke a bs s).xfer = s.xfer ∧
    (hostPoke a bs s).loadRx = s.loadRx ∧ (hostPoke a bs s).press = s.press ∧ (hostPoke a bs s).ckptNow = s.ckptNow ∧
    (hostPoke a bs s).ckptLast = s.ckptLast ∧ (hostPoke a bs s).drain = s.drain ∧
    (hostPoke a bs s).ckptRx = s.ckptRx ∧ (hostPoke a bs s).restore = s.restore ∧
    (hostPoke a bs s).ceCount = s.ceCount ∧ (hostPoke a bs s).side = s.side ∧ (hostPoke a bs s).sideMem = s.sideMem ∧
    (hostPoke a bs s).partPend = s.partPend ∧ (hostPoke a bs s).pushed = s.pushed ∧ (hostPoke a bs s).lent = s.lent ∧
    (hostPoke a bs s).lintRecs = s.lintRecs ∧ (hostPoke a bs s).lintOld = s.lintOld ∧
    (hostPoke a bs s).lintFirst = s.lintFirst ∧ (hostPoke a bs s).lintPack = s.lintPack ∧
    (hostPoke a bs s).lintNew = s.lintNew ∧ (hostPoke a bs s).lintHead = s.lintHead ∧
    (hostPoke a bs s).tgBusy = s.tgBusy ∧ (hostPoke a bs s).sensorMiss = s.sensorMiss ∧
    (hostPoke a bs s).tripPend = s.tripPend ∧ (hostPoke a bs s).rtrUp = s.rtrUp ∧ (hostPoke a bs s).hifUp = s.hifUp ∧
    (hostPoke a bs s).memUp = s.memUp ∧ (hostPoke a bs s).cmpUp = s.cmpUp ∧
    (hostPoke a bs s).fenceNeed = s.fenceNeed ∧ (hostPoke a bs s).fenceGot = s.fenceGot ∧
    (hostPoke a bs s).reportSeq = s.reportSeq ∧ (hostPoke a bs s).outcomes = s.outcomes ∧
    (hostPoke a bs s).mirrorGroups = s.mirrorGroups ∧ (hostPoke a bs s).ports = s.ports ∧
    (hostPoke a bs s).vcs = s.vcs ∧ (hostPoke a bs s).injHeld = s.injHeld ∧ (hostPoke a bs s).drains = s.drains ∧
    (hostPoke a bs s).bondSeq = s.bondSeq ∧ (hostPoke a bs s).collIdx = s.collIdx ∧
    (hostPoke a bs s).sends = s.sends ∧ (hostPoke a bs s).fenceQ = s.fenceQ ∧ (hostPoke a bs s).eng = s.eng ∧
    (hostPoke a bs s).waveT = s.waveT ∧ (hostPoke a bs s).waveHeld = s.waveHeld ∧
    (hostPoke a bs s).waveDue = s.waveDue ∧ (hostPoke a bs s).folded = s.folded ∧ (hostPoke a bs s).vcore = s.vcore ∧
    (hostPoke a bs s).oppWord = s.oppWord ∧ (hostPoke a bs s).oppTarget = s.oppTarget ∧
    (hostPoke a bs s).oppNext = s.oppNext ∧ (hostPoke a bs s).sprint = s.sprint ∧
    (hostPoke a bs s).rampWait = s.rampWait ∧ (hostPoke a bs s).rampHard = s.rampHard ∧
    (hostPoke a bs s).droopLow = s.droopLow ∧ (hostPoke a bs s).stretched = s.stretched ∧
    (hostPoke a bs s).quiet = s.quiet ∧ (hostPoke a bs s).sprintOn = s.sprintOn ∧
    (hostPoke a bs s).sprintLog = s.sprintLog ∧ (hostPoke a bs s).sprintRefused = s.sprintRefused ∧
    (hostPoke a bs s).sprintNotice = s.sprintNotice ∧ (hostPoke a bs s).cmpCut = s.cmpCut ∧
    (hostPoke a bs s).tjMiss = s.tjMiss ∧ (hostPoke a bs s).energyUj = s.energyUj ∧
    (hostPoke a bs s).selfRefresh = s.selfRefresh ∧ (hostPoke a bs s).rst = s.rst ∧ (hostPoke a bs s).aon = s.aon ∧
    (hostPoke a bs s).rstTimes = s.rstTimes ∧ (hostPoke a bs s).flash = s.flash ∧
    (hostPoke a bs s).bootSel = s.bootSel ∧ (hostPoke a bs s).i3c = s.i3c ∧ (hostPoke a bs s).maddr = s.maddr ∧
    (hostPoke a bs s).tables = s.tables ∧ (hostPoke a bs s).rails = s.rails ∧ (hostPoke a bs s).tripLow = s.tripLow ∧
    (hostPoke a bs s).mgmt = s.mgmt ∧ (hostPoke a bs s).lands = s.lands ∧
    (hostPoke a bs s).presCounts = s.presCounts ∧ (hostPoke a bs s).owner = s.owner ∧
    (hostPoke a bs s).pufSeed = s.pufSeed ∧ (hostPoke a bs s).spdm = s.spdm ∧ (hostPoke a bs s).jtag = s.jtag ∧
    (hostPoke a bs s).lintRan = s.lintRan ∧ (hostPoke a bs s).servo = s.servo ∧
    (hostPoke a bs s).cmpAllow = s.cmpAllow ∧ (hostPoke a bs s).cmpEntry = s.cmpEntry ∧
    (hostPoke a bs s).cache = s.cache ∧ (hostPoke a bs s).xbarReqs = s.xbarReqs ∧
    (hostPoke a bs s).qfullReqs = s.qfullReqs ∧ (hostPoke a bs s).scrubAt = s.scrubAt ∧
    (hostPoke a bs s).tgRun = s.tgRun ∧ (hostPoke a bs s).sideSyn = s.sideSyn ∧
    (hostPoke a bs s).copySyn = s.copySyn ∧ (hostPoke a bs s).holdSince = s.holdSince ∧
    (hostPoke a bs s).hemRecs = s.hemRecs ∧ (hostPoke a bs s).lastBay = s.lastBay ∧
    (hostPoke a bs s).idleAt = s.idleAt ∧ (hostPoke a bs s).idleNs = s.idleNs ∧
    (hostPoke a bs s).steamRun = s.steamRun ∧ (hostPoke a bs s).lintAt = s.lintAt ∧
    (hostPoke a bs s).lintTurn = s.lintTurn ∧ (hostPoke a bs s).lintUsed = s.lintUsed ∧
    (hostPoke a bs s).lintSince = s.lintSince ∧ (hostPoke a bs s).lintStart = s.lintStart ∧
    (hostPoke a bs s).fenceHeld = s.fenceHeld ∧ (hostPoke a bs s).seamHeld = s.seamHeld ∧
    (hostPoke a bs s).mirrorEfb = s.mirrorEfb ∧ (hostPoke a bs s).fetchAt = s.fetchAt ∧
    (hostPoke a bs s).deferSince = s.deferSince ∧ (hostPoke a bs s).capSince = s.capSince ∧
    (hostPoke a bs s).clamps = s.clamps ∧ (hostPoke a bs s).dbHeld = s.dbHeld ∧ (hostPoke a bs s).linkAt = s.linkAt ∧
    (hostPoke a bs s).bondRx = s.bondRx ∧ (hostPoke a bs s).fillRx = s.fillRx ∧
    (hostPoke a bs s).xbarFrom = s.xbarFrom ∧ (hostPoke a bs s).qfullFrom = s.qfullFrom ∧
    (hostPoke a bs s).phy = s.phy ∧ (hostPoke a bs s).bootPins = s.bootPins ∧
    (hostPoke a bs s).defaults = s.defaults ∧ (hostPoke a bs s).upOnce = s.upOnce ∧
    (hostPoke a bs s).coolantSince = s.coolantSince := by
  induction bs generalizing a s with
  | nil => simp [hostPoke]
  | cons b bs ih => simp [hostPoke, ih]

/-- `hostWrite` changes at most `host`, `wbWait`. -/
@[simp] theorem hostWrite_fields (a : Nat) (bs : List Byte) (s : State) :
    (hostWrite a bs s).pending = s.pending ∧ (hostWrite a bs s).regs = s.regs ∧ (hostWrite a bs s).force = s.force ∧
    (hostWrite a bs s).mem = s.mem ∧ (hostWrite a bs s).syn = s.syn ∧ (hostWrite a bs s).bob = s.bob ∧
    (hostWrite a bs s).free = s.free ∧ (hostWrite a bs s).out = s.out ∧ (hostWrite a bs s).rings = s.rings ∧
    (hostWrite a bs s).ctxs = s.ctxs ∧ (hostWrite a bs s).ctrs = s.ctrs ∧ (hostWrite a bs s).inflight = s.inflight ∧
    (hostWrite a bs s).holder = s.holder ∧ (hostWrite a bs s).heldSince = s.heldSince ∧
    (hostWrite a bs s).mbWait = s.mbWait ∧ (hostWrite a bs s).steps = s.steps ∧
    (hostWrite a bs s).stoppedShown = s.stoppedShown ∧ (hostWrite a bs s).lastDisc = s.lastDisc ∧
    (hostWrite a bs s).upds = s.upds ∧ (hostWrite a bs s).winHold = s.winHold ∧
    (hostWrite a bs s).heldReads = s.heldReads ∧ (hostWrite a bs s).ownBad = s.ownBad ∧
    (hostWrite a bs s).kept = s.kept ∧ (hostWrite a bs s).verifies = s.verifies ∧
    (hostWrite a bs s).readys = s.readys ∧ (hostWrite a bs s).groups = s.groups ∧
    (hostWrite a bs s).mcValid = s.mcValid ∧ (hostWrite a bs s).seamTx = s.seamTx ∧
    (hostWrite a bs s).seamRx = s.seamRx ∧ (hostWrite a bs s).seamWait = s.seamWait ∧
    (hostWrite a bs s).xfer = s.xfer ∧ (hostWrite a bs s).loadRx = s.loadRx ∧ (hostWrite a bs s).press = s.press ∧
    (hostWrite a bs s).ckptNow = s.ckptNow ∧ (hostWrite a bs s).ckptLast = s.ckptLast ∧
    (hostWrite a bs s).drain = s.drain ∧ (hostWrite a bs s).ckptRx = s.ckptRx ∧
    (hostWrite a bs s).restore = s.restore ∧ (hostWrite a bs s).ceCount = s.ceCount ∧
    (hostWrite a bs s).side = s.side ∧ (hostWrite a bs s).sideMem = s.sideMem ∧
    (hostWrite a bs s).partPend = s.partPend ∧ (hostWrite a bs s).pushed = s.pushed ∧
    (hostWrite a bs s).lent = s.lent ∧ (hostWrite a bs s).lintRecs = s.lintRecs ∧
    (hostWrite a bs s).lintOld = s.lintOld ∧ (hostWrite a bs s).lintFirst = s.lintFirst ∧
    (hostWrite a bs s).lintPack = s.lintPack ∧ (hostWrite a bs s).lintNew = s.lintNew ∧
    (hostWrite a bs s).lintHead = s.lintHead ∧ (hostWrite a bs s).tgBusy = s.tgBusy ∧
    (hostWrite a bs s).sensorMiss = s.sensorMiss ∧ (hostWrite a bs s).tripPend = s.tripPend ∧
    (hostWrite a bs s).rtrUp = s.rtrUp ∧ (hostWrite a bs s).hifUp = s.hifUp ∧ (hostWrite a bs s).memUp = s.memUp ∧
    (hostWrite a bs s).cmpUp = s.cmpUp ∧ (hostWrite a bs s).fenceNeed = s.fenceNeed ∧
    (hostWrite a bs s).fenceGot = s.fenceGot ∧ (hostWrite a bs s).reportSeq = s.reportSeq ∧
    (hostWrite a bs s).outcomes = s.outcomes ∧ (hostWrite a bs s).mirrorGroups = s.mirrorGroups ∧
    (hostWrite a bs s).ports = s.ports ∧ (hostWrite a bs s).vcs = s.vcs ∧ (hostWrite a bs s).injHeld = s.injHeld ∧
    (hostWrite a bs s).drains = s.drains ∧ (hostWrite a bs s).bondSeq = s.bondSeq ∧
    (hostWrite a bs s).collIdx = s.collIdx ∧ (hostWrite a bs s).sends = s.sends ∧
    (hostWrite a bs s).fenceQ = s.fenceQ ∧ (hostWrite a bs s).eng = s.eng ∧ (hostWrite a bs s).waveT = s.waveT ∧
    (hostWrite a bs s).waveHeld = s.waveHeld ∧ (hostWrite a bs s).waveDue = s.waveDue ∧
    (hostWrite a bs s).folded = s.folded ∧ (hostWrite a bs s).vcore = s.vcore ∧
    (hostWrite a bs s).oppWord = s.oppWord ∧ (hostWrite a bs s).oppTarget = s.oppTarget ∧
    (hostWrite a bs s).oppNext = s.oppNext ∧ (hostWrite a bs s).sprint = s.sprint ∧
    (hostWrite a bs s).rampWait = s.rampWait ∧ (hostWrite a bs s).rampHard = s.rampHard ∧
    (hostWrite a bs s).droopLow = s.droopLow ∧ (hostWrite a bs s).stretched = s.stretched ∧
    (hostWrite a bs s).quiet = s.quiet ∧ (hostWrite a bs s).sprintOn = s.sprintOn ∧
    (hostWrite a bs s).sprintLog = s.sprintLog ∧ (hostWrite a bs s).sprintRefused = s.sprintRefused ∧
    (hostWrite a bs s).sprintNotice = s.sprintNotice ∧ (hostWrite a bs s).cmpCut = s.cmpCut ∧
    (hostWrite a bs s).tjMiss = s.tjMiss ∧ (hostWrite a bs s).energyUj = s.energyUj ∧
    (hostWrite a bs s).selfRefresh = s.selfRefresh ∧ (hostWrite a bs s).rst = s.rst ∧
    (hostWrite a bs s).aon = s.aon ∧ (hostWrite a bs s).rstTimes = s.rstTimes ∧ (hostWrite a bs s).flash = s.flash ∧
    (hostWrite a bs s).bootSel = s.bootSel ∧ (hostWrite a bs s).i3c = s.i3c ∧ (hostWrite a bs s).maddr = s.maddr ∧
    (hostWrite a bs s).tables = s.tables ∧ (hostWrite a bs s).rails = s.rails ∧
    (hostWrite a bs s).tripLow = s.tripLow ∧ (hostWrite a bs s).mgmt = s.mgmt ∧ (hostWrite a bs s).lands = s.lands ∧
    (hostWrite a bs s).presCounts = s.presCounts ∧ (hostWrite a bs s).owner = s.owner ∧
    (hostWrite a bs s).pufSeed = s.pufSeed ∧ (hostWrite a bs s).spdm = s.spdm ∧ (hostWrite a bs s).jtag = s.jtag ∧
    (hostWrite a bs s).lintRan = s.lintRan ∧ (hostWrite a bs s).servo = s.servo ∧
    (hostWrite a bs s).cmpAllow = s.cmpAllow ∧ (hostWrite a bs s).cmpEntry = s.cmpEntry ∧
    (hostWrite a bs s).cache = s.cache ∧ (hostWrite a bs s).xbarReqs = s.xbarReqs ∧
    (hostWrite a bs s).qfullReqs = s.qfullReqs ∧ (hostWrite a bs s).scrubAt = s.scrubAt ∧
    (hostWrite a bs s).tgRun = s.tgRun ∧ (hostWrite a bs s).sideSyn = s.sideSyn ∧
    (hostWrite a bs s).copySyn = s.copySyn ∧ (hostWrite a bs s).holdSince = s.holdSince ∧
    (hostWrite a bs s).hemRecs = s.hemRecs ∧ (hostWrite a bs s).lastBay = s.lastBay ∧
    (hostWrite a bs s).idleAt = s.idleAt ∧ (hostWrite a bs s).idleNs = s.idleNs ∧
    (hostWrite a bs s).steamRun = s.steamRun ∧ (hostWrite a bs s).lintAt = s.lintAt ∧
    (hostWrite a bs s).lintTurn = s.lintTurn ∧ (hostWrite a bs s).lintUsed = s.lintUsed ∧
    (hostWrite a bs s).lintSince = s.lintSince ∧ (hostWrite a bs s).lintStart = s.lintStart ∧
    (hostWrite a bs s).fenceHeld = s.fenceHeld ∧ (hostWrite a bs s).seamHeld = s.seamHeld ∧
    (hostWrite a bs s).mirrorEfb = s.mirrorEfb ∧ (hostWrite a bs s).fetchAt = s.fetchAt ∧
    (hostWrite a bs s).deferSince = s.deferSince ∧ (hostWrite a bs s).capSince = s.capSince ∧
    (hostWrite a bs s).clamps = s.clamps ∧ (hostWrite a bs s).dbHeld = s.dbHeld ∧
    (hostWrite a bs s).linkAt = s.linkAt ∧ (hostWrite a bs s).bondRx = s.bondRx ∧
    (hostWrite a bs s).fillRx = s.fillRx ∧ (hostWrite a bs s).xbarFrom = s.xbarFrom ∧
    (hostWrite a bs s).qfullFrom = s.qfullFrom ∧ (hostWrite a bs s).phy = s.phy ∧
    (hostWrite a bs s).bootPins = s.bootPins ∧ (hostWrite a bs s).defaults = s.defaults ∧
    (hostWrite a bs s).upOnce = s.upOnce ∧ (hostWrite a bs s).coolantSince = s.coolantSince := by
  unfold hostWrite
  split <;> simp

/-- `memWrite` changes at most `mem`. -/
@[simp] theorem memWrite_fields (a : Nat) (bs : List Byte) (s : State) :
    (memWrite a bs s).pending = s.pending ∧ (memWrite a bs s).regs = s.regs ∧ (memWrite a bs s).force = s.force ∧
    (memWrite a bs s).syn = s.syn ∧ (memWrite a bs s).host = s.host ∧ (memWrite a bs s).bob = s.bob ∧
    (memWrite a bs s).free = s.free ∧ (memWrite a bs s).out = s.out ∧ (memWrite a bs s).rings = s.rings ∧
    (memWrite a bs s).ctxs = s.ctxs ∧ (memWrite a bs s).ctrs = s.ctrs ∧ (memWrite a bs s).inflight = s.inflight ∧
    (memWrite a bs s).wbWait = s.wbWait ∧ (memWrite a bs s).holder = s.holder ∧
    (memWrite a bs s).heldSince = s.heldSince ∧ (memWrite a bs s).mbWait = s.mbWait ∧
    (memWrite a bs s).steps = s.steps ∧ (memWrite a bs s).stoppedShown = s.stoppedShown ∧
    (memWrite a bs s).lastDisc = s.lastDisc ∧ (memWrite a bs s).upds = s.upds ∧
    (memWrite a bs s).winHold = s.winHold ∧ (memWrite a bs s).heldReads = s.heldReads ∧
    (memWrite a bs s).ownBad = s.ownBad ∧ (memWrite a bs s).kept = s.kept ∧ (memWrite a bs s).verifies = s.verifies ∧
    (memWrite a bs s).readys = s.readys ∧ (memWrite a bs s).groups = s.groups ∧
    (memWrite a bs s).mcValid = s.mcValid ∧ (memWrite a bs s).seamTx = s.seamTx ∧
    (memWrite a bs s).seamRx = s.seamRx ∧ (memWrite a bs s).seamWait = s.seamWait ∧ (memWrite a bs s).xfer = s.xfer ∧
    (memWrite a bs s).loadRx = s.loadRx ∧ (memWrite a bs s).press = s.press ∧ (memWrite a bs s).ckptNow = s.ckptNow ∧
    (memWrite a bs s).ckptLast = s.ckptLast ∧ (memWrite a bs s).drain = s.drain ∧
    (memWrite a bs s).ckptRx = s.ckptRx ∧ (memWrite a bs s).restore = s.restore ∧
    (memWrite a bs s).ceCount = s.ceCount ∧ (memWrite a bs s).side = s.side ∧ (memWrite a bs s).sideMem = s.sideMem ∧
    (memWrite a bs s).partPend = s.partPend ∧ (memWrite a bs s).pushed = s.pushed ∧ (memWrite a bs s).lent = s.lent ∧
    (memWrite a bs s).lintRecs = s.lintRecs ∧ (memWrite a bs s).lintOld = s.lintOld ∧
    (memWrite a bs s).lintFirst = s.lintFirst ∧ (memWrite a bs s).lintPack = s.lintPack ∧
    (memWrite a bs s).lintNew = s.lintNew ∧ (memWrite a bs s).lintHead = s.lintHead ∧
    (memWrite a bs s).tgBusy = s.tgBusy ∧ (memWrite a bs s).sensorMiss = s.sensorMiss ∧
    (memWrite a bs s).tripPend = s.tripPend ∧ (memWrite a bs s).rtrUp = s.rtrUp ∧ (memWrite a bs s).hifUp = s.hifUp ∧
    (memWrite a bs s).memUp = s.memUp ∧ (memWrite a bs s).cmpUp = s.cmpUp ∧
    (memWrite a bs s).fenceNeed = s.fenceNeed ∧ (memWrite a bs s).fenceGot = s.fenceGot ∧
    (memWrite a bs s).reportSeq = s.reportSeq ∧ (memWrite a bs s).outcomes = s.outcomes ∧
    (memWrite a bs s).mirrorGroups = s.mirrorGroups ∧ (memWrite a bs s).ports = s.ports ∧
    (memWrite a bs s).vcs = s.vcs ∧ (memWrite a bs s).injHeld = s.injHeld ∧ (memWrite a bs s).drains = s.drains ∧
    (memWrite a bs s).bondSeq = s.bondSeq ∧ (memWrite a bs s).collIdx = s.collIdx ∧
    (memWrite a bs s).sends = s.sends ∧ (memWrite a bs s).fenceQ = s.fenceQ ∧ (memWrite a bs s).eng = s.eng ∧
    (memWrite a bs s).waveT = s.waveT ∧ (memWrite a bs s).waveHeld = s.waveHeld ∧
    (memWrite a bs s).waveDue = s.waveDue ∧ (memWrite a bs s).folded = s.folded ∧ (memWrite a bs s).vcore = s.vcore ∧
    (memWrite a bs s).oppWord = s.oppWord ∧ (memWrite a bs s).oppTarget = s.oppTarget ∧
    (memWrite a bs s).oppNext = s.oppNext ∧ (memWrite a bs s).sprint = s.sprint ∧
    (memWrite a bs s).rampWait = s.rampWait ∧ (memWrite a bs s).rampHard = s.rampHard ∧
    (memWrite a bs s).droopLow = s.droopLow ∧ (memWrite a bs s).stretched = s.stretched ∧
    (memWrite a bs s).quiet = s.quiet ∧ (memWrite a bs s).sprintOn = s.sprintOn ∧
    (memWrite a bs s).sprintLog = s.sprintLog ∧ (memWrite a bs s).sprintRefused = s.sprintRefused ∧
    (memWrite a bs s).sprintNotice = s.sprintNotice ∧ (memWrite a bs s).cmpCut = s.cmpCut ∧
    (memWrite a bs s).tjMiss = s.tjMiss ∧ (memWrite a bs s).energyUj = s.energyUj ∧
    (memWrite a bs s).selfRefresh = s.selfRefresh ∧ (memWrite a bs s).rst = s.rst ∧ (memWrite a bs s).aon = s.aon ∧
    (memWrite a bs s).rstTimes = s.rstTimes ∧ (memWrite a bs s).flash = s.flash ∧
    (memWrite a bs s).bootSel = s.bootSel ∧ (memWrite a bs s).i3c = s.i3c ∧ (memWrite a bs s).maddr = s.maddr ∧
    (memWrite a bs s).tables = s.tables ∧ (memWrite a bs s).rails = s.rails ∧ (memWrite a bs s).tripLow = s.tripLow ∧
    (memWrite a bs s).mgmt = s.mgmt ∧ (memWrite a bs s).lands = s.lands ∧
    (memWrite a bs s).presCounts = s.presCounts ∧ (memWrite a bs s).owner = s.owner ∧
    (memWrite a bs s).pufSeed = s.pufSeed ∧ (memWrite a bs s).spdm = s.spdm ∧ (memWrite a bs s).jtag = s.jtag ∧
    (memWrite a bs s).lintRan = s.lintRan ∧ (memWrite a bs s).servo = s.servo ∧
    (memWrite a bs s).cmpAllow = s.cmpAllow ∧ (memWrite a bs s).cmpEntry = s.cmpEntry ∧
    (memWrite a bs s).cache = s.cache ∧ (memWrite a bs s).xbarReqs = s.xbarReqs ∧
    (memWrite a bs s).qfullReqs = s.qfullReqs ∧ (memWrite a bs s).scrubAt = s.scrubAt ∧
    (memWrite a bs s).tgRun = s.tgRun ∧ (memWrite a bs s).sideSyn = s.sideSyn ∧
    (memWrite a bs s).copySyn = s.copySyn ∧ (memWrite a bs s).holdSince = s.holdSince ∧
    (memWrite a bs s).hemRecs = s.hemRecs ∧ (memWrite a bs s).lastBay = s.lastBay ∧
    (memWrite a bs s).idleAt = s.idleAt ∧ (memWrite a bs s).idleNs = s.idleNs ∧
    (memWrite a bs s).steamRun = s.steamRun ∧ (memWrite a bs s).lintAt = s.lintAt ∧
    (memWrite a bs s).lintTurn = s.lintTurn ∧ (memWrite a bs s).lintUsed = s.lintUsed ∧
    (memWrite a bs s).lintSince = s.lintSince ∧ (memWrite a bs s).lintStart = s.lintStart ∧
    (memWrite a bs s).fenceHeld = s.fenceHeld ∧ (memWrite a bs s).seamHeld = s.seamHeld ∧
    (memWrite a bs s).mirrorEfb = s.mirrorEfb ∧ (memWrite a bs s).fetchAt = s.fetchAt ∧
    (memWrite a bs s).deferSince = s.deferSince ∧ (memWrite a bs s).capSince = s.capSince ∧
    (memWrite a bs s).clamps = s.clamps ∧ (memWrite a bs s).dbHeld = s.dbHeld ∧ (memWrite a bs s).linkAt = s.linkAt ∧
    (memWrite a bs s).bondRx = s.bondRx ∧ (memWrite a bs s).fillRx = s.fillRx ∧
    (memWrite a bs s).xbarFrom = s.xbarFrom ∧ (memWrite a bs s).qfullFrom = s.qfullFrom ∧
    (memWrite a bs s).phy = s.phy ∧ (memWrite a bs s).bootPins = s.bootPins ∧
    (memWrite a bs s).defaults = s.defaults ∧ (memWrite a bs s).upOnce = s.upOnce ∧
    (memWrite a bs s).coolantSince = s.coolantSince := by
  induction bs generalizing a s with
  | nil => simp [memWrite]
  | cons b bs ih => simp [memWrite, ih]

/-- `setupError` changes at most `regs`. -/
@[simp] theorem setupError_fields (cause : Nat) (src : Source) (a : Nat) (s : State) :
    (setupError cause src a s).pending = s.pending ∧ (setupError cause src a s).force = s.force ∧
    (setupError cause src a s).mem = s.mem ∧ (setupError cause src a s).syn = s.syn ∧
    (setupError cause src a s).host = s.host ∧ (setupError cause src a s).bob = s.bob ∧
    (setupError cause src a s).free = s.free ∧ (setupError cause src a s).out = s.out ∧
    (setupError cause src a s).rings = s.rings ∧ (setupError cause src a s).ctxs = s.ctxs ∧
    (setupError cause src a s).ctrs = s.ctrs ∧ (setupError cause src a s).inflight = s.inflight ∧
    (setupError cause src a s).wbWait = s.wbWait ∧ (setupError cause src a s).holder = s.holder ∧
    (setupError cause src a s).heldSince = s.heldSince ∧ (setupError cause src a s).mbWait = s.mbWait ∧
    (setupError cause src a s).steps = s.steps ∧ (setupError cause src a s).stoppedShown = s.stoppedShown ∧
    (setupError cause src a s).lastDisc = s.lastDisc ∧ (setupError cause src a s).upds = s.upds ∧
    (setupError cause src a s).winHold = s.winHold ∧ (setupError cause src a s).heldReads = s.heldReads ∧
    (setupError cause src a s).ownBad = s.ownBad ∧ (setupError cause src a s).kept = s.kept ∧
    (setupError cause src a s).verifies = s.verifies ∧ (setupError cause src a s).readys = s.readys ∧
    (setupError cause src a s).groups = s.groups ∧ (setupError cause src a s).mcValid = s.mcValid ∧
    (setupError cause src a s).seamTx = s.seamTx ∧ (setupError cause src a s).seamRx = s.seamRx ∧
    (setupError cause src a s).seamWait = s.seamWait ∧ (setupError cause src a s).xfer = s.xfer ∧
    (setupError cause src a s).loadRx = s.loadRx ∧ (setupError cause src a s).press = s.press ∧
    (setupError cause src a s).ckptNow = s.ckptNow ∧ (setupError cause src a s).ckptLast = s.ckptLast ∧
    (setupError cause src a s).drain = s.drain ∧ (setupError cause src a s).ckptRx = s.ckptRx ∧
    (setupError cause src a s).restore = s.restore ∧ (setupError cause src a s).ceCount = s.ceCount ∧
    (setupError cause src a s).side = s.side ∧ (setupError cause src a s).sideMem = s.sideMem ∧
    (setupError cause src a s).partPend = s.partPend ∧ (setupError cause src a s).pushed = s.pushed ∧
    (setupError cause src a s).lent = s.lent ∧ (setupError cause src a s).lintRecs = s.lintRecs ∧
    (setupError cause src a s).lintOld = s.lintOld ∧ (setupError cause src a s).lintFirst = s.lintFirst ∧
    (setupError cause src a s).lintPack = s.lintPack ∧ (setupError cause src a s).lintNew = s.lintNew ∧
    (setupError cause src a s).lintHead = s.lintHead ∧ (setupError cause src a s).tgBusy = s.tgBusy ∧
    (setupError cause src a s).sensorMiss = s.sensorMiss ∧ (setupError cause src a s).tripPend = s.tripPend ∧
    (setupError cause src a s).rtrUp = s.rtrUp ∧ (setupError cause src a s).hifUp = s.hifUp ∧
    (setupError cause src a s).memUp = s.memUp ∧ (setupError cause src a s).cmpUp = s.cmpUp ∧
    (setupError cause src a s).fenceNeed = s.fenceNeed ∧ (setupError cause src a s).fenceGot = s.fenceGot ∧
    (setupError cause src a s).reportSeq = s.reportSeq ∧ (setupError cause src a s).outcomes = s.outcomes ∧
    (setupError cause src a s).mirrorGroups = s.mirrorGroups ∧ (setupError cause src a s).ports = s.ports ∧
    (setupError cause src a s).vcs = s.vcs ∧ (setupError cause src a s).injHeld = s.injHeld ∧
    (setupError cause src a s).drains = s.drains ∧ (setupError cause src a s).bondSeq = s.bondSeq ∧
    (setupError cause src a s).collIdx = s.collIdx ∧ (setupError cause src a s).sends = s.sends ∧
    (setupError cause src a s).fenceQ = s.fenceQ ∧ (setupError cause src a s).eng = s.eng ∧
    (setupError cause src a s).waveT = s.waveT ∧ (setupError cause src a s).waveHeld = s.waveHeld ∧
    (setupError cause src a s).waveDue = s.waveDue ∧ (setupError cause src a s).folded = s.folded ∧
    (setupError cause src a s).vcore = s.vcore ∧ (setupError cause src a s).oppWord = s.oppWord ∧
    (setupError cause src a s).oppTarget = s.oppTarget ∧ (setupError cause src a s).oppNext = s.oppNext ∧
    (setupError cause src a s).sprint = s.sprint ∧ (setupError cause src a s).rampWait = s.rampWait ∧
    (setupError cause src a s).rampHard = s.rampHard ∧ (setupError cause src a s).droopLow = s.droopLow ∧
    (setupError cause src a s).stretched = s.stretched ∧ (setupError cause src a s).quiet = s.quiet ∧
    (setupError cause src a s).sprintOn = s.sprintOn ∧ (setupError cause src a s).sprintLog = s.sprintLog ∧
    (setupError cause src a s).sprintRefused = s.sprintRefused ∧
    (setupError cause src a s).sprintNotice = s.sprintNotice ∧ (setupError cause src a s).cmpCut = s.cmpCut ∧
    (setupError cause src a s).tjMiss = s.tjMiss ∧ (setupError cause src a s).energyUj = s.energyUj ∧
    (setupError cause src a s).selfRefresh = s.selfRefresh ∧ (setupError cause src a s).rst = s.rst ∧
    (setupError cause src a s).aon = s.aon ∧ (setupError cause src a s).rstTimes = s.rstTimes ∧
    (setupError cause src a s).flash = s.flash ∧ (setupError cause src a s).bootSel = s.bootSel ∧
    (setupError cause src a s).i3c = s.i3c ∧ (setupError cause src a s).maddr = s.maddr ∧
    (setupError cause src a s).tables = s.tables ∧ (setupError cause src a s).rails = s.rails ∧
    (setupError cause src a s).tripLow = s.tripLow ∧ (setupError cause src a s).mgmt = s.mgmt ∧
    (setupError cause src a s).lands = s.lands ∧ (setupError cause src a s).presCounts = s.presCounts ∧
    (setupError cause src a s).owner = s.owner ∧ (setupError cause src a s).pufSeed = s.pufSeed ∧
    (setupError cause src a s).spdm = s.spdm ∧ (setupError cause src a s).jtag = s.jtag ∧
    (setupError cause src a s).lintRan = s.lintRan ∧ (setupError cause src a s).servo = s.servo ∧
    (setupError cause src a s).cmpAllow = s.cmpAllow ∧ (setupError cause src a s).cmpEntry = s.cmpEntry ∧
    (setupError cause src a s).cache = s.cache ∧ (setupError cause src a s).xbarReqs = s.xbarReqs ∧
    (setupError cause src a s).qfullReqs = s.qfullReqs ∧ (setupError cause src a s).scrubAt = s.scrubAt ∧
    (setupError cause src a s).tgRun = s.tgRun ∧ (setupError cause src a s).sideSyn = s.sideSyn ∧
    (setupError cause src a s).copySyn = s.copySyn ∧ (setupError cause src a s).holdSince = s.holdSince ∧
    (setupError cause src a s).hemRecs = s.hemRecs ∧ (setupError cause src a s).lastBay = s.lastBay ∧
    (setupError cause src a s).idleAt = s.idleAt ∧ (setupError cause src a s).idleNs = s.idleNs ∧
    (setupError cause src a s).steamRun = s.steamRun ∧ (setupError cause src a s).lintAt = s.lintAt ∧
    (setupError cause src a s).lintTurn = s.lintTurn ∧ (setupError cause src a s).lintUsed = s.lintUsed ∧
    (setupError cause src a s).lintSince = s.lintSince ∧ (setupError cause src a s).lintStart = s.lintStart ∧
    (setupError cause src a s).fenceHeld = s.fenceHeld ∧ (setupError cause src a s).seamHeld = s.seamHeld ∧
    (setupError cause src a s).mirrorEfb = s.mirrorEfb ∧ (setupError cause src a s).fetchAt = s.fetchAt ∧
    (setupError cause src a s).deferSince = s.deferSince ∧ (setupError cause src a s).capSince = s.capSince ∧
    (setupError cause src a s).clamps = s.clamps ∧ (setupError cause src a s).dbHeld = s.dbHeld ∧
    (setupError cause src a s).linkAt = s.linkAt ∧ (setupError cause src a s).bondRx = s.bondRx ∧
    (setupError cause src a s).fillRx = s.fillRx ∧ (setupError cause src a s).xbarFrom = s.xbarFrom ∧
    (setupError cause src a s).qfullFrom = s.qfullFrom ∧ (setupError cause src a s).phy = s.phy ∧
    (setupError cause src a s).bootPins = s.bootPins ∧ (setupError cause src a s).defaults = s.defaults ∧
    (setupError cause src a s).upOnce = s.upOnce ∧ (setupError cause src a s).coolantSince = s.coolantSince := by
  unfold setupError
  dsimp only
  split <;> simp

/-- `raiseVec` changes at most `regs`, `out`. -/
@[simp] theorem raiseVec_fields (v : Nat) (s : State) :
    (raiseVec v s).pending = s.pending ∧ (raiseVec v s).force = s.force ∧ (raiseVec v s).mem = s.mem ∧
    (raiseVec v s).syn = s.syn ∧ (raiseVec v s).host = s.host ∧ (raiseVec v s).bob = s.bob ∧
    (raiseVec v s).free = s.free ∧ (raiseVec v s).rings = s.rings ∧ (raiseVec v s).ctxs = s.ctxs ∧
    (raiseVec v s).ctrs = s.ctrs ∧ (raiseVec v s).inflight = s.inflight ∧ (raiseVec v s).wbWait = s.wbWait ∧
    (raiseVec v s).holder = s.holder ∧ (raiseVec v s).heldSince = s.heldSince ∧ (raiseVec v s).mbWait = s.mbWait ∧
    (raiseVec v s).steps = s.steps ∧ (raiseVec v s).stoppedShown = s.stoppedShown ∧
    (raiseVec v s).lastDisc = s.lastDisc ∧ (raiseVec v s).upds = s.upds ∧ (raiseVec v s).winHold = s.winHold ∧
    (raiseVec v s).heldReads = s.heldReads ∧ (raiseVec v s).ownBad = s.ownBad ∧ (raiseVec v s).kept = s.kept ∧
    (raiseVec v s).verifies = s.verifies ∧ (raiseVec v s).readys = s.readys ∧ (raiseVec v s).groups = s.groups ∧
    (raiseVec v s).mcValid = s.mcValid ∧ (raiseVec v s).seamTx = s.seamTx ∧ (raiseVec v s).seamRx = s.seamRx ∧
    (raiseVec v s).seamWait = s.seamWait ∧ (raiseVec v s).xfer = s.xfer ∧ (raiseVec v s).loadRx = s.loadRx ∧
    (raiseVec v s).press = s.press ∧ (raiseVec v s).ckptNow = s.ckptNow ∧ (raiseVec v s).ckptLast = s.ckptLast ∧
    (raiseVec v s).drain = s.drain ∧ (raiseVec v s).ckptRx = s.ckptRx ∧ (raiseVec v s).restore = s.restore ∧
    (raiseVec v s).ceCount = s.ceCount ∧ (raiseVec v s).side = s.side ∧ (raiseVec v s).sideMem = s.sideMem ∧
    (raiseVec v s).partPend = s.partPend ∧ (raiseVec v s).pushed = s.pushed ∧ (raiseVec v s).lent = s.lent ∧
    (raiseVec v s).lintRecs = s.lintRecs ∧ (raiseVec v s).lintOld = s.lintOld ∧
    (raiseVec v s).lintFirst = s.lintFirst ∧ (raiseVec v s).lintPack = s.lintPack ∧
    (raiseVec v s).lintNew = s.lintNew ∧ (raiseVec v s).lintHead = s.lintHead ∧ (raiseVec v s).tgBusy = s.tgBusy ∧
    (raiseVec v s).sensorMiss = s.sensorMiss ∧ (raiseVec v s).tripPend = s.tripPend ∧
    (raiseVec v s).rtrUp = s.rtrUp ∧ (raiseVec v s).hifUp = s.hifUp ∧ (raiseVec v s).memUp = s.memUp ∧
    (raiseVec v s).cmpUp = s.cmpUp ∧ (raiseVec v s).fenceNeed = s.fenceNeed ∧ (raiseVec v s).fenceGot = s.fenceGot ∧
    (raiseVec v s).reportSeq = s.reportSeq ∧ (raiseVec v s).outcomes = s.outcomes ∧
    (raiseVec v s).mirrorGroups = s.mirrorGroups ∧ (raiseVec v s).ports = s.ports ∧ (raiseVec v s).vcs = s.vcs ∧
    (raiseVec v s).injHeld = s.injHeld ∧ (raiseVec v s).drains = s.drains ∧ (raiseVec v s).bondSeq = s.bondSeq ∧
    (raiseVec v s).collIdx = s.collIdx ∧ (raiseVec v s).sends = s.sends ∧ (raiseVec v s).fenceQ = s.fenceQ ∧
    (raiseVec v s).eng = s.eng ∧ (raiseVec v s).waveT = s.waveT ∧ (raiseVec v s).waveHeld = s.waveHeld ∧
    (raiseVec v s).waveDue = s.waveDue ∧ (raiseVec v s).folded = s.folded ∧ (raiseVec v s).vcore = s.vcore ∧
    (raiseVec v s).oppWord = s.oppWord ∧ (raiseVec v s).oppTarget = s.oppTarget ∧
    (raiseVec v s).oppNext = s.oppNext ∧ (raiseVec v s).sprint = s.sprint ∧ (raiseVec v s).rampWait = s.rampWait ∧
    (raiseVec v s).rampHard = s.rampHard ∧ (raiseVec v s).droopLow = s.droopLow ∧
    (raiseVec v s).stretched = s.stretched ∧ (raiseVec v s).quiet = s.quiet ∧ (raiseVec v s).sprintOn = s.sprintOn ∧
    (raiseVec v s).sprintLog = s.sprintLog ∧ (raiseVec v s).sprintRefused = s.sprintRefused ∧
    (raiseVec v s).sprintNotice = s.sprintNotice ∧ (raiseVec v s).cmpCut = s.cmpCut ∧
    (raiseVec v s).tjMiss = s.tjMiss ∧ (raiseVec v s).energyUj = s.energyUj ∧
    (raiseVec v s).selfRefresh = s.selfRefresh ∧ (raiseVec v s).rst = s.rst ∧ (raiseVec v s).aon = s.aon ∧
    (raiseVec v s).rstTimes = s.rstTimes ∧ (raiseVec v s).flash = s.flash ∧ (raiseVec v s).bootSel = s.bootSel ∧
    (raiseVec v s).i3c = s.i3c ∧ (raiseVec v s).maddr = s.maddr ∧ (raiseVec v s).tables = s.tables ∧
    (raiseVec v s).rails = s.rails ∧ (raiseVec v s).tripLow = s.tripLow ∧ (raiseVec v s).mgmt = s.mgmt ∧
    (raiseVec v s).lands = s.lands ∧ (raiseVec v s).presCounts = s.presCounts ∧ (raiseVec v s).owner = s.owner ∧
    (raiseVec v s).pufSeed = s.pufSeed ∧ (raiseVec v s).spdm = s.spdm ∧ (raiseVec v s).jtag = s.jtag ∧
    (raiseVec v s).lintRan = s.lintRan ∧ (raiseVec v s).servo = s.servo ∧ (raiseVec v s).cmpAllow = s.cmpAllow ∧
    (raiseVec v s).cmpEntry = s.cmpEntry ∧ (raiseVec v s).cache = s.cache ∧ (raiseVec v s).xbarReqs = s.xbarReqs ∧
    (raiseVec v s).qfullReqs = s.qfullReqs ∧ (raiseVec v s).scrubAt = s.scrubAt ∧ (raiseVec v s).tgRun = s.tgRun ∧
    (raiseVec v s).sideSyn = s.sideSyn ∧ (raiseVec v s).copySyn = s.copySyn ∧
    (raiseVec v s).holdSince = s.holdSince ∧ (raiseVec v s).hemRecs = s.hemRecs ∧
    (raiseVec v s).lastBay = s.lastBay ∧ (raiseVec v s).idleAt = s.idleAt ∧ (raiseVec v s).idleNs = s.idleNs ∧
    (raiseVec v s).steamRun = s.steamRun ∧ (raiseVec v s).lintAt = s.lintAt ∧ (raiseVec v s).lintTurn = s.lintTurn ∧
    (raiseVec v s).lintUsed = s.lintUsed ∧ (raiseVec v s).lintSince = s.lintSince ∧
    (raiseVec v s).lintStart = s.lintStart ∧ (raiseVec v s).fenceHeld = s.fenceHeld ∧
    (raiseVec v s).seamHeld = s.seamHeld ∧ (raiseVec v s).mirrorEfb = s.mirrorEfb ∧
    (raiseVec v s).fetchAt = s.fetchAt ∧ (raiseVec v s).deferSince = s.deferSince ∧
    (raiseVec v s).capSince = s.capSince ∧ (raiseVec v s).clamps = s.clamps ∧ (raiseVec v s).dbHeld = s.dbHeld ∧
    (raiseVec v s).linkAt = s.linkAt ∧ (raiseVec v s).bondRx = s.bondRx ∧ (raiseVec v s).fillRx = s.fillRx ∧
    (raiseVec v s).xbarFrom = s.xbarFrom ∧ (raiseVec v s).qfullFrom = s.qfullFrom ∧ (raiseVec v s).phy = s.phy ∧
    (raiseVec v s).bootPins = s.bootPins ∧ (raiseVec v s).defaults = s.defaults ∧ (raiseVec v s).upOnce = s.upOnce ∧
    (raiseVec v s).coolantSince = s.coolantSince := by
  unfold raiseVec
  split <;> simp

/-- `noticeInt` changes at most `regs`, `out`, `ctxs`. -/
@[simp] theorem noticeInt_fields (c : Nat) (s : State) :
    (noticeInt c s).pending = s.pending ∧ (noticeInt c s).force = s.force ∧ (noticeInt c s).mem = s.mem ∧
    (noticeInt c s).syn = s.syn ∧ (noticeInt c s).host = s.host ∧ (noticeInt c s).bob = s.bob ∧
    (noticeInt c s).free = s.free ∧ (noticeInt c s).rings = s.rings ∧ (noticeInt c s).ctrs = s.ctrs ∧
    (noticeInt c s).inflight = s.inflight ∧ (noticeInt c s).wbWait = s.wbWait ∧ (noticeInt c s).holder = s.holder ∧
    (noticeInt c s).heldSince = s.heldSince ∧ (noticeInt c s).mbWait = s.mbWait ∧ (noticeInt c s).steps = s.steps ∧
    (noticeInt c s).stoppedShown = s.stoppedShown ∧ (noticeInt c s).lastDisc = s.lastDisc ∧
    (noticeInt c s).upds = s.upds ∧ (noticeInt c s).winHold = s.winHold ∧ (noticeInt c s).heldReads = s.heldReads ∧
    (noticeInt c s).ownBad = s.ownBad ∧ (noticeInt c s).kept = s.kept ∧ (noticeInt c s).verifies = s.verifies ∧
    (noticeInt c s).readys = s.readys ∧ (noticeInt c s).groups = s.groups ∧ (noticeInt c s).mcValid = s.mcValid ∧
    (noticeInt c s).seamTx = s.seamTx ∧ (noticeInt c s).seamRx = s.seamRx ∧ (noticeInt c s).seamWait = s.seamWait ∧
    (noticeInt c s).xfer = s.xfer ∧ (noticeInt c s).loadRx = s.loadRx ∧ (noticeInt c s).press = s.press ∧
    (noticeInt c s).ckptNow = s.ckptNow ∧ (noticeInt c s).ckptLast = s.ckptLast ∧ (noticeInt c s).drain = s.drain ∧
    (noticeInt c s).ckptRx = s.ckptRx ∧ (noticeInt c s).restore = s.restore ∧ (noticeInt c s).ceCount = s.ceCount ∧
    (noticeInt c s).side = s.side ∧ (noticeInt c s).sideMem = s.sideMem ∧ (noticeInt c s).partPend = s.partPend ∧
    (noticeInt c s).pushed = s.pushed ∧ (noticeInt c s).lent = s.lent ∧ (noticeInt c s).lintRecs = s.lintRecs ∧
    (noticeInt c s).lintOld = s.lintOld ∧ (noticeInt c s).lintFirst = s.lintFirst ∧
    (noticeInt c s).lintPack = s.lintPack ∧ (noticeInt c s).lintNew = s.lintNew ∧
    (noticeInt c s).lintHead = s.lintHead ∧ (noticeInt c s).tgBusy = s.tgBusy ∧
    (noticeInt c s).sensorMiss = s.sensorMiss ∧ (noticeInt c s).tripPend = s.tripPend ∧
    (noticeInt c s).rtrUp = s.rtrUp ∧ (noticeInt c s).hifUp = s.hifUp ∧ (noticeInt c s).memUp = s.memUp ∧
    (noticeInt c s).cmpUp = s.cmpUp ∧ (noticeInt c s).fenceNeed = s.fenceNeed ∧
    (noticeInt c s).fenceGot = s.fenceGot ∧ (noticeInt c s).reportSeq = s.reportSeq ∧
    (noticeInt c s).outcomes = s.outcomes ∧ (noticeInt c s).mirrorGroups = s.mirrorGroups ∧
    (noticeInt c s).ports = s.ports ∧ (noticeInt c s).vcs = s.vcs ∧ (noticeInt c s).injHeld = s.injHeld ∧
    (noticeInt c s).drains = s.drains ∧ (noticeInt c s).bondSeq = s.bondSeq ∧ (noticeInt c s).collIdx = s.collIdx ∧
    (noticeInt c s).sends = s.sends ∧ (noticeInt c s).fenceQ = s.fenceQ ∧ (noticeInt c s).eng = s.eng ∧
    (noticeInt c s).waveT = s.waveT ∧ (noticeInt c s).waveHeld = s.waveHeld ∧ (noticeInt c s).waveDue = s.waveDue ∧
    (noticeInt c s).folded = s.folded ∧ (noticeInt c s).vcore = s.vcore ∧ (noticeInt c s).oppWord = s.oppWord ∧
    (noticeInt c s).oppTarget = s.oppTarget ∧ (noticeInt c s).oppNext = s.oppNext ∧
    (noticeInt c s).sprint = s.sprint ∧ (noticeInt c s).rampWait = s.rampWait ∧
    (noticeInt c s).rampHard = s.rampHard ∧ (noticeInt c s).droopLow = s.droopLow ∧
    (noticeInt c s).stretched = s.stretched ∧ (noticeInt c s).quiet = s.quiet ∧
    (noticeInt c s).sprintOn = s.sprintOn ∧ (noticeInt c s).sprintLog = s.sprintLog ∧
    (noticeInt c s).sprintRefused = s.sprintRefused ∧ (noticeInt c s).sprintNotice = s.sprintNotice ∧
    (noticeInt c s).cmpCut = s.cmpCut ∧ (noticeInt c s).tjMiss = s.tjMiss ∧ (noticeInt c s).energyUj = s.energyUj ∧
    (noticeInt c s).selfRefresh = s.selfRefresh ∧ (noticeInt c s).rst = s.rst ∧ (noticeInt c s).aon = s.aon ∧
    (noticeInt c s).rstTimes = s.rstTimes ∧ (noticeInt c s).flash = s.flash ∧ (noticeInt c s).bootSel = s.bootSel ∧
    (noticeInt c s).i3c = s.i3c ∧ (noticeInt c s).maddr = s.maddr ∧ (noticeInt c s).tables = s.tables ∧
    (noticeInt c s).rails = s.rails ∧ (noticeInt c s).tripLow = s.tripLow ∧ (noticeInt c s).mgmt = s.mgmt ∧
    (noticeInt c s).lands = s.lands ∧ (noticeInt c s).presCounts = s.presCounts ∧ (noticeInt c s).owner = s.owner ∧
    (noticeInt c s).pufSeed = s.pufSeed ∧ (noticeInt c s).spdm = s.spdm ∧ (noticeInt c s).jtag = s.jtag ∧
    (noticeInt c s).lintRan = s.lintRan ∧ (noticeInt c s).servo = s.servo ∧ (noticeInt c s).cmpAllow = s.cmpAllow ∧
    (noticeInt c s).cmpEntry = s.cmpEntry ∧ (noticeInt c s).cache = s.cache ∧ (noticeInt c s).xbarReqs = s.xbarReqs ∧
    (noticeInt c s).qfullReqs = s.qfullReqs ∧ (noticeInt c s).scrubAt = s.scrubAt ∧ (noticeInt c s).tgRun = s.tgRun ∧
    (noticeInt c s).sideSyn = s.sideSyn ∧ (noticeInt c s).copySyn = s.copySyn ∧
    (noticeInt c s).holdSince = s.holdSince ∧ (noticeInt c s).hemRecs = s.hemRecs ∧
    (noticeInt c s).lastBay = s.lastBay ∧ (noticeInt c s).idleAt = s.idleAt ∧ (noticeInt c s).idleNs = s.idleNs ∧
    (noticeInt c s).steamRun = s.steamRun ∧ (noticeInt c s).lintAt = s.lintAt ∧
    (noticeInt c s).lintTurn = s.lintTurn ∧ (noticeInt c s).lintUsed = s.lintUsed ∧
    (noticeInt c s).lintSince = s.lintSince ∧ (noticeInt c s).lintStart = s.lintStart ∧
    (noticeInt c s).fenceHeld = s.fenceHeld ∧ (noticeInt c s).seamHeld = s.seamHeld ∧
    (noticeInt c s).mirrorEfb = s.mirrorEfb ∧ (noticeInt c s).fetchAt = s.fetchAt ∧
    (noticeInt c s).deferSince = s.deferSince ∧ (noticeInt c s).capSince = s.capSince ∧
    (noticeInt c s).clamps = s.clamps ∧ (noticeInt c s).dbHeld = s.dbHeld ∧ (noticeInt c s).linkAt = s.linkAt ∧
    (noticeInt c s).bondRx = s.bondRx ∧ (noticeInt c s).fillRx = s.fillRx ∧ (noticeInt c s).xbarFrom = s.xbarFrom ∧
    (noticeInt c s).qfullFrom = s.qfullFrom ∧ (noticeInt c s).phy = s.phy ∧ (noticeInt c s).bootPins = s.bootPins ∧
    (noticeInt c s).defaults = s.defaults ∧ (noticeInt c s).upOnce = s.upOnce ∧
    (noticeInt c s).coolantSince = s.coolantSince := by
  unfold noticeInt
  dsimp only
  split
  · simp
  · split <;> simp

/-- `writeNotice` changes at most `regs`, `out`, `ctxs`, `host`, `wbWait`, `rings`. -/
@[simp] theorem writeNotice_fields (c a : Nat) (ws : List Word) (s : State) :
    (writeNotice c a ws s).pending = s.pending ∧ (writeNotice c a ws s).force = s.force ∧
    (writeNotice c a ws s).mem = s.mem ∧ (writeNotice c a ws s).syn = s.syn ∧ (writeNotice c a ws s).bob = s.bob ∧
    (writeNotice c a ws s).free = s.free ∧ (writeNotice c a ws s).ctrs = s.ctrs ∧
    (writeNotice c a ws s).inflight = s.inflight ∧ (writeNotice c a ws s).holder = s.holder ∧
    (writeNotice c a ws s).heldSince = s.heldSince ∧ (writeNotice c a ws s).mbWait = s.mbWait ∧
    (writeNotice c a ws s).steps = s.steps ∧ (writeNotice c a ws s).stoppedShown = s.stoppedShown ∧
    (writeNotice c a ws s).lastDisc = s.lastDisc ∧ (writeNotice c a ws s).upds = s.upds ∧
    (writeNotice c a ws s).winHold = s.winHold ∧ (writeNotice c a ws s).heldReads = s.heldReads ∧
    (writeNotice c a ws s).ownBad = s.ownBad ∧ (writeNotice c a ws s).kept = s.kept ∧
    (writeNotice c a ws s).verifies = s.verifies ∧ (writeNotice c a ws s).readys = s.readys ∧
    (writeNotice c a ws s).groups = s.groups ∧ (writeNotice c a ws s).mcValid = s.mcValid ∧
    (writeNotice c a ws s).seamTx = s.seamTx ∧ (writeNotice c a ws s).seamRx = s.seamRx ∧
    (writeNotice c a ws s).seamWait = s.seamWait ∧ (writeNotice c a ws s).xfer = s.xfer ∧
    (writeNotice c a ws s).loadRx = s.loadRx ∧ (writeNotice c a ws s).press = s.press ∧
    (writeNotice c a ws s).ckptNow = s.ckptNow ∧ (writeNotice c a ws s).ckptLast = s.ckptLast ∧
    (writeNotice c a ws s).drain = s.drain ∧ (writeNotice c a ws s).ckptRx = s.ckptRx ∧
    (writeNotice c a ws s).restore = s.restore ∧ (writeNotice c a ws s).ceCount = s.ceCount ∧
    (writeNotice c a ws s).side = s.side ∧ (writeNotice c a ws s).sideMem = s.sideMem ∧
    (writeNotice c a ws s).partPend = s.partPend ∧ (writeNotice c a ws s).pushed = s.pushed ∧
    (writeNotice c a ws s).lent = s.lent ∧ (writeNotice c a ws s).lintRecs = s.lintRecs ∧
    (writeNotice c a ws s).lintOld = s.lintOld ∧ (writeNotice c a ws s).lintFirst = s.lintFirst ∧
    (writeNotice c a ws s).lintPack = s.lintPack ∧ (writeNotice c a ws s).lintNew = s.lintNew ∧
    (writeNotice c a ws s).lintHead = s.lintHead ∧ (writeNotice c a ws s).tgBusy = s.tgBusy ∧
    (writeNotice c a ws s).sensorMiss = s.sensorMiss ∧ (writeNotice c a ws s).tripPend = s.tripPend ∧
    (writeNotice c a ws s).rtrUp = s.rtrUp ∧ (writeNotice c a ws s).hifUp = s.hifUp ∧
    (writeNotice c a ws s).memUp = s.memUp ∧ (writeNotice c a ws s).cmpUp = s.cmpUp ∧
    (writeNotice c a ws s).fenceNeed = s.fenceNeed ∧ (writeNotice c a ws s).fenceGot = s.fenceGot ∧
    (writeNotice c a ws s).reportSeq = s.reportSeq ∧ (writeNotice c a ws s).outcomes = s.outcomes ∧
    (writeNotice c a ws s).mirrorGroups = s.mirrorGroups ∧ (writeNotice c a ws s).ports = s.ports ∧
    (writeNotice c a ws s).vcs = s.vcs ∧ (writeNotice c a ws s).injHeld = s.injHeld ∧
    (writeNotice c a ws s).drains = s.drains ∧ (writeNotice c a ws s).bondSeq = s.bondSeq ∧
    (writeNotice c a ws s).collIdx = s.collIdx ∧ (writeNotice c a ws s).sends = s.sends ∧
    (writeNotice c a ws s).fenceQ = s.fenceQ ∧ (writeNotice c a ws s).eng = s.eng ∧
    (writeNotice c a ws s).waveT = s.waveT ∧ (writeNotice c a ws s).waveHeld = s.waveHeld ∧
    (writeNotice c a ws s).waveDue = s.waveDue ∧ (writeNotice c a ws s).folded = s.folded ∧
    (writeNotice c a ws s).vcore = s.vcore ∧ (writeNotice c a ws s).oppWord = s.oppWord ∧
    (writeNotice c a ws s).oppTarget = s.oppTarget ∧ (writeNotice c a ws s).oppNext = s.oppNext ∧
    (writeNotice c a ws s).sprint = s.sprint ∧ (writeNotice c a ws s).rampWait = s.rampWait ∧
    (writeNotice c a ws s).rampHard = s.rampHard ∧ (writeNotice c a ws s).droopLow = s.droopLow ∧
    (writeNotice c a ws s).stretched = s.stretched ∧ (writeNotice c a ws s).quiet = s.quiet ∧
    (writeNotice c a ws s).sprintOn = s.sprintOn ∧ (writeNotice c a ws s).sprintLog = s.sprintLog ∧
    (writeNotice c a ws s).sprintRefused = s.sprintRefused ∧ (writeNotice c a ws s).sprintNotice = s.sprintNotice ∧
    (writeNotice c a ws s).cmpCut = s.cmpCut ∧ (writeNotice c a ws s).tjMiss = s.tjMiss ∧
    (writeNotice c a ws s).energyUj = s.energyUj ∧ (writeNotice c a ws s).selfRefresh = s.selfRefresh ∧
    (writeNotice c a ws s).rst = s.rst ∧ (writeNotice c a ws s).aon = s.aon ∧
    (writeNotice c a ws s).rstTimes = s.rstTimes ∧ (writeNotice c a ws s).flash = s.flash ∧
    (writeNotice c a ws s).bootSel = s.bootSel ∧ (writeNotice c a ws s).i3c = s.i3c ∧
    (writeNotice c a ws s).maddr = s.maddr ∧ (writeNotice c a ws s).tables = s.tables ∧
    (writeNotice c a ws s).rails = s.rails ∧ (writeNotice c a ws s).tripLow = s.tripLow ∧
    (writeNotice c a ws s).mgmt = s.mgmt ∧ (writeNotice c a ws s).lands = s.lands ∧
    (writeNotice c a ws s).presCounts = s.presCounts ∧ (writeNotice c a ws s).owner = s.owner ∧
    (writeNotice c a ws s).pufSeed = s.pufSeed ∧ (writeNotice c a ws s).spdm = s.spdm ∧
    (writeNotice c a ws s).jtag = s.jtag ∧ (writeNotice c a ws s).lintRan = s.lintRan ∧
    (writeNotice c a ws s).servo = s.servo ∧ (writeNotice c a ws s).cmpAllow = s.cmpAllow ∧
    (writeNotice c a ws s).cmpEntry = s.cmpEntry ∧ (writeNotice c a ws s).cache = s.cache ∧
    (writeNotice c a ws s).xbarReqs = s.xbarReqs ∧ (writeNotice c a ws s).qfullReqs = s.qfullReqs ∧
    (writeNotice c a ws s).scrubAt = s.scrubAt ∧ (writeNotice c a ws s).tgRun = s.tgRun ∧
    (writeNotice c a ws s).sideSyn = s.sideSyn ∧ (writeNotice c a ws s).copySyn = s.copySyn ∧
    (writeNotice c a ws s).holdSince = s.holdSince ∧ (writeNotice c a ws s).hemRecs = s.hemRecs ∧
    (writeNotice c a ws s).lastBay = s.lastBay ∧ (writeNotice c a ws s).idleAt = s.idleAt ∧
    (writeNotice c a ws s).idleNs = s.idleNs ∧ (writeNotice c a ws s).steamRun = s.steamRun ∧
    (writeNotice c a ws s).lintAt = s.lintAt ∧ (writeNotice c a ws s).lintTurn = s.lintTurn ∧
    (writeNotice c a ws s).lintUsed = s.lintUsed ∧ (writeNotice c a ws s).lintSince = s.lintSince ∧
    (writeNotice c a ws s).lintStart = s.lintStart ∧ (writeNotice c a ws s).fenceHeld = s.fenceHeld ∧
    (writeNotice c a ws s).seamHeld = s.seamHeld ∧ (writeNotice c a ws s).mirrorEfb = s.mirrorEfb ∧
    (writeNotice c a ws s).fetchAt = s.fetchAt ∧ (writeNotice c a ws s).deferSince = s.deferSince ∧
    (writeNotice c a ws s).capSince = s.capSince ∧ (writeNotice c a ws s).clamps = s.clamps ∧
    (writeNotice c a ws s).dbHeld = s.dbHeld ∧ (writeNotice c a ws s).linkAt = s.linkAt ∧
    (writeNotice c a ws s).bondRx = s.bondRx ∧ (writeNotice c a ws s).fillRx = s.fillRx ∧
    (writeNotice c a ws s).xbarFrom = s.xbarFrom ∧ (writeNotice c a ws s).qfullFrom = s.qfullFrom ∧
    (writeNotice c a ws s).phy = s.phy ∧ (writeNotice c a ws s).bootPins = s.bootPins ∧
    (writeNotice c a ws s).defaults = s.defaults ∧ (writeNotice c a ws s).upOnce = s.upOnce ∧
    (writeNotice c a ws s).coolantSince = s.coolantSince := by
  simp [writeNotice]

/-- `postNotice` changes at most `regs`, `out`, `ctxs`, `host`, `wbWait`, `rings`. -/
@[simp] theorem postNotice_fields (c : Nat) (i : NoticeInfo) (s : State) :
    (postNotice c i s).pending = s.pending ∧ (postNotice c i s).force = s.force ∧ (postNotice c i s).mem = s.mem ∧
    (postNotice c i s).syn = s.syn ∧ (postNotice c i s).bob = s.bob ∧ (postNotice c i s).free = s.free ∧
    (postNotice c i s).ctrs = s.ctrs ∧ (postNotice c i s).inflight = s.inflight ∧
    (postNotice c i s).holder = s.holder ∧ (postNotice c i s).heldSince = s.heldSince ∧
    (postNotice c i s).mbWait = s.mbWait ∧ (postNotice c i s).steps = s.steps ∧
    (postNotice c i s).stoppedShown = s.stoppedShown ∧ (postNotice c i s).lastDisc = s.lastDisc ∧
    (postNotice c i s).upds = s.upds ∧ (postNotice c i s).winHold = s.winHold ∧
    (postNotice c i s).heldReads = s.heldReads ∧ (postNotice c i s).ownBad = s.ownBad ∧
    (postNotice c i s).kept = s.kept ∧ (postNotice c i s).verifies = s.verifies ∧
    (postNotice c i s).readys = s.readys ∧ (postNotice c i s).groups = s.groups ∧
    (postNotice c i s).mcValid = s.mcValid ∧ (postNotice c i s).seamTx = s.seamTx ∧
    (postNotice c i s).seamRx = s.seamRx ∧ (postNotice c i s).seamWait = s.seamWait ∧
    (postNotice c i s).xfer = s.xfer ∧ (postNotice c i s).loadRx = s.loadRx ∧ (postNotice c i s).press = s.press ∧
    (postNotice c i s).ckptNow = s.ckptNow ∧ (postNotice c i s).ckptLast = s.ckptLast ∧
    (postNotice c i s).drain = s.drain ∧ (postNotice c i s).ckptRx = s.ckptRx ∧
    (postNotice c i s).restore = s.restore ∧ (postNotice c i s).ceCount = s.ceCount ∧
    (postNotice c i s).side = s.side ∧ (postNotice c i s).sideMem = s.sideMem ∧
    (postNotice c i s).partPend = s.partPend ∧ (postNotice c i s).pushed = s.pushed ∧
    (postNotice c i s).lent = s.lent ∧ (postNotice c i s).lintRecs = s.lintRecs ∧
    (postNotice c i s).lintOld = s.lintOld ∧ (postNotice c i s).lintFirst = s.lintFirst ∧
    (postNotice c i s).lintPack = s.lintPack ∧ (postNotice c i s).lintNew = s.lintNew ∧
    (postNotice c i s).lintHead = s.lintHead ∧ (postNotice c i s).tgBusy = s.tgBusy ∧
    (postNotice c i s).sensorMiss = s.sensorMiss ∧ (postNotice c i s).tripPend = s.tripPend ∧
    (postNotice c i s).rtrUp = s.rtrUp ∧ (postNotice c i s).hifUp = s.hifUp ∧ (postNotice c i s).memUp = s.memUp ∧
    (postNotice c i s).cmpUp = s.cmpUp ∧ (postNotice c i s).fenceNeed = s.fenceNeed ∧
    (postNotice c i s).fenceGot = s.fenceGot ∧ (postNotice c i s).reportSeq = s.reportSeq ∧
    (postNotice c i s).outcomes = s.outcomes ∧ (postNotice c i s).mirrorGroups = s.mirrorGroups ∧
    (postNotice c i s).ports = s.ports ∧ (postNotice c i s).vcs = s.vcs ∧ (postNotice c i s).injHeld = s.injHeld ∧
    (postNotice c i s).drains = s.drains ∧ (postNotice c i s).bondSeq = s.bondSeq ∧
    (postNotice c i s).collIdx = s.collIdx ∧ (postNotice c i s).sends = s.sends ∧
    (postNotice c i s).fenceQ = s.fenceQ ∧ (postNotice c i s).eng = s.eng ∧ (postNotice c i s).waveT = s.waveT ∧
    (postNotice c i s).waveHeld = s.waveHeld ∧ (postNotice c i s).waveDue = s.waveDue ∧
    (postNotice c i s).folded = s.folded ∧ (postNotice c i s).vcore = s.vcore ∧
    (postNotice c i s).oppWord = s.oppWord ∧ (postNotice c i s).oppTarget = s.oppTarget ∧
    (postNotice c i s).oppNext = s.oppNext ∧ (postNotice c i s).sprint = s.sprint ∧
    (postNotice c i s).rampWait = s.rampWait ∧ (postNotice c i s).rampHard = s.rampHard ∧
    (postNotice c i s).droopLow = s.droopLow ∧ (postNotice c i s).stretched = s.stretched ∧
    (postNotice c i s).quiet = s.quiet ∧ (postNotice c i s).sprintOn = s.sprintOn ∧
    (postNotice c i s).sprintLog = s.sprintLog ∧ (postNotice c i s).sprintRefused = s.sprintRefused ∧
    (postNotice c i s).sprintNotice = s.sprintNotice ∧ (postNotice c i s).cmpCut = s.cmpCut ∧
    (postNotice c i s).tjMiss = s.tjMiss ∧ (postNotice c i s).energyUj = s.energyUj ∧
    (postNotice c i s).selfRefresh = s.selfRefresh ∧ (postNotice c i s).rst = s.rst ∧
    (postNotice c i s).aon = s.aon ∧ (postNotice c i s).rstTimes = s.rstTimes ∧ (postNotice c i s).flash = s.flash ∧
    (postNotice c i s).bootSel = s.bootSel ∧ (postNotice c i s).i3c = s.i3c ∧ (postNotice c i s).maddr = s.maddr ∧
    (postNotice c i s).tables = s.tables ∧ (postNotice c i s).rails = s.rails ∧
    (postNotice c i s).tripLow = s.tripLow ∧ (postNotice c i s).mgmt = s.mgmt ∧ (postNotice c i s).lands = s.lands ∧
    (postNotice c i s).presCounts = s.presCounts ∧ (postNotice c i s).owner = s.owner ∧
    (postNotice c i s).pufSeed = s.pufSeed ∧ (postNotice c i s).spdm = s.spdm ∧ (postNotice c i s).jtag = s.jtag ∧
    (postNotice c i s).lintRan = s.lintRan ∧ (postNotice c i s).servo = s.servo ∧
    (postNotice c i s).cmpAllow = s.cmpAllow ∧ (postNotice c i s).cmpEntry = s.cmpEntry ∧
    (postNotice c i s).cache = s.cache ∧ (postNotice c i s).xbarReqs = s.xbarReqs ∧
    (postNotice c i s).qfullReqs = s.qfullReqs ∧ (postNotice c i s).scrubAt = s.scrubAt ∧
    (postNotice c i s).tgRun = s.tgRun ∧ (postNotice c i s).sideSyn = s.sideSyn ∧
    (postNotice c i s).copySyn = s.copySyn ∧ (postNotice c i s).holdSince = s.holdSince ∧
    (postNotice c i s).hemRecs = s.hemRecs ∧ (postNotice c i s).lastBay = s.lastBay ∧
    (postNotice c i s).idleAt = s.idleAt ∧ (postNotice c i s).idleNs = s.idleNs ∧
    (postNotice c i s).steamRun = s.steamRun ∧ (postNotice c i s).lintAt = s.lintAt ∧
    (postNotice c i s).lintTurn = s.lintTurn ∧ (postNotice c i s).lintUsed = s.lintUsed ∧
    (postNotice c i s).lintSince = s.lintSince ∧ (postNotice c i s).lintStart = s.lintStart ∧
    (postNotice c i s).fenceHeld = s.fenceHeld ∧ (postNotice c i s).seamHeld = s.seamHeld ∧
    (postNotice c i s).mirrorEfb = s.mirrorEfb ∧ (postNotice c i s).fetchAt = s.fetchAt ∧
    (postNotice c i s).deferSince = s.deferSince ∧ (postNotice c i s).capSince = s.capSince ∧
    (postNotice c i s).clamps = s.clamps ∧ (postNotice c i s).dbHeld = s.dbHeld ∧
    (postNotice c i s).linkAt = s.linkAt ∧ (postNotice c i s).bondRx = s.bondRx ∧
    (postNotice c i s).fillRx = s.fillRx ∧ (postNotice c i s).xbarFrom = s.xbarFrom ∧
    (postNotice c i s).qfullFrom = s.qfullFrom ∧ (postNotice c i s).phy = s.phy ∧
    (postNotice c i s).bootPins = s.bootPins ∧ (postNotice c i s).defaults = s.defaults ∧
    (postNotice c i s).upOnce = s.upOnce ∧ (postNotice c i s).coolantSince = s.coolantSince := by
  unfold postNotice
  dsimp only
  split
  · simp
  · split <;> simp

/-- `userDone` changes at most `regs`, `out`. -/
@[simp] theorem userDone_fields (n st : Nat) (s : State) :
    (userDone n st s).pending = s.pending ∧ (userDone n st s).force = s.force ∧ (userDone n st s).mem = s.mem ∧
    (userDone n st s).syn = s.syn ∧ (userDone n st s).host = s.host ∧ (userDone n st s).bob = s.bob ∧
    (userDone n st s).free = s.free ∧ (userDone n st s).rings = s.rings ∧ (userDone n st s).ctxs = s.ctxs ∧
    (userDone n st s).ctrs = s.ctrs ∧ (userDone n st s).inflight = s.inflight ∧ (userDone n st s).wbWait = s.wbWait ∧
    (userDone n st s).holder = s.holder ∧ (userDone n st s).heldSince = s.heldSince ∧
    (userDone n st s).mbWait = s.mbWait ∧ (userDone n st s).steps = s.steps ∧
    (userDone n st s).stoppedShown = s.stoppedShown ∧ (userDone n st s).lastDisc = s.lastDisc ∧
    (userDone n st s).upds = s.upds ∧ (userDone n st s).winHold = s.winHold ∧
    (userDone n st s).heldReads = s.heldReads ∧ (userDone n st s).ownBad = s.ownBad ∧
    (userDone n st s).kept = s.kept ∧ (userDone n st s).verifies = s.verifies ∧ (userDone n st s).readys = s.readys ∧
    (userDone n st s).groups = s.groups ∧ (userDone n st s).mcValid = s.mcValid ∧
    (userDone n st s).seamTx = s.seamTx ∧ (userDone n st s).seamRx = s.seamRx ∧
    (userDone n st s).seamWait = s.seamWait ∧ (userDone n st s).xfer = s.xfer ∧ (userDone n st s).loadRx = s.loadRx ∧
    (userDone n st s).press = s.press ∧ (userDone n st s).ckptNow = s.ckptNow ∧
    (userDone n st s).ckptLast = s.ckptLast ∧ (userDone n st s).drain = s.drain ∧
    (userDone n st s).ckptRx = s.ckptRx ∧ (userDone n st s).restore = s.restore ∧
    (userDone n st s).ceCount = s.ceCount ∧ (userDone n st s).side = s.side ∧ (userDone n st s).sideMem = s.sideMem ∧
    (userDone n st s).partPend = s.partPend ∧ (userDone n st s).pushed = s.pushed ∧ (userDone n st s).lent = s.lent ∧
    (userDone n st s).lintRecs = s.lintRecs ∧ (userDone n st s).lintOld = s.lintOld ∧
    (userDone n st s).lintFirst = s.lintFirst ∧ (userDone n st s).lintPack = s.lintPack ∧
    (userDone n st s).lintNew = s.lintNew ∧ (userDone n st s).lintHead = s.lintHead ∧
    (userDone n st s).tgBusy = s.tgBusy ∧ (userDone n st s).sensorMiss = s.sensorMiss ∧
    (userDone n st s).tripPend = s.tripPend ∧ (userDone n st s).rtrUp = s.rtrUp ∧ (userDone n st s).hifUp = s.hifUp ∧
    (userDone n st s).memUp = s.memUp ∧ (userDone n st s).cmpUp = s.cmpUp ∧
    (userDone n st s).fenceNeed = s.fenceNeed ∧ (userDone n st s).fenceGot = s.fenceGot ∧
    (userDone n st s).reportSeq = s.reportSeq ∧ (userDone n st s).outcomes = s.outcomes ∧
    (userDone n st s).mirrorGroups = s.mirrorGroups ∧ (userDone n st s).ports = s.ports ∧
    (userDone n st s).vcs = s.vcs ∧ (userDone n st s).injHeld = s.injHeld ∧ (userDone n st s).drains = s.drains ∧
    (userDone n st s).bondSeq = s.bondSeq ∧ (userDone n st s).collIdx = s.collIdx ∧
    (userDone n st s).sends = s.sends ∧ (userDone n st s).fenceQ = s.fenceQ ∧ (userDone n st s).eng = s.eng ∧
    (userDone n st s).waveT = s.waveT ∧ (userDone n st s).waveHeld = s.waveHeld ∧
    (userDone n st s).waveDue = s.waveDue ∧ (userDone n st s).folded = s.folded ∧ (userDone n st s).vcore = s.vcore ∧
    (userDone n st s).oppWord = s.oppWord ∧ (userDone n st s).oppTarget = s.oppTarget ∧
    (userDone n st s).oppNext = s.oppNext ∧ (userDone n st s).sprint = s.sprint ∧
    (userDone n st s).rampWait = s.rampWait ∧ (userDone n st s).rampHard = s.rampHard ∧
    (userDone n st s).droopLow = s.droopLow ∧ (userDone n st s).stretched = s.stretched ∧
    (userDone n st s).quiet = s.quiet ∧ (userDone n st s).sprintOn = s.sprintOn ∧
    (userDone n st s).sprintLog = s.sprintLog ∧ (userDone n st s).sprintRefused = s.sprintRefused ∧
    (userDone n st s).sprintNotice = s.sprintNotice ∧ (userDone n st s).cmpCut = s.cmpCut ∧
    (userDone n st s).tjMiss = s.tjMiss ∧ (userDone n st s).energyUj = s.energyUj ∧
    (userDone n st s).selfRefresh = s.selfRefresh ∧ (userDone n st s).rst = s.rst ∧ (userDone n st s).aon = s.aon ∧
    (userDone n st s).rstTimes = s.rstTimes ∧ (userDone n st s).flash = s.flash ∧
    (userDone n st s).bootSel = s.bootSel ∧ (userDone n st s).i3c = s.i3c ∧ (userDone n st s).maddr = s.maddr ∧
    (userDone n st s).tables = s.tables ∧ (userDone n st s).rails = s.rails ∧ (userDone n st s).tripLow = s.tripLow ∧
    (userDone n st s).mgmt = s.mgmt ∧ (userDone n st s).lands = s.lands ∧
    (userDone n st s).presCounts = s.presCounts ∧ (userDone n st s).owner = s.owner ∧
    (userDone n st s).pufSeed = s.pufSeed ∧ (userDone n st s).spdm = s.spdm ∧ (userDone n st s).jtag = s.jtag ∧
    (userDone n st s).lintRan = s.lintRan ∧ (userDone n st s).servo = s.servo ∧
    (userDone n st s).cmpAllow = s.cmpAllow ∧ (userDone n st s).cmpEntry = s.cmpEntry ∧
    (userDone n st s).cache = s.cache ∧ (userDone n st s).xbarReqs = s.xbarReqs ∧
    (userDone n st s).qfullReqs = s.qfullReqs ∧ (userDone n st s).scrubAt = s.scrubAt ∧
    (userDone n st s).tgRun = s.tgRun ∧ (userDone n st s).sideSyn = s.sideSyn ∧
    (userDone n st s).copySyn = s.copySyn ∧ (userDone n st s).holdSince = s.holdSince ∧
    (userDone n st s).hemRecs = s.hemRecs ∧ (userDone n st s).lastBay = s.lastBay ∧
    (userDone n st s).idleAt = s.idleAt ∧ (userDone n st s).idleNs = s.idleNs ∧
    (userDone n st s).steamRun = s.steamRun ∧ (userDone n st s).lintAt = s.lintAt ∧
    (userDone n st s).lintTurn = s.lintTurn ∧ (userDone n st s).lintUsed = s.lintUsed ∧
    (userDone n st s).lintSince = s.lintSince ∧ (userDone n st s).lintStart = s.lintStart ∧
    (userDone n st s).fenceHeld = s.fenceHeld ∧ (userDone n st s).seamHeld = s.seamHeld ∧
    (userDone n st s).mirrorEfb = s.mirrorEfb ∧ (userDone n st s).fetchAt = s.fetchAt ∧
    (userDone n st s).deferSince = s.deferSince ∧ (userDone n st s).capSince = s.capSince ∧
    (userDone n st s).clamps = s.clamps ∧ (userDone n st s).dbHeld = s.dbHeld ∧ (userDone n st s).linkAt = s.linkAt ∧
    (userDone n st s).bondRx = s.bondRx ∧ (userDone n st s).fillRx = s.fillRx ∧
    (userDone n st s).xbarFrom = s.xbarFrom ∧ (userDone n st s).qfullFrom = s.qfullFrom ∧
    (userDone n st s).phy = s.phy ∧ (userDone n st s).bootPins = s.bootPins ∧
    (userDone n st s).defaults = s.defaults ∧ (userDone n st s).upOnce = s.upOnce ∧
    (userDone n st s).coolantSince = s.coolantSince := by
  unfold userDone
  dsimp only
  split <;> split <;> simp

/-- `writeBack` changes at most `regs`, `out`, `host`, `wbWait`. -/
@[simp] theorem writeBack_fields (d : Desc) (st k : Nat) (s : State) :
    (writeBack d st k s).pending = s.pending ∧ (writeBack d st k s).force = s.force ∧
    (writeBack d st k s).mem = s.mem ∧ (writeBack d st k s).syn = s.syn ∧ (writeBack d st k s).bob = s.bob ∧
    (writeBack d st k s).free = s.free ∧ (writeBack d st k s).rings = s.rings ∧ (writeBack d st k s).ctxs = s.ctxs ∧
    (writeBack d st k s).ctrs = s.ctrs ∧ (writeBack d st k s).inflight = s.inflight ∧
    (writeBack d st k s).holder = s.holder ∧ (writeBack d st k s).heldSince = s.heldSince ∧
    (writeBack d st k s).mbWait = s.mbWait ∧ (writeBack d st k s).steps = s.steps ∧
    (writeBack d st k s).stoppedShown = s.stoppedShown ∧ (writeBack d st k s).lastDisc = s.lastDisc ∧
    (writeBack d st k s).upds = s.upds ∧ (writeBack d st k s).winHold = s.winHold ∧
    (writeBack d st k s).heldReads = s.heldReads ∧ (writeBack d st k s).ownBad = s.ownBad ∧
    (writeBack d st k s).kept = s.kept ∧ (writeBack d st k s).verifies = s.verifies ∧
    (writeBack d st k s).readys = s.readys ∧ (writeBack d st k s).groups = s.groups ∧
    (writeBack d st k s).mcValid = s.mcValid ∧ (writeBack d st k s).seamTx = s.seamTx ∧
    (writeBack d st k s).seamRx = s.seamRx ∧ (writeBack d st k s).seamWait = s.seamWait ∧
    (writeBack d st k s).xfer = s.xfer ∧ (writeBack d st k s).loadRx = s.loadRx ∧
    (writeBack d st k s).press = s.press ∧ (writeBack d st k s).ckptNow = s.ckptNow ∧
    (writeBack d st k s).ckptLast = s.ckptLast ∧ (writeBack d st k s).drain = s.drain ∧
    (writeBack d st k s).ckptRx = s.ckptRx ∧ (writeBack d st k s).restore = s.restore ∧
    (writeBack d st k s).ceCount = s.ceCount ∧ (writeBack d st k s).side = s.side ∧
    (writeBack d st k s).sideMem = s.sideMem ∧ (writeBack d st k s).partPend = s.partPend ∧
    (writeBack d st k s).pushed = s.pushed ∧ (writeBack d st k s).lent = s.lent ∧
    (writeBack d st k s).lintRecs = s.lintRecs ∧ (writeBack d st k s).lintOld = s.lintOld ∧
    (writeBack d st k s).lintFirst = s.lintFirst ∧ (writeBack d st k s).lintPack = s.lintPack ∧
    (writeBack d st k s).lintNew = s.lintNew ∧ (writeBack d st k s).lintHead = s.lintHead ∧
    (writeBack d st k s).tgBusy = s.tgBusy ∧ (writeBack d st k s).sensorMiss = s.sensorMiss ∧
    (writeBack d st k s).tripPend = s.tripPend ∧ (writeBack d st k s).rtrUp = s.rtrUp ∧
    (writeBack d st k s).hifUp = s.hifUp ∧ (writeBack d st k s).memUp = s.memUp ∧
    (writeBack d st k s).cmpUp = s.cmpUp ∧ (writeBack d st k s).fenceNeed = s.fenceNeed ∧
    (writeBack d st k s).fenceGot = s.fenceGot ∧ (writeBack d st k s).reportSeq = s.reportSeq ∧
    (writeBack d st k s).outcomes = s.outcomes ∧ (writeBack d st k s).mirrorGroups = s.mirrorGroups ∧
    (writeBack d st k s).ports = s.ports ∧ (writeBack d st k s).vcs = s.vcs ∧
    (writeBack d st k s).injHeld = s.injHeld ∧ (writeBack d st k s).drains = s.drains ∧
    (writeBack d st k s).bondSeq = s.bondSeq ∧ (writeBack d st k s).collIdx = s.collIdx ∧
    (writeBack d st k s).sends = s.sends ∧ (writeBack d st k s).fenceQ = s.fenceQ ∧
    (writeBack d st k s).eng = s.eng ∧ (writeBack d st k s).waveT = s.waveT ∧
    (writeBack d st k s).waveHeld = s.waveHeld ∧ (writeBack d st k s).waveDue = s.waveDue ∧
    (writeBack d st k s).folded = s.folded ∧ (writeBack d st k s).vcore = s.vcore ∧
    (writeBack d st k s).oppWord = s.oppWord ∧ (writeBack d st k s).oppTarget = s.oppTarget ∧
    (writeBack d st k s).oppNext = s.oppNext ∧ (writeBack d st k s).sprint = s.sprint ∧
    (writeBack d st k s).rampWait = s.rampWait ∧ (writeBack d st k s).rampHard = s.rampHard ∧
    (writeBack d st k s).droopLow = s.droopLow ∧ (writeBack d st k s).stretched = s.stretched ∧
    (writeBack d st k s).quiet = s.quiet ∧ (writeBack d st k s).sprintOn = s.sprintOn ∧
    (writeBack d st k s).sprintLog = s.sprintLog ∧ (writeBack d st k s).sprintRefused = s.sprintRefused ∧
    (writeBack d st k s).sprintNotice = s.sprintNotice ∧ (writeBack d st k s).cmpCut = s.cmpCut ∧
    (writeBack d st k s).tjMiss = s.tjMiss ∧ (writeBack d st k s).energyUj = s.energyUj ∧
    (writeBack d st k s).selfRefresh = s.selfRefresh ∧ (writeBack d st k s).rst = s.rst ∧
    (writeBack d st k s).aon = s.aon ∧ (writeBack d st k s).rstTimes = s.rstTimes ∧
    (writeBack d st k s).flash = s.flash ∧ (writeBack d st k s).bootSel = s.bootSel ∧
    (writeBack d st k s).i3c = s.i3c ∧ (writeBack d st k s).maddr = s.maddr ∧
    (writeBack d st k s).tables = s.tables ∧ (writeBack d st k s).rails = s.rails ∧
    (writeBack d st k s).tripLow = s.tripLow ∧ (writeBack d st k s).mgmt = s.mgmt ∧
    (writeBack d st k s).lands = s.lands ∧ (writeBack d st k s).presCounts = s.presCounts ∧
    (writeBack d st k s).owner = s.owner ∧ (writeBack d st k s).pufSeed = s.pufSeed ∧
    (writeBack d st k s).spdm = s.spdm ∧ (writeBack d st k s).jtag = s.jtag ∧
    (writeBack d st k s).lintRan = s.lintRan ∧ (writeBack d st k s).servo = s.servo ∧
    (writeBack d st k s).cmpAllow = s.cmpAllow ∧ (writeBack d st k s).cmpEntry = s.cmpEntry ∧
    (writeBack d st k s).cache = s.cache ∧ (writeBack d st k s).xbarReqs = s.xbarReqs ∧
    (writeBack d st k s).qfullReqs = s.qfullReqs ∧ (writeBack d st k s).scrubAt = s.scrubAt ∧
    (writeBack d st k s).tgRun = s.tgRun ∧ (writeBack d st k s).sideSyn = s.sideSyn ∧
    (writeBack d st k s).copySyn = s.copySyn ∧ (writeBack d st k s).holdSince = s.holdSince ∧
    (writeBack d st k s).hemRecs = s.hemRecs ∧ (writeBack d st k s).lastBay = s.lastBay ∧
    (writeBack d st k s).idleAt = s.idleAt ∧ (writeBack d st k s).idleNs = s.idleNs ∧
    (writeBack d st k s).steamRun = s.steamRun ∧ (writeBack d st k s).lintAt = s.lintAt ∧
    (writeBack d st k s).lintTurn = s.lintTurn ∧ (writeBack d st k s).lintUsed = s.lintUsed ∧
    (writeBack d st k s).lintSince = s.lintSince ∧ (writeBack d st k s).lintStart = s.lintStart ∧
    (writeBack d st k s).fenceHeld = s.fenceHeld ∧ (writeBack d st k s).seamHeld = s.seamHeld ∧
    (writeBack d st k s).mirrorEfb = s.mirrorEfb ∧ (writeBack d st k s).fetchAt = s.fetchAt ∧
    (writeBack d st k s).deferSince = s.deferSince ∧ (writeBack d st k s).capSince = s.capSince ∧
    (writeBack d st k s).clamps = s.clamps ∧ (writeBack d st k s).dbHeld = s.dbHeld ∧
    (writeBack d st k s).linkAt = s.linkAt ∧ (writeBack d st k s).bondRx = s.bondRx ∧
    (writeBack d st k s).fillRx = s.fillRx ∧ (writeBack d st k s).xbarFrom = s.xbarFrom ∧
    (writeBack d st k s).qfullFrom = s.qfullFrom ∧ (writeBack d st k s).phy = s.phy ∧
    (writeBack d st k s).bootPins = s.bootPins ∧ (writeBack d st k s).defaults = s.defaults ∧
    (writeBack d st k s).upOnce = s.upOnce ∧ (writeBack d st k s).coolantSince = s.coolantSince := by
  unfold writeBack
  dsimp only
  split <;> simp

/-- `signal` changes at most `ctrs`. -/
@[simp] theorem signal_fields (d : Desc) (s : State) :
    (signal d s).pending = s.pending ∧ (signal d s).regs = s.regs ∧ (signal d s).force = s.force ∧
    (signal d s).mem = s.mem ∧ (signal d s).syn = s.syn ∧ (signal d s).host = s.host ∧ (signal d s).bob = s.bob ∧
    (signal d s).free = s.free ∧ (signal d s).out = s.out ∧ (signal d s).rings = s.rings ∧
    (signal d s).ctxs = s.ctxs ∧ (signal d s).inflight = s.inflight ∧ (signal d s).wbWait = s.wbWait ∧
    (signal d s).holder = s.holder ∧ (signal d s).heldSince = s.heldSince ∧ (signal d s).mbWait = s.mbWait ∧
    (signal d s).steps = s.steps ∧ (signal d s).stoppedShown = s.stoppedShown ∧ (signal d s).lastDisc = s.lastDisc ∧
    (signal d s).upds = s.upds ∧ (signal d s).winHold = s.winHold ∧ (signal d s).heldReads = s.heldReads ∧
    (signal d s).ownBad = s.ownBad ∧ (signal d s).kept = s.kept ∧ (signal d s).verifies = s.verifies ∧
    (signal d s).readys = s.readys ∧ (signal d s).groups = s.groups ∧ (signal d s).mcValid = s.mcValid ∧
    (signal d s).seamTx = s.seamTx ∧ (signal d s).seamRx = s.seamRx ∧ (signal d s).seamWait = s.seamWait ∧
    (signal d s).xfer = s.xfer ∧ (signal d s).loadRx = s.loadRx ∧ (signal d s).press = s.press ∧
    (signal d s).ckptNow = s.ckptNow ∧ (signal d s).ckptLast = s.ckptLast ∧ (signal d s).drain = s.drain ∧
    (signal d s).ckptRx = s.ckptRx ∧ (signal d s).restore = s.restore ∧ (signal d s).ceCount = s.ceCount ∧
    (signal d s).side = s.side ∧ (signal d s).sideMem = s.sideMem ∧ (signal d s).partPend = s.partPend ∧
    (signal d s).pushed = s.pushed ∧ (signal d s).lent = s.lent ∧ (signal d s).lintRecs = s.lintRecs ∧
    (signal d s).lintOld = s.lintOld ∧ (signal d s).lintFirst = s.lintFirst ∧ (signal d s).lintPack = s.lintPack ∧
    (signal d s).lintNew = s.lintNew ∧ (signal d s).lintHead = s.lintHead ∧ (signal d s).tgBusy = s.tgBusy ∧
    (signal d s).sensorMiss = s.sensorMiss ∧ (signal d s).tripPend = s.tripPend ∧ (signal d s).rtrUp = s.rtrUp ∧
    (signal d s).hifUp = s.hifUp ∧ (signal d s).memUp = s.memUp ∧ (signal d s).cmpUp = s.cmpUp ∧
    (signal d s).fenceNeed = s.fenceNeed ∧ (signal d s).fenceGot = s.fenceGot ∧
    (signal d s).reportSeq = s.reportSeq ∧ (signal d s).outcomes = s.outcomes ∧
    (signal d s).mirrorGroups = s.mirrorGroups ∧ (signal d s).ports = s.ports ∧ (signal d s).vcs = s.vcs ∧
    (signal d s).injHeld = s.injHeld ∧ (signal d s).drains = s.drains ∧ (signal d s).bondSeq = s.bondSeq ∧
    (signal d s).collIdx = s.collIdx ∧ (signal d s).sends = s.sends ∧ (signal d s).fenceQ = s.fenceQ ∧
    (signal d s).eng = s.eng ∧ (signal d s).waveT = s.waveT ∧ (signal d s).waveHeld = s.waveHeld ∧
    (signal d s).waveDue = s.waveDue ∧ (signal d s).folded = s.folded ∧ (signal d s).vcore = s.vcore ∧
    (signal d s).oppWord = s.oppWord ∧ (signal d s).oppTarget = s.oppTarget ∧ (signal d s).oppNext = s.oppNext ∧
    (signal d s).sprint = s.sprint ∧ (signal d s).rampWait = s.rampWait ∧ (signal d s).rampHard = s.rampHard ∧
    (signal d s).droopLow = s.droopLow ∧ (signal d s).stretched = s.stretched ∧ (signal d s).quiet = s.quiet ∧
    (signal d s).sprintOn = s.sprintOn ∧ (signal d s).sprintLog = s.sprintLog ∧
    (signal d s).sprintRefused = s.sprintRefused ∧ (signal d s).sprintNotice = s.sprintNotice ∧
    (signal d s).cmpCut = s.cmpCut ∧ (signal d s).tjMiss = s.tjMiss ∧ (signal d s).energyUj = s.energyUj ∧
    (signal d s).selfRefresh = s.selfRefresh ∧ (signal d s).rst = s.rst ∧ (signal d s).aon = s.aon ∧
    (signal d s).rstTimes = s.rstTimes ∧ (signal d s).flash = s.flash ∧ (signal d s).bootSel = s.bootSel ∧
    (signal d s).i3c = s.i3c ∧ (signal d s).maddr = s.maddr ∧ (signal d s).tables = s.tables ∧
    (signal d s).rails = s.rails ∧ (signal d s).tripLow = s.tripLow ∧ (signal d s).mgmt = s.mgmt ∧
    (signal d s).lands = s.lands ∧ (signal d s).presCounts = s.presCounts ∧ (signal d s).owner = s.owner ∧
    (signal d s).pufSeed = s.pufSeed ∧ (signal d s).spdm = s.spdm ∧ (signal d s).jtag = s.jtag ∧
    (signal d s).lintRan = s.lintRan ∧ (signal d s).servo = s.servo ∧ (signal d s).cmpAllow = s.cmpAllow ∧
    (signal d s).cmpEntry = s.cmpEntry ∧ (signal d s).cache = s.cache ∧ (signal d s).xbarReqs = s.xbarReqs ∧
    (signal d s).qfullReqs = s.qfullReqs ∧ (signal d s).scrubAt = s.scrubAt ∧ (signal d s).tgRun = s.tgRun ∧
    (signal d s).sideSyn = s.sideSyn ∧ (signal d s).copySyn = s.copySyn ∧ (signal d s).holdSince = s.holdSince ∧
    (signal d s).hemRecs = s.hemRecs ∧ (signal d s).lastBay = s.lastBay ∧ (signal d s).idleAt = s.idleAt ∧
    (signal d s).idleNs = s.idleNs ∧ (signal d s).steamRun = s.steamRun ∧ (signal d s).lintAt = s.lintAt ∧
    (signal d s).lintTurn = s.lintTurn ∧ (signal d s).lintUsed = s.lintUsed ∧ (signal d s).lintSince = s.lintSince ∧
    (signal d s).lintStart = s.lintStart ∧ (signal d s).fenceHeld = s.fenceHeld ∧
    (signal d s).seamHeld = s.seamHeld ∧ (signal d s).mirrorEfb = s.mirrorEfb ∧ (signal d s).fetchAt = s.fetchAt ∧
    (signal d s).deferSince = s.deferSince ∧ (signal d s).capSince = s.capSince ∧ (signal d s).clamps = s.clamps ∧
    (signal d s).dbHeld = s.dbHeld ∧ (signal d s).linkAt = s.linkAt ∧ (signal d s).bondRx = s.bondRx ∧
    (signal d s).fillRx = s.fillRx ∧ (signal d s).xbarFrom = s.xbarFrom ∧ (signal d s).qfullFrom = s.qfullFrom ∧
    (signal d s).phy = s.phy ∧ (signal d s).bootPins = s.bootPins ∧ (signal d s).defaults = s.defaults ∧
    (signal d s).upOnce = s.upOnce ∧ (signal d s).coolantSince = s.coolantSince := by
  unfold signal
  dsimp only
  split <;> simp

/-- `raiseSev` changes at most `steps`. -/
@[simp] theorem raiseSev_fields (n sev k : Nat) (s : State) :
    (raiseSev n sev k s).pending = s.pending ∧ (raiseSev n sev k s).regs = s.regs ∧
    (raiseSev n sev k s).force = s.force ∧ (raiseSev n sev k s).mem = s.mem ∧ (raiseSev n sev k s).syn = s.syn ∧
    (raiseSev n sev k s).host = s.host ∧ (raiseSev n sev k s).bob = s.bob ∧ (raiseSev n sev k s).free = s.free ∧
    (raiseSev n sev k s).out = s.out ∧ (raiseSev n sev k s).rings = s.rings ∧ (raiseSev n sev k s).ctxs = s.ctxs ∧
    (raiseSev n sev k s).ctrs = s.ctrs ∧ (raiseSev n sev k s).inflight = s.inflight ∧
    (raiseSev n sev k s).wbWait = s.wbWait ∧ (raiseSev n sev k s).holder = s.holder ∧
    (raiseSev n sev k s).heldSince = s.heldSince ∧ (raiseSev n sev k s).mbWait = s.mbWait ∧
    (raiseSev n sev k s).stoppedShown = s.stoppedShown ∧ (raiseSev n sev k s).lastDisc = s.lastDisc ∧
    (raiseSev n sev k s).upds = s.upds ∧ (raiseSev n sev k s).winHold = s.winHold ∧
    (raiseSev n sev k s).heldReads = s.heldReads ∧ (raiseSev n sev k s).ownBad = s.ownBad ∧
    (raiseSev n sev k s).kept = s.kept ∧ (raiseSev n sev k s).verifies = s.verifies ∧
    (raiseSev n sev k s).readys = s.readys ∧ (raiseSev n sev k s).groups = s.groups ∧
    (raiseSev n sev k s).mcValid = s.mcValid ∧ (raiseSev n sev k s).seamTx = s.seamTx ∧
    (raiseSev n sev k s).seamRx = s.seamRx ∧ (raiseSev n sev k s).seamWait = s.seamWait ∧
    (raiseSev n sev k s).xfer = s.xfer ∧ (raiseSev n sev k s).loadRx = s.loadRx ∧
    (raiseSev n sev k s).press = s.press ∧ (raiseSev n sev k s).ckptNow = s.ckptNow ∧
    (raiseSev n sev k s).ckptLast = s.ckptLast ∧ (raiseSev n sev k s).drain = s.drain ∧
    (raiseSev n sev k s).ckptRx = s.ckptRx ∧ (raiseSev n sev k s).restore = s.restore ∧
    (raiseSev n sev k s).ceCount = s.ceCount ∧ (raiseSev n sev k s).side = s.side ∧
    (raiseSev n sev k s).sideMem = s.sideMem ∧ (raiseSev n sev k s).partPend = s.partPend ∧
    (raiseSev n sev k s).pushed = s.pushed ∧ (raiseSev n sev k s).lent = s.lent ∧
    (raiseSev n sev k s).lintRecs = s.lintRecs ∧ (raiseSev n sev k s).lintOld = s.lintOld ∧
    (raiseSev n sev k s).lintFirst = s.lintFirst ∧ (raiseSev n sev k s).lintPack = s.lintPack ∧
    (raiseSev n sev k s).lintNew = s.lintNew ∧ (raiseSev n sev k s).lintHead = s.lintHead ∧
    (raiseSev n sev k s).tgBusy = s.tgBusy ∧ (raiseSev n sev k s).sensorMiss = s.sensorMiss ∧
    (raiseSev n sev k s).tripPend = s.tripPend ∧ (raiseSev n sev k s).rtrUp = s.rtrUp ∧
    (raiseSev n sev k s).hifUp = s.hifUp ∧ (raiseSev n sev k s).memUp = s.memUp ∧
    (raiseSev n sev k s).cmpUp = s.cmpUp ∧ (raiseSev n sev k s).fenceNeed = s.fenceNeed ∧
    (raiseSev n sev k s).fenceGot = s.fenceGot ∧ (raiseSev n sev k s).reportSeq = s.reportSeq ∧
    (raiseSev n sev k s).outcomes = s.outcomes ∧ (raiseSev n sev k s).mirrorGroups = s.mirrorGroups ∧
    (raiseSev n sev k s).ports = s.ports ∧ (raiseSev n sev k s).vcs = s.vcs ∧
    (raiseSev n sev k s).injHeld = s.injHeld ∧ (raiseSev n sev k s).drains = s.drains ∧
    (raiseSev n sev k s).bondSeq = s.bondSeq ∧ (raiseSev n sev k s).collIdx = s.collIdx ∧
    (raiseSev n sev k s).sends = s.sends ∧ (raiseSev n sev k s).fenceQ = s.fenceQ ∧
    (raiseSev n sev k s).eng = s.eng ∧ (raiseSev n sev k s).waveT = s.waveT ∧
    (raiseSev n sev k s).waveHeld = s.waveHeld ∧ (raiseSev n sev k s).waveDue = s.waveDue ∧
    (raiseSev n sev k s).folded = s.folded ∧ (raiseSev n sev k s).vcore = s.vcore ∧
    (raiseSev n sev k s).oppWord = s.oppWord ∧ (raiseSev n sev k s).oppTarget = s.oppTarget ∧
    (raiseSev n sev k s).oppNext = s.oppNext ∧ (raiseSev n sev k s).sprint = s.sprint ∧
    (raiseSev n sev k s).rampWait = s.rampWait ∧ (raiseSev n sev k s).rampHard = s.rampHard ∧
    (raiseSev n sev k s).droopLow = s.droopLow ∧ (raiseSev n sev k s).stretched = s.stretched ∧
    (raiseSev n sev k s).quiet = s.quiet ∧ (raiseSev n sev k s).sprintOn = s.sprintOn ∧
    (raiseSev n sev k s).sprintLog = s.sprintLog ∧ (raiseSev n sev k s).sprintRefused = s.sprintRefused ∧
    (raiseSev n sev k s).sprintNotice = s.sprintNotice ∧ (raiseSev n sev k s).cmpCut = s.cmpCut ∧
    (raiseSev n sev k s).tjMiss = s.tjMiss ∧ (raiseSev n sev k s).energyUj = s.energyUj ∧
    (raiseSev n sev k s).selfRefresh = s.selfRefresh ∧ (raiseSev n sev k s).rst = s.rst ∧
    (raiseSev n sev k s).aon = s.aon ∧ (raiseSev n sev k s).rstTimes = s.rstTimes ∧
    (raiseSev n sev k s).flash = s.flash ∧ (raiseSev n sev k s).bootSel = s.bootSel ∧
    (raiseSev n sev k s).i3c = s.i3c ∧ (raiseSev n sev k s).maddr = s.maddr ∧
    (raiseSev n sev k s).tables = s.tables ∧ (raiseSev n sev k s).rails = s.rails ∧
    (raiseSev n sev k s).tripLow = s.tripLow ∧ (raiseSev n sev k s).mgmt = s.mgmt ∧
    (raiseSev n sev k s).lands = s.lands ∧ (raiseSev n sev k s).presCounts = s.presCounts ∧
    (raiseSev n sev k s).owner = s.owner ∧ (raiseSev n sev k s).pufSeed = s.pufSeed ∧
    (raiseSev n sev k s).spdm = s.spdm ∧ (raiseSev n sev k s).jtag = s.jtag ∧
    (raiseSev n sev k s).lintRan = s.lintRan ∧ (raiseSev n sev k s).servo = s.servo ∧
    (raiseSev n sev k s).cmpAllow = s.cmpAllow ∧ (raiseSev n sev k s).cmpEntry = s.cmpEntry ∧
    (raiseSev n sev k s).cache = s.cache ∧ (raiseSev n sev k s).xbarReqs = s.xbarReqs ∧
    (raiseSev n sev k s).qfullReqs = s.qfullReqs ∧ (raiseSev n sev k s).scrubAt = s.scrubAt ∧
    (raiseSev n sev k s).tgRun = s.tgRun ∧ (raiseSev n sev k s).sideSyn = s.sideSyn ∧
    (raiseSev n sev k s).copySyn = s.copySyn ∧ (raiseSev n sev k s).holdSince = s.holdSince ∧
    (raiseSev n sev k s).hemRecs = s.hemRecs ∧ (raiseSev n sev k s).lastBay = s.lastBay ∧
    (raiseSev n sev k s).idleAt = s.idleAt ∧ (raiseSev n sev k s).idleNs = s.idleNs ∧
    (raiseSev n sev k s).steamRun = s.steamRun ∧ (raiseSev n sev k s).lintAt = s.lintAt ∧
    (raiseSev n sev k s).lintTurn = s.lintTurn ∧ (raiseSev n sev k s).lintUsed = s.lintUsed ∧
    (raiseSev n sev k s).lintSince = s.lintSince ∧ (raiseSev n sev k s).lintStart = s.lintStart ∧
    (raiseSev n sev k s).fenceHeld = s.fenceHeld ∧ (raiseSev n sev k s).seamHeld = s.seamHeld ∧
    (raiseSev n sev k s).mirrorEfb = s.mirrorEfb ∧ (raiseSev n sev k s).fetchAt = s.fetchAt ∧
    (raiseSev n sev k s).deferSince = s.deferSince ∧ (raiseSev n sev k s).capSince = s.capSince ∧
    (raiseSev n sev k s).clamps = s.clamps ∧ (raiseSev n sev k s).dbHeld = s.dbHeld ∧
    (raiseSev n sev k s).linkAt = s.linkAt ∧ (raiseSev n sev k s).bondRx = s.bondRx ∧
    (raiseSev n sev k s).fillRx = s.fillRx ∧ (raiseSev n sev k s).xbarFrom = s.xbarFrom ∧
    (raiseSev n sev k s).qfullFrom = s.qfullFrom ∧ (raiseSev n sev k s).phy = s.phy ∧
    (raiseSev n sev k s).bootPins = s.bootPins ∧ (raiseSev n sev k s).defaults = s.defaults ∧
    (raiseSev n sev k s).upOnce = s.upOnce ∧ (raiseSev n sev k s).coolantSince = s.coolantSince := by
  simp [raiseSev]

/-- `descNotice` changes at most `regs`, `out`, `ctxs`, `host`, `wbWait`, `rings`. -/
@[simp] theorem descNotice_fields (d : Desc) (kind k : Nat) (s : State) :
    (descNotice d kind k s).pending = s.pending ∧ (descNotice d kind k s).force = s.force ∧
    (descNotice d kind k s).mem = s.mem ∧ (descNotice d kind k s).syn = s.syn ∧ (descNotice d kind k s).bob = s.bob ∧
    (descNotice d kind k s).free = s.free ∧ (descNotice d kind k s).ctrs = s.ctrs ∧
    (descNotice d kind k s).inflight = s.inflight ∧ (descNotice d kind k s).holder = s.holder ∧
    (descNotice d kind k s).heldSince = s.heldSince ∧ (descNotice d kind k s).mbWait = s.mbWait ∧
    (descNotice d kind k s).steps = s.steps ∧ (descNotice d kind k s).stoppedShown = s.stoppedShown ∧
    (descNotice d kind k s).lastDisc = s.lastDisc ∧ (descNotice d kind k s).upds = s.upds ∧
    (descNotice d kind k s).winHold = s.winHold ∧ (descNotice d kind k s).heldReads = s.heldReads ∧
    (descNotice d kind k s).ownBad = s.ownBad ∧ (descNotice d kind k s).kept = s.kept ∧
    (descNotice d kind k s).verifies = s.verifies ∧ (descNotice d kind k s).readys = s.readys ∧
    (descNotice d kind k s).groups = s.groups ∧ (descNotice d kind k s).mcValid = s.mcValid ∧
    (descNotice d kind k s).seamTx = s.seamTx ∧ (descNotice d kind k s).seamRx = s.seamRx ∧
    (descNotice d kind k s).seamWait = s.seamWait ∧ (descNotice d kind k s).xfer = s.xfer ∧
    (descNotice d kind k s).loadRx = s.loadRx ∧ (descNotice d kind k s).press = s.press ∧
    (descNotice d kind k s).ckptNow = s.ckptNow ∧ (descNotice d kind k s).ckptLast = s.ckptLast ∧
    (descNotice d kind k s).drain = s.drain ∧ (descNotice d kind k s).ckptRx = s.ckptRx ∧
    (descNotice d kind k s).restore = s.restore ∧ (descNotice d kind k s).ceCount = s.ceCount ∧
    (descNotice d kind k s).side = s.side ∧ (descNotice d kind k s).sideMem = s.sideMem ∧
    (descNotice d kind k s).partPend = s.partPend ∧ (descNotice d kind k s).pushed = s.pushed ∧
    (descNotice d kind k s).lent = s.lent ∧ (descNotice d kind k s).lintRecs = s.lintRecs ∧
    (descNotice d kind k s).lintOld = s.lintOld ∧ (descNotice d kind k s).lintFirst = s.lintFirst ∧
    (descNotice d kind k s).lintPack = s.lintPack ∧ (descNotice d kind k s).lintNew = s.lintNew ∧
    (descNotice d kind k s).lintHead = s.lintHead ∧ (descNotice d kind k s).tgBusy = s.tgBusy ∧
    (descNotice d kind k s).sensorMiss = s.sensorMiss ∧ (descNotice d kind k s).tripPend = s.tripPend ∧
    (descNotice d kind k s).rtrUp = s.rtrUp ∧ (descNotice d kind k s).hifUp = s.hifUp ∧
    (descNotice d kind k s).memUp = s.memUp ∧ (descNotice d kind k s).cmpUp = s.cmpUp ∧
    (descNotice d kind k s).fenceNeed = s.fenceNeed ∧ (descNotice d kind k s).fenceGot = s.fenceGot ∧
    (descNotice d kind k s).reportSeq = s.reportSeq ∧ (descNotice d kind k s).outcomes = s.outcomes ∧
    (descNotice d kind k s).mirrorGroups = s.mirrorGroups ∧ (descNotice d kind k s).ports = s.ports ∧
    (descNotice d kind k s).vcs = s.vcs ∧ (descNotice d kind k s).injHeld = s.injHeld ∧
    (descNotice d kind k s).drains = s.drains ∧ (descNotice d kind k s).bondSeq = s.bondSeq ∧
    (descNotice d kind k s).collIdx = s.collIdx ∧ (descNotice d kind k s).sends = s.sends ∧
    (descNotice d kind k s).fenceQ = s.fenceQ ∧ (descNotice d kind k s).eng = s.eng ∧
    (descNotice d kind k s).waveT = s.waveT ∧ (descNotice d kind k s).waveHeld = s.waveHeld ∧
    (descNotice d kind k s).waveDue = s.waveDue ∧ (descNotice d kind k s).folded = s.folded ∧
    (descNotice d kind k s).vcore = s.vcore ∧ (descNotice d kind k s).oppWord = s.oppWord ∧
    (descNotice d kind k s).oppTarget = s.oppTarget ∧ (descNotice d kind k s).oppNext = s.oppNext ∧
    (descNotice d kind k s).sprint = s.sprint ∧ (descNotice d kind k s).rampWait = s.rampWait ∧
    (descNotice d kind k s).rampHard = s.rampHard ∧ (descNotice d kind k s).droopLow = s.droopLow ∧
    (descNotice d kind k s).stretched = s.stretched ∧ (descNotice d kind k s).quiet = s.quiet ∧
    (descNotice d kind k s).sprintOn = s.sprintOn ∧ (descNotice d kind k s).sprintLog = s.sprintLog ∧
    (descNotice d kind k s).sprintRefused = s.sprintRefused ∧ (descNotice d kind k s).sprintNotice = s.sprintNotice ∧
    (descNotice d kind k s).cmpCut = s.cmpCut ∧ (descNotice d kind k s).tjMiss = s.tjMiss ∧
    (descNotice d kind k s).energyUj = s.energyUj ∧ (descNotice d kind k s).selfRefresh = s.selfRefresh ∧
    (descNotice d kind k s).rst = s.rst ∧ (descNotice d kind k s).aon = s.aon ∧
    (descNotice d kind k s).rstTimes = s.rstTimes ∧ (descNotice d kind k s).flash = s.flash ∧
    (descNotice d kind k s).bootSel = s.bootSel ∧ (descNotice d kind k s).i3c = s.i3c ∧
    (descNotice d kind k s).maddr = s.maddr ∧ (descNotice d kind k s).tables = s.tables ∧
    (descNotice d kind k s).rails = s.rails ∧ (descNotice d kind k s).tripLow = s.tripLow ∧
    (descNotice d kind k s).mgmt = s.mgmt ∧ (descNotice d kind k s).lands = s.lands ∧
    (descNotice d kind k s).presCounts = s.presCounts ∧ (descNotice d kind k s).owner = s.owner ∧
    (descNotice d kind k s).pufSeed = s.pufSeed ∧ (descNotice d kind k s).spdm = s.spdm ∧
    (descNotice d kind k s).jtag = s.jtag ∧ (descNotice d kind k s).lintRan = s.lintRan ∧
    (descNotice d kind k s).servo = s.servo ∧ (descNotice d kind k s).cmpAllow = s.cmpAllow ∧
    (descNotice d kind k s).cmpEntry = s.cmpEntry ∧ (descNotice d kind k s).cache = s.cache ∧
    (descNotice d kind k s).xbarReqs = s.xbarReqs ∧ (descNotice d kind k s).qfullReqs = s.qfullReqs ∧
    (descNotice d kind k s).scrubAt = s.scrubAt ∧ (descNotice d kind k s).tgRun = s.tgRun ∧
    (descNotice d kind k s).sideSyn = s.sideSyn ∧ (descNotice d kind k s).copySyn = s.copySyn ∧
    (descNotice d kind k s).holdSince = s.holdSince ∧ (descNotice d kind k s).hemRecs = s.hemRecs ∧
    (descNotice d kind k s).lastBay = s.lastBay ∧ (descNotice d kind k s).idleAt = s.idleAt ∧
    (descNotice d kind k s).idleNs = s.idleNs ∧ (descNotice d kind k s).steamRun = s.steamRun ∧
    (descNotice d kind k s).lintAt = s.lintAt ∧ (descNotice d kind k s).lintTurn = s.lintTurn ∧
    (descNotice d kind k s).lintUsed = s.lintUsed ∧ (descNotice d kind k s).lintSince = s.lintSince ∧
    (descNotice d kind k s).lintStart = s.lintStart ∧ (descNotice d kind k s).fenceHeld = s.fenceHeld ∧
    (descNotice d kind k s).seamHeld = s.seamHeld ∧ (descNotice d kind k s).mirrorEfb = s.mirrorEfb ∧
    (descNotice d kind k s).fetchAt = s.fetchAt ∧ (descNotice d kind k s).deferSince = s.deferSince ∧
    (descNotice d kind k s).capSince = s.capSince ∧ (descNotice d kind k s).clamps = s.clamps ∧
    (descNotice d kind k s).dbHeld = s.dbHeld ∧ (descNotice d kind k s).linkAt = s.linkAt ∧
    (descNotice d kind k s).bondRx = s.bondRx ∧ (descNotice d kind k s).fillRx = s.fillRx ∧
    (descNotice d kind k s).xbarFrom = s.xbarFrom ∧ (descNotice d kind k s).qfullFrom = s.qfullFrom ∧
    (descNotice d kind k s).phy = s.phy ∧ (descNotice d kind k s).bootPins = s.bootPins ∧
    (descNotice d kind k s).defaults = s.defaults ∧ (descNotice d kind k s).upOnce = s.upOnce ∧
    (descNotice d kind k s).coolantSince = s.coolantSince := by
  simp [descNotice]

/-- `failNotice` changes at most `regs`, `out`, `ctxs`, `host`, `wbWait`, `rings`. -/
@[simp] theorem failNotice_fields (d : Desc) (k p a : Nat) (s : State) :
    (failNotice d k p a s).pending = s.pending ∧ (failNotice d k p a s).force = s.force ∧
    (failNotice d k p a s).mem = s.mem ∧ (failNotice d k p a s).syn = s.syn ∧ (failNotice d k p a s).bob = s.bob ∧
    (failNotice d k p a s).free = s.free ∧ (failNotice d k p a s).ctrs = s.ctrs ∧
    (failNotice d k p a s).inflight = s.inflight ∧ (failNotice d k p a s).holder = s.holder ∧
    (failNotice d k p a s).heldSince = s.heldSince ∧ (failNotice d k p a s).mbWait = s.mbWait ∧
    (failNotice d k p a s).steps = s.steps ∧ (failNotice d k p a s).stoppedShown = s.stoppedShown ∧
    (failNotice d k p a s).lastDisc = s.lastDisc ∧ (failNotice d k p a s).upds = s.upds ∧
    (failNotice d k p a s).winHold = s.winHold ∧ (failNotice d k p a s).heldReads = s.heldReads ∧
    (failNotice d k p a s).ownBad = s.ownBad ∧ (failNotice d k p a s).kept = s.kept ∧
    (failNotice d k p a s).verifies = s.verifies ∧ (failNotice d k p a s).readys = s.readys ∧
    (failNotice d k p a s).groups = s.groups ∧ (failNotice d k p a s).mcValid = s.mcValid ∧
    (failNotice d k p a s).seamTx = s.seamTx ∧ (failNotice d k p a s).seamRx = s.seamRx ∧
    (failNotice d k p a s).seamWait = s.seamWait ∧ (failNotice d k p a s).xfer = s.xfer ∧
    (failNotice d k p a s).loadRx = s.loadRx ∧ (failNotice d k p a s).press = s.press ∧
    (failNotice d k p a s).ckptNow = s.ckptNow ∧ (failNotice d k p a s).ckptLast = s.ckptLast ∧
    (failNotice d k p a s).drain = s.drain ∧ (failNotice d k p a s).ckptRx = s.ckptRx ∧
    (failNotice d k p a s).restore = s.restore ∧ (failNotice d k p a s).ceCount = s.ceCount ∧
    (failNotice d k p a s).side = s.side ∧ (failNotice d k p a s).sideMem = s.sideMem ∧
    (failNotice d k p a s).partPend = s.partPend ∧ (failNotice d k p a s).pushed = s.pushed ∧
    (failNotice d k p a s).lent = s.lent ∧ (failNotice d k p a s).lintRecs = s.lintRecs ∧
    (failNotice d k p a s).lintOld = s.lintOld ∧ (failNotice d k p a s).lintFirst = s.lintFirst ∧
    (failNotice d k p a s).lintPack = s.lintPack ∧ (failNotice d k p a s).lintNew = s.lintNew ∧
    (failNotice d k p a s).lintHead = s.lintHead ∧ (failNotice d k p a s).tgBusy = s.tgBusy ∧
    (failNotice d k p a s).sensorMiss = s.sensorMiss ∧ (failNotice d k p a s).tripPend = s.tripPend ∧
    (failNotice d k p a s).rtrUp = s.rtrUp ∧ (failNotice d k p a s).hifUp = s.hifUp ∧
    (failNotice d k p a s).memUp = s.memUp ∧ (failNotice d k p a s).cmpUp = s.cmpUp ∧
    (failNotice d k p a s).fenceNeed = s.fenceNeed ∧ (failNotice d k p a s).fenceGot = s.fenceGot ∧
    (failNotice d k p a s).reportSeq = s.reportSeq ∧ (failNotice d k p a s).outcomes = s.outcomes ∧
    (failNotice d k p a s).mirrorGroups = s.mirrorGroups ∧ (failNotice d k p a s).ports = s.ports ∧
    (failNotice d k p a s).vcs = s.vcs ∧ (failNotice d k p a s).injHeld = s.injHeld ∧
    (failNotice d k p a s).drains = s.drains ∧ (failNotice d k p a s).bondSeq = s.bondSeq ∧
    (failNotice d k p a s).collIdx = s.collIdx ∧ (failNotice d k p a s).sends = s.sends ∧
    (failNotice d k p a s).fenceQ = s.fenceQ ∧ (failNotice d k p a s).eng = s.eng ∧
    (failNotice d k p a s).waveT = s.waveT ∧ (failNotice d k p a s).waveHeld = s.waveHeld ∧
    (failNotice d k p a s).waveDue = s.waveDue ∧ (failNotice d k p a s).folded = s.folded ∧
    (failNotice d k p a s).vcore = s.vcore ∧ (failNotice d k p a s).oppWord = s.oppWord ∧
    (failNotice d k p a s).oppTarget = s.oppTarget ∧ (failNotice d k p a s).oppNext = s.oppNext ∧
    (failNotice d k p a s).sprint = s.sprint ∧ (failNotice d k p a s).rampWait = s.rampWait ∧
    (failNotice d k p a s).rampHard = s.rampHard ∧ (failNotice d k p a s).droopLow = s.droopLow ∧
    (failNotice d k p a s).stretched = s.stretched ∧ (failNotice d k p a s).quiet = s.quiet ∧
    (failNotice d k p a s).sprintOn = s.sprintOn ∧ (failNotice d k p a s).sprintLog = s.sprintLog ∧
    (failNotice d k p a s).sprintRefused = s.sprintRefused ∧ (failNotice d k p a s).sprintNotice = s.sprintNotice ∧
    (failNotice d k p a s).cmpCut = s.cmpCut ∧ (failNotice d k p a s).tjMiss = s.tjMiss ∧
    (failNotice d k p a s).energyUj = s.energyUj ∧ (failNotice d k p a s).selfRefresh = s.selfRefresh ∧
    (failNotice d k p a s).rst = s.rst ∧ (failNotice d k p a s).aon = s.aon ∧
    (failNotice d k p a s).rstTimes = s.rstTimes ∧ (failNotice d k p a s).flash = s.flash ∧
    (failNotice d k p a s).bootSel = s.bootSel ∧ (failNotice d k p a s).i3c = s.i3c ∧
    (failNotice d k p a s).maddr = s.maddr ∧ (failNotice d k p a s).tables = s.tables ∧
    (failNotice d k p a s).rails = s.rails ∧ (failNotice d k p a s).tripLow = s.tripLow ∧
    (failNotice d k p a s).mgmt = s.mgmt ∧ (failNotice d k p a s).lands = s.lands ∧
    (failNotice d k p a s).presCounts = s.presCounts ∧ (failNotice d k p a s).owner = s.owner ∧
    (failNotice d k p a s).pufSeed = s.pufSeed ∧ (failNotice d k p a s).spdm = s.spdm ∧
    (failNotice d k p a s).jtag = s.jtag ∧ (failNotice d k p a s).lintRan = s.lintRan ∧
    (failNotice d k p a s).servo = s.servo ∧ (failNotice d k p a s).cmpAllow = s.cmpAllow ∧
    (failNotice d k p a s).cmpEntry = s.cmpEntry ∧ (failNotice d k p a s).cache = s.cache ∧
    (failNotice d k p a s).xbarReqs = s.xbarReqs ∧ (failNotice d k p a s).qfullReqs = s.qfullReqs ∧
    (failNotice d k p a s).scrubAt = s.scrubAt ∧ (failNotice d k p a s).tgRun = s.tgRun ∧
    (failNotice d k p a s).sideSyn = s.sideSyn ∧ (failNotice d k p a s).copySyn = s.copySyn ∧
    (failNotice d k p a s).holdSince = s.holdSince ∧ (failNotice d k p a s).hemRecs = s.hemRecs ∧
    (failNotice d k p a s).lastBay = s.lastBay ∧ (failNotice d k p a s).idleAt = s.idleAt ∧
    (failNotice d k p a s).idleNs = s.idleNs ∧ (failNotice d k p a s).steamRun = s.steamRun ∧
    (failNotice d k p a s).lintAt = s.lintAt ∧ (failNotice d k p a s).lintTurn = s.lintTurn ∧
    (failNotice d k p a s).lintUsed = s.lintUsed ∧ (failNotice d k p a s).lintSince = s.lintSince ∧
    (failNotice d k p a s).lintStart = s.lintStart ∧ (failNotice d k p a s).fenceHeld = s.fenceHeld ∧
    (failNotice d k p a s).seamHeld = s.seamHeld ∧ (failNotice d k p a s).mirrorEfb = s.mirrorEfb ∧
    (failNotice d k p a s).fetchAt = s.fetchAt ∧ (failNotice d k p a s).deferSince = s.deferSince ∧
    (failNotice d k p a s).capSince = s.capSince ∧ (failNotice d k p a s).clamps = s.clamps ∧
    (failNotice d k p a s).dbHeld = s.dbHeld ∧ (failNotice d k p a s).linkAt = s.linkAt ∧
    (failNotice d k p a s).bondRx = s.bondRx ∧ (failNotice d k p a s).fillRx = s.fillRx ∧
    (failNotice d k p a s).xbarFrom = s.xbarFrom ∧ (failNotice d k p a s).qfullFrom = s.qfullFrom ∧
    (failNotice d k p a s).phy = s.phy ∧ (failNotice d k p a s).bootPins = s.bootPins ∧
    (failNotice d k p a s).defaults = s.defaults ∧ (failNotice d k p a s).upOnce = s.upOnce ∧
    (failNotice d k p a s).coolantSince = s.coolantSince := by
  simp [failNotice]

/-- `retireSev` changes at most `steps`. -/
@[simp] theorem retireSev_fields (d : Desc) (st k : Nat) (s : State) :
    (retireSev d st k s).pending = s.pending ∧ (retireSev d st k s).regs = s.regs ∧
    (retireSev d st k s).force = s.force ∧ (retireSev d st k s).mem = s.mem ∧ (retireSev d st k s).syn = s.syn ∧
    (retireSev d st k s).host = s.host ∧ (retireSev d st k s).bob = s.bob ∧ (retireSev d st k s).free = s.free ∧
    (retireSev d st k s).out = s.out ∧ (retireSev d st k s).rings = s.rings ∧ (retireSev d st k s).ctxs = s.ctxs ∧
    (retireSev d st k s).ctrs = s.ctrs ∧ (retireSev d st k s).inflight = s.inflight ∧
    (retireSev d st k s).wbWait = s.wbWait ∧ (retireSev d st k s).holder = s.holder ∧
    (retireSev d st k s).heldSince = s.heldSince ∧ (retireSev d st k s).mbWait = s.mbWait ∧
    (retireSev d st k s).stoppedShown = s.stoppedShown ∧ (retireSev d st k s).lastDisc = s.lastDisc ∧
    (retireSev d st k s).upds = s.upds ∧ (retireSev d st k s).winHold = s.winHold ∧
    (retireSev d st k s).heldReads = s.heldReads ∧ (retireSev d st k s).ownBad = s.ownBad ∧
    (retireSev d st k s).kept = s.kept ∧ (retireSev d st k s).verifies = s.verifies ∧
    (retireSev d st k s).readys = s.readys ∧ (retireSev d st k s).groups = s.groups ∧
    (retireSev d st k s).mcValid = s.mcValid ∧ (retireSev d st k s).seamTx = s.seamTx ∧
    (retireSev d st k s).seamRx = s.seamRx ∧ (retireSev d st k s).seamWait = s.seamWait ∧
    (retireSev d st k s).xfer = s.xfer ∧ (retireSev d st k s).loadRx = s.loadRx ∧
    (retireSev d st k s).press = s.press ∧ (retireSev d st k s).ckptNow = s.ckptNow ∧
    (retireSev d st k s).ckptLast = s.ckptLast ∧ (retireSev d st k s).drain = s.drain ∧
    (retireSev d st k s).ckptRx = s.ckptRx ∧ (retireSev d st k s).restore = s.restore ∧
    (retireSev d st k s).ceCount = s.ceCount ∧ (retireSev d st k s).side = s.side ∧
    (retireSev d st k s).sideMem = s.sideMem ∧ (retireSev d st k s).partPend = s.partPend ∧
    (retireSev d st k s).pushed = s.pushed ∧ (retireSev d st k s).lent = s.lent ∧
    (retireSev d st k s).lintRecs = s.lintRecs ∧ (retireSev d st k s).lintOld = s.lintOld ∧
    (retireSev d st k s).lintFirst = s.lintFirst ∧ (retireSev d st k s).lintPack = s.lintPack ∧
    (retireSev d st k s).lintNew = s.lintNew ∧ (retireSev d st k s).lintHead = s.lintHead ∧
    (retireSev d st k s).tgBusy = s.tgBusy ∧ (retireSev d st k s).sensorMiss = s.sensorMiss ∧
    (retireSev d st k s).tripPend = s.tripPend ∧ (retireSev d st k s).rtrUp = s.rtrUp ∧
    (retireSev d st k s).hifUp = s.hifUp ∧ (retireSev d st k s).memUp = s.memUp ∧
    (retireSev d st k s).cmpUp = s.cmpUp ∧ (retireSev d st k s).fenceNeed = s.fenceNeed ∧
    (retireSev d st k s).fenceGot = s.fenceGot ∧ (retireSev d st k s).reportSeq = s.reportSeq ∧
    (retireSev d st k s).outcomes = s.outcomes ∧ (retireSev d st k s).mirrorGroups = s.mirrorGroups ∧
    (retireSev d st k s).ports = s.ports ∧ (retireSev d st k s).vcs = s.vcs ∧
    (retireSev d st k s).injHeld = s.injHeld ∧ (retireSev d st k s).drains = s.drains ∧
    (retireSev d st k s).bondSeq = s.bondSeq ∧ (retireSev d st k s).collIdx = s.collIdx ∧
    (retireSev d st k s).sends = s.sends ∧ (retireSev d st k s).fenceQ = s.fenceQ ∧
    (retireSev d st k s).eng = s.eng ∧ (retireSev d st k s).waveT = s.waveT ∧
    (retireSev d st k s).waveHeld = s.waveHeld ∧ (retireSev d st k s).waveDue = s.waveDue ∧
    (retireSev d st k s).folded = s.folded ∧ (retireSev d st k s).vcore = s.vcore ∧
    (retireSev d st k s).oppWord = s.oppWord ∧ (retireSev d st k s).oppTarget = s.oppTarget ∧
    (retireSev d st k s).oppNext = s.oppNext ∧ (retireSev d st k s).sprint = s.sprint ∧
    (retireSev d st k s).rampWait = s.rampWait ∧ (retireSev d st k s).rampHard = s.rampHard ∧
    (retireSev d st k s).droopLow = s.droopLow ∧ (retireSev d st k s).stretched = s.stretched ∧
    (retireSev d st k s).quiet = s.quiet ∧ (retireSev d st k s).sprintOn = s.sprintOn ∧
    (retireSev d st k s).sprintLog = s.sprintLog ∧ (retireSev d st k s).sprintRefused = s.sprintRefused ∧
    (retireSev d st k s).sprintNotice = s.sprintNotice ∧ (retireSev d st k s).cmpCut = s.cmpCut ∧
    (retireSev d st k s).tjMiss = s.tjMiss ∧ (retireSev d st k s).energyUj = s.energyUj ∧
    (retireSev d st k s).selfRefresh = s.selfRefresh ∧ (retireSev d st k s).rst = s.rst ∧
    (retireSev d st k s).aon = s.aon ∧ (retireSev d st k s).rstTimes = s.rstTimes ∧
    (retireSev d st k s).flash = s.flash ∧ (retireSev d st k s).bootSel = s.bootSel ∧
    (retireSev d st k s).i3c = s.i3c ∧ (retireSev d st k s).maddr = s.maddr ∧
    (retireSev d st k s).tables = s.tables ∧ (retireSev d st k s).rails = s.rails ∧
    (retireSev d st k s).tripLow = s.tripLow ∧ (retireSev d st k s).mgmt = s.mgmt ∧
    (retireSev d st k s).lands = s.lands ∧ (retireSev d st k s).presCounts = s.presCounts ∧
    (retireSev d st k s).owner = s.owner ∧ (retireSev d st k s).pufSeed = s.pufSeed ∧
    (retireSev d st k s).spdm = s.spdm ∧ (retireSev d st k s).jtag = s.jtag ∧
    (retireSev d st k s).lintRan = s.lintRan ∧ (retireSev d st k s).servo = s.servo ∧
    (retireSev d st k s).cmpAllow = s.cmpAllow ∧ (retireSev d st k s).cmpEntry = s.cmpEntry ∧
    (retireSev d st k s).cache = s.cache ∧ (retireSev d st k s).xbarReqs = s.xbarReqs ∧
    (retireSev d st k s).qfullReqs = s.qfullReqs ∧ (retireSev d st k s).scrubAt = s.scrubAt ∧
    (retireSev d st k s).tgRun = s.tgRun ∧ (retireSev d st k s).sideSyn = s.sideSyn ∧
    (retireSev d st k s).copySyn = s.copySyn ∧ (retireSev d st k s).holdSince = s.holdSince ∧
    (retireSev d st k s).hemRecs = s.hemRecs ∧ (retireSev d st k s).lastBay = s.lastBay ∧
    (retireSev d st k s).idleAt = s.idleAt ∧ (retireSev d st k s).idleNs = s.idleNs ∧
    (retireSev d st k s).steamRun = s.steamRun ∧ (retireSev d st k s).lintAt = s.lintAt ∧
    (retireSev d st k s).lintTurn = s.lintTurn ∧ (retireSev d st k s).lintUsed = s.lintUsed ∧
    (retireSev d st k s).lintSince = s.lintSince ∧ (retireSev d st k s).lintStart = s.lintStart ∧
    (retireSev d st k s).fenceHeld = s.fenceHeld ∧ (retireSev d st k s).seamHeld = s.seamHeld ∧
    (retireSev d st k s).mirrorEfb = s.mirrorEfb ∧ (retireSev d st k s).fetchAt = s.fetchAt ∧
    (retireSev d st k s).deferSince = s.deferSince ∧ (retireSev d st k s).capSince = s.capSince ∧
    (retireSev d st k s).clamps = s.clamps ∧ (retireSev d st k s).dbHeld = s.dbHeld ∧
    (retireSev d st k s).linkAt = s.linkAt ∧ (retireSev d st k s).bondRx = s.bondRx ∧
    (retireSev d st k s).fillRx = s.fillRx ∧ (retireSev d st k s).xbarFrom = s.xbarFrom ∧
    (retireSev d st k s).qfullFrom = s.qfullFrom ∧ (retireSev d st k s).phy = s.phy ∧
    (retireSev d st k s).bootPins = s.bootPins ∧ (retireSev d st k s).defaults = s.defaults ∧
    (retireSev d st k s).upOnce = s.upOnce ∧ (retireSev d st k s).coolantSince = s.coolantSince := by
  unfold retireSev
  split
  · split <;> simp
  · simp

/-- `retireBind` changes at most `steps`. -/
@[simp] theorem retireBind_fields (d : Desc) (s : State) :
    (retireBind d s).pending = s.pending ∧ (retireBind d s).regs = s.regs ∧ (retireBind d s).force = s.force ∧
    (retireBind d s).mem = s.mem ∧ (retireBind d s).syn = s.syn ∧ (retireBind d s).host = s.host ∧
    (retireBind d s).bob = s.bob ∧ (retireBind d s).free = s.free ∧ (retireBind d s).out = s.out ∧
    (retireBind d s).rings = s.rings ∧ (retireBind d s).ctxs = s.ctxs ∧ (retireBind d s).ctrs = s.ctrs ∧
    (retireBind d s).inflight = s.inflight ∧ (retireBind d s).wbWait = s.wbWait ∧
    (retireBind d s).holder = s.holder ∧ (retireBind d s).heldSince = s.heldSince ∧
    (retireBind d s).mbWait = s.mbWait ∧ (retireBind d s).stoppedShown = s.stoppedShown ∧
    (retireBind d s).lastDisc = s.lastDisc ∧ (retireBind d s).upds = s.upds ∧ (retireBind d s).winHold = s.winHold ∧
    (retireBind d s).heldReads = s.heldReads ∧ (retireBind d s).ownBad = s.ownBad ∧ (retireBind d s).kept = s.kept ∧
    (retireBind d s).verifies = s.verifies ∧ (retireBind d s).readys = s.readys ∧
    (retireBind d s).groups = s.groups ∧ (retireBind d s).mcValid = s.mcValid ∧ (retireBind d s).seamTx = s.seamTx ∧
    (retireBind d s).seamRx = s.seamRx ∧ (retireBind d s).seamWait = s.seamWait ∧ (retireBind d s).xfer = s.xfer ∧
    (retireBind d s).loadRx = s.loadRx ∧ (retireBind d s).press = s.press ∧ (retireBind d s).ckptNow = s.ckptNow ∧
    (retireBind d s).ckptLast = s.ckptLast ∧ (retireBind d s).drain = s.drain ∧ (retireBind d s).ckptRx = s.ckptRx ∧
    (retireBind d s).restore = s.restore ∧ (retireBind d s).ceCount = s.ceCount ∧ (retireBind d s).side = s.side ∧
    (retireBind d s).sideMem = s.sideMem ∧ (retireBind d s).partPend = s.partPend ∧
    (retireBind d s).pushed = s.pushed ∧ (retireBind d s).lent = s.lent ∧ (retireBind d s).lintRecs = s.lintRecs ∧
    (retireBind d s).lintOld = s.lintOld ∧ (retireBind d s).lintFirst = s.lintFirst ∧
    (retireBind d s).lintPack = s.lintPack ∧ (retireBind d s).lintNew = s.lintNew ∧
    (retireBind d s).lintHead = s.lintHead ∧ (retireBind d s).tgBusy = s.tgBusy ∧
    (retireBind d s).sensorMiss = s.sensorMiss ∧ (retireBind d s).tripPend = s.tripPend ∧
    (retireBind d s).rtrUp = s.rtrUp ∧ (retireBind d s).hifUp = s.hifUp ∧ (retireBind d s).memUp = s.memUp ∧
    (retireBind d s).cmpUp = s.cmpUp ∧ (retireBind d s).fenceNeed = s.fenceNeed ∧
    (retireBind d s).fenceGot = s.fenceGot ∧ (retireBind d s).reportSeq = s.reportSeq ∧
    (retireBind d s).outcomes = s.outcomes ∧ (retireBind d s).mirrorGroups = s.mirrorGroups ∧
    (retireBind d s).ports = s.ports ∧ (retireBind d s).vcs = s.vcs ∧ (retireBind d s).injHeld = s.injHeld ∧
    (retireBind d s).drains = s.drains ∧ (retireBind d s).bondSeq = s.bondSeq ∧
    (retireBind d s).collIdx = s.collIdx ∧ (retireBind d s).sends = s.sends ∧ (retireBind d s).fenceQ = s.fenceQ ∧
    (retireBind d s).eng = s.eng ∧ (retireBind d s).waveT = s.waveT ∧ (retireBind d s).waveHeld = s.waveHeld ∧
    (retireBind d s).waveDue = s.waveDue ∧ (retireBind d s).folded = s.folded ∧ (retireBind d s).vcore = s.vcore ∧
    (retireBind d s).oppWord = s.oppWord ∧ (retireBind d s).oppTarget = s.oppTarget ∧
    (retireBind d s).oppNext = s.oppNext ∧ (retireBind d s).sprint = s.sprint ∧
    (retireBind d s).rampWait = s.rampWait ∧ (retireBind d s).rampHard = s.rampHard ∧
    (retireBind d s).droopLow = s.droopLow ∧ (retireBind d s).stretched = s.stretched ∧
    (retireBind d s).quiet = s.quiet ∧ (retireBind d s).sprintOn = s.sprintOn ∧
    (retireBind d s).sprintLog = s.sprintLog ∧ (retireBind d s).sprintRefused = s.sprintRefused ∧
    (retireBind d s).sprintNotice = s.sprintNotice ∧ (retireBind d s).cmpCut = s.cmpCut ∧
    (retireBind d s).tjMiss = s.tjMiss ∧ (retireBind d s).energyUj = s.energyUj ∧
    (retireBind d s).selfRefresh = s.selfRefresh ∧ (retireBind d s).rst = s.rst ∧ (retireBind d s).aon = s.aon ∧
    (retireBind d s).rstTimes = s.rstTimes ∧ (retireBind d s).flash = s.flash ∧
    (retireBind d s).bootSel = s.bootSel ∧ (retireBind d s).i3c = s.i3c ∧ (retireBind d s).maddr = s.maddr ∧
    (retireBind d s).tables = s.tables ∧ (retireBind d s).rails = s.rails ∧ (retireBind d s).tripLow = s.tripLow ∧
    (retireBind d s).mgmt = s.mgmt ∧ (retireBind d s).lands = s.lands ∧ (retireBind d s).presCounts = s.presCounts ∧
    (retireBind d s).owner = s.owner ∧ (retireBind d s).pufSeed = s.pufSeed ∧ (retireBind d s).spdm = s.spdm ∧
    (retireBind d s).jtag = s.jtag ∧ (retireBind d s).lintRan = s.lintRan ∧ (retireBind d s).servo = s.servo ∧
    (retireBind d s).cmpAllow = s.cmpAllow ∧ (retireBind d s).cmpEntry = s.cmpEntry ∧
    (retireBind d s).cache = s.cache ∧ (retireBind d s).xbarReqs = s.xbarReqs ∧
    (retireBind d s).qfullReqs = s.qfullReqs ∧ (retireBind d s).scrubAt = s.scrubAt ∧
    (retireBind d s).tgRun = s.tgRun ∧ (retireBind d s).sideSyn = s.sideSyn ∧ (retireBind d s).copySyn = s.copySyn ∧
    (retireBind d s).holdSince = s.holdSince ∧ (retireBind d s).hemRecs = s.hemRecs ∧
    (retireBind d s).lastBay = s.lastBay ∧ (retireBind d s).idleAt = s.idleAt ∧ (retireBind d s).idleNs = s.idleNs ∧
    (retireBind d s).steamRun = s.steamRun ∧ (retireBind d s).lintAt = s.lintAt ∧
    (retireBind d s).lintTurn = s.lintTurn ∧ (retireBind d s).lintUsed = s.lintUsed ∧
    (retireBind d s).lintSince = s.lintSince ∧ (retireBind d s).lintStart = s.lintStart ∧
    (retireBind d s).fenceHeld = s.fenceHeld ∧ (retireBind d s).seamHeld = s.seamHeld ∧
    (retireBind d s).mirrorEfb = s.mirrorEfb ∧ (retireBind d s).fetchAt = s.fetchAt ∧
    (retireBind d s).deferSince = s.deferSince ∧ (retireBind d s).capSince = s.capSince ∧
    (retireBind d s).clamps = s.clamps ∧ (retireBind d s).dbHeld = s.dbHeld ∧ (retireBind d s).linkAt = s.linkAt ∧
    (retireBind d s).bondRx = s.bondRx ∧ (retireBind d s).fillRx = s.fillRx ∧
    (retireBind d s).xbarFrom = s.xbarFrom ∧ (retireBind d s).qfullFrom = s.qfullFrom ∧
    (retireBind d s).phy = s.phy ∧ (retireBind d s).bootPins = s.bootPins ∧ (retireBind d s).defaults = s.defaults ∧
    (retireBind d s).upOnce = s.upOnce ∧ (retireBind d s).coolantSince = s.coolantSince := by
  unfold retireBind
  split
  · split <;> simp
  · simp

/-- `retireNotice` changes at most `regs`, `out`, `ctxs`, `host`, `wbWait`, `rings`. -/
@[simp] theorem retireNotice_fields (d : Desc) (st k : Nat) (s : State) :
    (retireNotice d st k s).pending = s.pending ∧ (retireNotice d st k s).force = s.force ∧
    (retireNotice d st k s).mem = s.mem ∧ (retireNotice d st k s).syn = s.syn ∧ (retireNotice d st k s).bob = s.bob ∧
    (retireNotice d st k s).free = s.free ∧ (retireNotice d st k s).ctrs = s.ctrs ∧
    (retireNotice d st k s).inflight = s.inflight ∧ (retireNotice d st k s).holder = s.holder ∧
    (retireNotice d st k s).heldSince = s.heldSince ∧ (retireNotice d st k s).mbWait = s.mbWait ∧
    (retireNotice d st k s).steps = s.steps ∧ (retireNotice d st k s).stoppedShown = s.stoppedShown ∧
    (retireNotice d st k s).lastDisc = s.lastDisc ∧ (retireNotice d st k s).upds = s.upds ∧
    (retireNotice d st k s).winHold = s.winHold ∧ (retireNotice d st k s).heldReads = s.heldReads ∧
    (retireNotice d st k s).ownBad = s.ownBad ∧ (retireNotice d st k s).kept = s.kept ∧
    (retireNotice d st k s).verifies = s.verifies ∧ (retireNotice d st k s).readys = s.readys ∧
    (retireNotice d st k s).groups = s.groups ∧ (retireNotice d st k s).mcValid = s.mcValid ∧
    (retireNotice d st k s).seamTx = s.seamTx ∧ (retireNotice d st k s).seamRx = s.seamRx ∧
    (retireNotice d st k s).seamWait = s.seamWait ∧ (retireNotice d st k s).xfer = s.xfer ∧
    (retireNotice d st k s).loadRx = s.loadRx ∧ (retireNotice d st k s).press = s.press ∧
    (retireNotice d st k s).ckptNow = s.ckptNow ∧ (retireNotice d st k s).ckptLast = s.ckptLast ∧
    (retireNotice d st k s).drain = s.drain ∧ (retireNotice d st k s).ckptRx = s.ckptRx ∧
    (retireNotice d st k s).restore = s.restore ∧ (retireNotice d st k s).ceCount = s.ceCount ∧
    (retireNotice d st k s).side = s.side ∧ (retireNotice d st k s).sideMem = s.sideMem ∧
    (retireNotice d st k s).partPend = s.partPend ∧ (retireNotice d st k s).pushed = s.pushed ∧
    (retireNotice d st k s).lent = s.lent ∧ (retireNotice d st k s).lintRecs = s.lintRecs ∧
    (retireNotice d st k s).lintOld = s.lintOld ∧ (retireNotice d st k s).lintFirst = s.lintFirst ∧
    (retireNotice d st k s).lintPack = s.lintPack ∧ (retireNotice d st k s).lintNew = s.lintNew ∧
    (retireNotice d st k s).lintHead = s.lintHead ∧ (retireNotice d st k s).tgBusy = s.tgBusy ∧
    (retireNotice d st k s).sensorMiss = s.sensorMiss ∧ (retireNotice d st k s).tripPend = s.tripPend ∧
    (retireNotice d st k s).rtrUp = s.rtrUp ∧ (retireNotice d st k s).hifUp = s.hifUp ∧
    (retireNotice d st k s).memUp = s.memUp ∧ (retireNotice d st k s).cmpUp = s.cmpUp ∧
    (retireNotice d st k s).fenceNeed = s.fenceNeed ∧ (retireNotice d st k s).fenceGot = s.fenceGot ∧
    (retireNotice d st k s).reportSeq = s.reportSeq ∧ (retireNotice d st k s).outcomes = s.outcomes ∧
    (retireNotice d st k s).mirrorGroups = s.mirrorGroups ∧ (retireNotice d st k s).ports = s.ports ∧
    (retireNotice d st k s).vcs = s.vcs ∧ (retireNotice d st k s).injHeld = s.injHeld ∧
    (retireNotice d st k s).drains = s.drains ∧ (retireNotice d st k s).bondSeq = s.bondSeq ∧
    (retireNotice d st k s).collIdx = s.collIdx ∧ (retireNotice d st k s).sends = s.sends ∧
    (retireNotice d st k s).fenceQ = s.fenceQ ∧ (retireNotice d st k s).eng = s.eng ∧
    (retireNotice d st k s).waveT = s.waveT ∧ (retireNotice d st k s).waveHeld = s.waveHeld ∧
    (retireNotice d st k s).waveDue = s.waveDue ∧ (retireNotice d st k s).folded = s.folded ∧
    (retireNotice d st k s).vcore = s.vcore ∧ (retireNotice d st k s).oppWord = s.oppWord ∧
    (retireNotice d st k s).oppTarget = s.oppTarget ∧ (retireNotice d st k s).oppNext = s.oppNext ∧
    (retireNotice d st k s).sprint = s.sprint ∧ (retireNotice d st k s).rampWait = s.rampWait ∧
    (retireNotice d st k s).rampHard = s.rampHard ∧ (retireNotice d st k s).droopLow = s.droopLow ∧
    (retireNotice d st k s).stretched = s.stretched ∧ (retireNotice d st k s).quiet = s.quiet ∧
    (retireNotice d st k s).sprintOn = s.sprintOn ∧ (retireNotice d st k s).sprintLog = s.sprintLog ∧
    (retireNotice d st k s).sprintRefused = s.sprintRefused ∧ (retireNotice d st k s).sprintNotice = s.sprintNotice ∧
    (retireNotice d st k s).cmpCut = s.cmpCut ∧ (retireNotice d st k s).tjMiss = s.tjMiss ∧
    (retireNotice d st k s).energyUj = s.energyUj ∧ (retireNotice d st k s).selfRefresh = s.selfRefresh ∧
    (retireNotice d st k s).rst = s.rst ∧ (retireNotice d st k s).aon = s.aon ∧
    (retireNotice d st k s).rstTimes = s.rstTimes ∧ (retireNotice d st k s).flash = s.flash ∧
    (retireNotice d st k s).bootSel = s.bootSel ∧ (retireNotice d st k s).i3c = s.i3c ∧
    (retireNotice d st k s).maddr = s.maddr ∧ (retireNotice d st k s).tables = s.tables ∧
    (retireNotice d st k s).rails = s.rails ∧ (retireNotice d st k s).tripLow = s.tripLow ∧
    (retireNotice d st k s).mgmt = s.mgmt ∧ (retireNotice d st k s).lands = s.lands ∧
    (retireNotice d st k s).presCounts = s.presCounts ∧ (retireNotice d st k s).owner = s.owner ∧
    (retireNotice d st k s).pufSeed = s.pufSeed ∧ (retireNotice d st k s).spdm = s.spdm ∧
    (retireNotice d st k s).jtag = s.jtag ∧ (retireNotice d st k s).lintRan = s.lintRan ∧
    (retireNotice d st k s).servo = s.servo ∧ (retireNotice d st k s).cmpAllow = s.cmpAllow ∧
    (retireNotice d st k s).cmpEntry = s.cmpEntry ∧ (retireNotice d st k s).cache = s.cache ∧
    (retireNotice d st k s).xbarReqs = s.xbarReqs ∧ (retireNotice d st k s).qfullReqs = s.qfullReqs ∧
    (retireNotice d st k s).scrubAt = s.scrubAt ∧ (retireNotice d st k s).tgRun = s.tgRun ∧
    (retireNotice d st k s).sideSyn = s.sideSyn ∧ (retireNotice d st k s).copySyn = s.copySyn ∧
    (retireNotice d st k s).holdSince = s.holdSince ∧ (retireNotice d st k s).hemRecs = s.hemRecs ∧
    (retireNotice d st k s).lastBay = s.lastBay ∧ (retireNotice d st k s).idleAt = s.idleAt ∧
    (retireNotice d st k s).idleNs = s.idleNs ∧ (retireNotice d st k s).steamRun = s.steamRun ∧
    (retireNotice d st k s).lintAt = s.lintAt ∧ (retireNotice d st k s).lintTurn = s.lintTurn ∧
    (retireNotice d st k s).lintUsed = s.lintUsed ∧ (retireNotice d st k s).lintSince = s.lintSince ∧
    (retireNotice d st k s).lintStart = s.lintStart ∧ (retireNotice d st k s).fenceHeld = s.fenceHeld ∧
    (retireNotice d st k s).seamHeld = s.seamHeld ∧ (retireNotice d st k s).mirrorEfb = s.mirrorEfb ∧
    (retireNotice d st k s).fetchAt = s.fetchAt ∧ (retireNotice d st k s).deferSince = s.deferSince ∧
    (retireNotice d st k s).capSince = s.capSince ∧ (retireNotice d st k s).clamps = s.clamps ∧
    (retireNotice d st k s).dbHeld = s.dbHeld ∧ (retireNotice d st k s).linkAt = s.linkAt ∧
    (retireNotice d st k s).bondRx = s.bondRx ∧ (retireNotice d st k s).fillRx = s.fillRx ∧
    (retireNotice d st k s).xbarFrom = s.xbarFrom ∧ (retireNotice d st k s).qfullFrom = s.qfullFrom ∧
    (retireNotice d st k s).phy = s.phy ∧ (retireNotice d st k s).bootPins = s.bootPins ∧
    (retireNotice d st k s).defaults = s.defaults ∧ (retireNotice d st k s).upOnce = s.upOnce ∧
    (retireNotice d st k s).coolantSince = s.coolantSince := by
  unfold retireNotice
  split
  · simp
  · split <;> simp

/-- `retire` changes at most `regs`, `out`, `ctxs`, `host`, `wbWait`, `rings`, `ctrs`, `steps`, `inflight`, `mbWait`. -/
@[simp] theorem retire_fields (d : Desc) (st k : Nat) (s : State) :
    (retire d st k s).pending = s.pending ∧ (retire d st k s).force = s.force ∧ (retire d st k s).mem = s.mem ∧
    (retire d st k s).syn = s.syn ∧ (retire d st k s).bob = s.bob ∧ (retire d st k s).free = s.free ∧
    (retire d st k s).holder = s.holder ∧ (retire d st k s).heldSince = s.heldSince ∧
    (retire d st k s).stoppedShown = s.stoppedShown ∧ (retire d st k s).lastDisc = s.lastDisc ∧
    (retire d st k s).upds = s.upds ∧ (retire d st k s).winHold = s.winHold ∧
    (retire d st k s).heldReads = s.heldReads ∧ (retire d st k s).ownBad = s.ownBad ∧
    (retire d st k s).kept = s.kept ∧ (retire d st k s).verifies = s.verifies ∧ (retire d st k s).readys = s.readys ∧
    (retire d st k s).groups = s.groups ∧ (retire d st k s).mcValid = s.mcValid ∧
    (retire d st k s).seamTx = s.seamTx ∧ (retire d st k s).seamRx = s.seamRx ∧
    (retire d st k s).seamWait = s.seamWait ∧ (retire d st k s).xfer = s.xfer ∧ (retire d st k s).loadRx = s.loadRx ∧
    (retire d st k s).press = s.press ∧ (retire d st k s).ckptNow = s.ckptNow ∧
    (retire d st k s).ckptLast = s.ckptLast ∧ (retire d st k s).drain = s.drain ∧
    (retire d st k s).ckptRx = s.ckptRx ∧ (retire d st k s).restore = s.restore ∧
    (retire d st k s).ceCount = s.ceCount ∧ (retire d st k s).side = s.side ∧ (retire d st k s).sideMem = s.sideMem ∧
    (retire d st k s).partPend = s.partPend ∧ (retire d st k s).pushed = s.pushed ∧ (retire d st k s).lent = s.lent ∧
    (retire d st k s).lintRecs = s.lintRecs ∧ (retire d st k s).lintOld = s.lintOld ∧
    (retire d st k s).lintFirst = s.lintFirst ∧ (retire d st k s).lintPack = s.lintPack ∧
    (retire d st k s).lintNew = s.lintNew ∧ (retire d st k s).lintHead = s.lintHead ∧
    (retire d st k s).tgBusy = s.tgBusy ∧ (retire d st k s).sensorMiss = s.sensorMiss ∧
    (retire d st k s).tripPend = s.tripPend ∧ (retire d st k s).rtrUp = s.rtrUp ∧ (retire d st k s).hifUp = s.hifUp ∧
    (retire d st k s).memUp = s.memUp ∧ (retire d st k s).cmpUp = s.cmpUp ∧
    (retire d st k s).fenceNeed = s.fenceNeed ∧ (retire d st k s).fenceGot = s.fenceGot ∧
    (retire d st k s).reportSeq = s.reportSeq ∧ (retire d st k s).outcomes = s.outcomes ∧
    (retire d st k s).mirrorGroups = s.mirrorGroups ∧ (retire d st k s).ports = s.ports ∧
    (retire d st k s).vcs = s.vcs ∧ (retire d st k s).injHeld = s.injHeld ∧ (retire d st k s).drains = s.drains ∧
    (retire d st k s).bondSeq = s.bondSeq ∧ (retire d st k s).collIdx = s.collIdx ∧
    (retire d st k s).sends = s.sends ∧ (retire d st k s).fenceQ = s.fenceQ ∧ (retire d st k s).eng = s.eng ∧
    (retire d st k s).waveT = s.waveT ∧ (retire d st k s).waveHeld = s.waveHeld ∧
    (retire d st k s).waveDue = s.waveDue ∧ (retire d st k s).folded = s.folded ∧ (retire d st k s).vcore = s.vcore ∧
    (retire d st k s).oppWord = s.oppWord ∧ (retire d st k s).oppTarget = s.oppTarget ∧
    (retire d st k s).oppNext = s.oppNext ∧ (retire d st k s).sprint = s.sprint ∧
    (retire d st k s).rampWait = s.rampWait ∧ (retire d st k s).rampHard = s.rampHard ∧
    (retire d st k s).droopLow = s.droopLow ∧ (retire d st k s).stretched = s.stretched ∧
    (retire d st k s).quiet = s.quiet ∧ (retire d st k s).sprintOn = s.sprintOn ∧
    (retire d st k s).sprintLog = s.sprintLog ∧ (retire d st k s).sprintRefused = s.sprintRefused ∧
    (retire d st k s).sprintNotice = s.sprintNotice ∧ (retire d st k s).cmpCut = s.cmpCut ∧
    (retire d st k s).tjMiss = s.tjMiss ∧ (retire d st k s).energyUj = s.energyUj ∧
    (retire d st k s).selfRefresh = s.selfRefresh ∧ (retire d st k s).rst = s.rst ∧ (retire d st k s).aon = s.aon ∧
    (retire d st k s).rstTimes = s.rstTimes ∧ (retire d st k s).flash = s.flash ∧
    (retire d st k s).bootSel = s.bootSel ∧ (retire d st k s).i3c = s.i3c ∧ (retire d st k s).maddr = s.maddr ∧
    (retire d st k s).tables = s.tables ∧ (retire d st k s).rails = s.rails ∧ (retire d st k s).tripLow = s.tripLow ∧
    (retire d st k s).mgmt = s.mgmt ∧ (retire d st k s).lands = s.lands ∧
    (retire d st k s).presCounts = s.presCounts ∧ (retire d st k s).owner = s.owner ∧
    (retire d st k s).pufSeed = s.pufSeed ∧ (retire d st k s).spdm = s.spdm ∧ (retire d st k s).jtag = s.jtag ∧
    (retire d st k s).lintRan = s.lintRan ∧ (retire d st k s).servo = s.servo ∧
    (retire d st k s).cmpAllow = s.cmpAllow ∧ (retire d st k s).cmpEntry = s.cmpEntry ∧
    (retire d st k s).cache = s.cache ∧ (retire d st k s).xbarReqs = s.xbarReqs ∧
    (retire d st k s).qfullReqs = s.qfullReqs ∧ (retire d st k s).scrubAt = s.scrubAt ∧
    (retire d st k s).tgRun = s.tgRun ∧ (retire d st k s).sideSyn = s.sideSyn ∧
    (retire d st k s).copySyn = s.copySyn ∧ (retire d st k s).holdSince = s.holdSince ∧
    (retire d st k s).hemRecs = s.hemRecs ∧ (retire d st k s).lastBay = s.lastBay ∧
    (retire d st k s).idleAt = s.idleAt ∧ (retire d st k s).idleNs = s.idleNs ∧
    (retire d st k s).steamRun = s.steamRun ∧ (retire d st k s).lintAt = s.lintAt ∧
    (retire d st k s).lintTurn = s.lintTurn ∧ (retire d st k s).lintUsed = s.lintUsed ∧
    (retire d st k s).lintSince = s.lintSince ∧ (retire d st k s).lintStart = s.lintStart ∧
    (retire d st k s).fenceHeld = s.fenceHeld ∧ (retire d st k s).seamHeld = s.seamHeld ∧
    (retire d st k s).mirrorEfb = s.mirrorEfb ∧ (retire d st k s).fetchAt = s.fetchAt ∧
    (retire d st k s).deferSince = s.deferSince ∧ (retire d st k s).capSince = s.capSince ∧
    (retire d st k s).clamps = s.clamps ∧ (retire d st k s).dbHeld = s.dbHeld ∧ (retire d st k s).linkAt = s.linkAt ∧
    (retire d st k s).bondRx = s.bondRx ∧ (retire d st k s).fillRx = s.fillRx ∧
    (retire d st k s).xbarFrom = s.xbarFrom ∧ (retire d st k s).qfullFrom = s.qfullFrom ∧
    (retire d st k s).phy = s.phy ∧ (retire d st k s).bootPins = s.bootPins ∧
    (retire d st k s).defaults = s.defaults ∧ (retire d st k s).upOnce = s.upOnce ∧
    (retire d st k s).coolantSince = s.coolantSince := by
  unfold retire
  dsimp only
  (repeat' split) <;> simp

end Sys2Proof.Machine
end

