-- ==== Sys2Proof/Laws/Canonical.lean ====
section
/-!
SUPPORT. Every named operation over registers and memories keeps the canonical form of the sparse maps: the memory first, then
all maps together. Reset memory has the form.
-/
namespace Sys2Proof.Machine

/-! ### The memory -/

theorem memory_wf_reset : Memory.wf State.reset.mem = true := by decide

theorem memory_wf_memPut (a : Nat) (b : Byte) (s : State) (h : Memory.wf s.mem = true) :
    Memory.wf (memPut a b s).mem = true := smWf_smSet _ _ _ _ h

theorem memory_wf_memWrite (a : Nat) (bs : List Byte) (s : State) (h : Memory.wf s.mem = true) :
    Memory.wf (memWrite a bs s).mem = true := by
  induction bs generalizing a s with
  | nil => exact h
  | cons b bs ih => exact ih _ _ (memory_wf_memPut _ _ _ h)

theorem memory_wf_hostPut (a : Nat) (b : Byte) (s : State) (h : Memory.wf s.host = true) :
    Memory.wf (hostPut a b s).host = true := smWf_smSet _ _ _ _ h

theorem memory_wf_hostPoke (a : Nat) (bs : List Byte) (s : State) (h : Memory.wf s.host = true) :
    Memory.wf (hostPoke a bs s).host = true := by
  induction bs generalizing a s with
  | nil => exact h
  | cons b bs ih => exact ih _ _ (memory_wf_hostPut _ _ _ h)

/-! ### All maps together -/

/-- The canonical form is a fact about nine fields alone. -/
theorem Canonical.congr {s t : State} (h : Canonical s) (h1 : t.regs = s.regs) (h2 : t.force = s.force) (h3 : t.mem = s.mem)
    (h4 : t.syn = s.syn) (h5 : t.host = s.host) (h6 : t.flash = s.flash) (h7 : t.sideMem = s.sideMem)
    (h8 : t.ctrs = s.ctrs) (h9 : t.sideSyn = s.sideSyn) : Canonical t :=
  ⟨h1 ▸ h.regs, h2 ▸ h.force, h3 ▸ h.mem, h4 ▸ h.syn, h5 ▸ h.host, h6 ▸ h.flash, h7 ▸ h.sideMem, h8 ▸ h.ctrs, h9 ▸ h.sideSyn⟩

theorem canonical_set_regs (s : State) (m : List (Nat × Word)) (h : Canonical s) (hm : smWf regReset m = true) :
    Canonical { s with regs := m } := { h with regs := hm }

theorem canonical_set_force (s : State) (m : List (Nat × Word)) (h : Canonical s) (hm : smWf regReset m = true) :
    Canonical { s with force := m } := { h with force := hm }

theorem canonical_set_mem (s : State) (m : List Host.Cell) (h : Canonical s) (hm : smWf memDefault m = true) :
    Canonical { s with mem := m } := { h with mem := hm }

theorem canonical_set_syn (s : State) (m : List (Nat × Nat)) (h : Canonical s) (hm : smWf (fun _ => 0) m = true) :
    Canonical { s with syn := m } := { h with syn := hm }

theorem canonical_set_host (s : State) (m : List Host.Cell) (h : Canonical s) (hm : smWf memDefault m = true) :
    Canonical { s with host := m } := { h with host := hm }

theorem canonical_set_flash (s : State) (m : List Host.Cell) (h : Canonical s) (hm : smWf flashDefault m = true) :
    Canonical { s with flash := m } := { h with flash := hm }

theorem canonical_set_sideMem (s : State) (m : List (Nat × Word)) (h : Canonical s) (hm : smWf (fun _ => (0 : Word)) m = true) :
    Canonical { s with sideMem := m } := { h with sideMem := hm }

theorem canonical_set_ctrs (s : State) (m : List (Nat × Nat)) (h : Canonical s) (hm : smWf (fun _ => 0) m = true) :
    Canonical { s with ctrs := m } := { h with ctrs := hm }

theorem canonical_putReg (a : Nat) (v : Word) (s : State) (h : Canonical s) : Canonical (putReg a v s) :=
  { h with regs := smWf_smSet _ _ _ _ h.regs }

theorem canonical_putForce (a : Nat) (v : Word) (s : State) (h : Canonical s) : Canonical (putForce a v s) :=
  { h with force := smWf_smSet _ _ _ _ h.force }

theorem canonical_put (f : Fld) (x : Nat) (s : State) (h : Canonical s) : Canonical (put f x s) := canonical_putReg _ _ _ h

theorem canonical_bump (f : Fld) (n : Nat) (s : State) (h : Canonical s) : Canonical (bump f n s) := canonical_put _ _ _ h

theorem canonical_emit (m : OutMsg) (s : State) (h : Canonical s) : Canonical (emit m s) := { h with }

theorem canonical_drawFree (s : State) (h : Canonical s) : Canonical (drawFree s).2 := { h with }

theorem canonical_setupError (cause : Nat) (src : Source) (addr : Nat) (s : State) (h : Canonical s) :
    Canonical (setupError cause src addr s) := by
  have hb := canonical_bump F.SETUP_ERR_COUNT 1 s h
  simp only [setupError]
  split
  · exact hb
  · exact canonical_put _ _ _ (canonical_put _ _ _ (canonical_put _ _ _ (canonical_put _ _ _ hb)))

theorem canonical_memPut (a : Nat) (b : Byte) (s : State) (h : Canonical s) : Canonical (memPut a b s) :=
  { h with mem := smWf_smSet _ _ _ _ h.mem }

theorem canonical_memWrite (a : Nat) (bs : List Byte) (s : State) (h : Canonical s) : Canonical (memWrite a bs s) := by
  induction bs generalizing a s with
  | nil => exact h
  | cons b bs ih => exact ih _ _ (canonical_memPut _ _ _ h)

theorem canonical_hostPut (a : Nat) (b : Byte) (s : State) (h : Canonical s) : Canonical (hostPut a b s) :=
  { h with host := smWf_smSet _ _ _ _ h.host }

theorem canonical_hostPoke (a : Nat) (bs : List Byte) (s : State) (h : Canonical s) : Canonical (hostPoke a bs s) := by
  induction bs generalizing a s with
  | nil => exact h
  | cons b bs ih => exact ih _ _ (canonical_hostPut _ _ _ h)

theorem canonical_hostWrite (a : Nat) (bs : List Byte) (s : State) (h : Canonical s) : Canonical (hostWrite a bs s) := by
  unfold hostWrite
  split
  · exact canonical_hostPoke _ _ _ h
  · exact { h with }

theorem canonical_raiseVec (v : Nat) (s : State) (h : Canonical s) : Canonical (raiseVec v s) := by
  unfold raiseVec
  split
  · exact canonical_putReg _ _ _ h
  · exact canonical_emit _ _ h

theorem canonical_synPut (w x : Nat) (s : State) (h : Canonical s) : Canonical (synPut w x s) :=
  { h with syn := smWf_smSet _ _ _ _ h.syn }

theorem canonical_ctrPut (k v : Nat) (s : State) (h : Canonical s) : Canonical (ctrPut k v s) :=
  { h with ctrs := smWf_smSet _ _ _ _ h.ctrs }

/-- Both sides of a choice in the form: the choice too. -/
theorem canonical_ite {s t : State} (c : Prop) [Decidable c] (hs : Canonical s) (ht : Canonical t) :
    Canonical (if c then s else t) := by
  split
  · exact hs
  · exact ht

/-! ### Tack and stores -/

theorem canonical_countCorrection (w : Nat) (s : State) (h : Canonical s) : Canonical (countCorrection w s) := by
  unfold countCorrection
  split
  · exact { canonical_bump F.TACK_CORR_SRAM 1 s h with }
  · exact { canonical_bump F.HBM_CORR 1 s h with }

theorem canonical_latchUnit (path : Nat) (s : State) (h : Canonical s) : Canonical (latchUnit path s) := by
  unfold latchUnit
  exact canonical_ite _ h (canonical_put _ _ _ (canonical_put _ _ _ h))

theorem canonical_countUncorrectable (w : Nat) (s : State) (h : Canonical s) : Canonical (countUncorrectable w s) := by
  have h1 : Canonical (if inSram s w then bump F.TACK_UNCORR_SRAM 1 s else bump F.HBM_UNCORR 1 s) :=
    canonical_ite _ (canonical_bump _ _ _ h) (canonical_bump _ _ _ h)
  simp only [countUncorrectable]
  exact canonical_latchUnit _ _ (canonical_ite _ h1 (canonical_put _ _ _ (canonical_put _ _ _ h1)))

theorem canonical_checkWord (w : Nat) (p : State × List Nat) (h : Canonical p.1) : Canonical (checkWord w p).1 := by
  unfold checkWord
  split
  · exact h
  · exact canonical_countCorrection _ _ (canonical_synPut _ _ _ h)
  · exact canonical_countCorrection _ _ (canonical_synPut _ _ _ (canonical_memPut _ _ _ h))
  · exact canonical_countUncorrectable _ _ h

/-- What every turn of a fold keeps, the fold keeps. -/
theorem canonical_foldl {β : Type} (g : State → β → State) (l : List β) (s : State)
    (hg : ∀ s x, Canonical s → Canonical (g s x)) (h : Canonical s) : Canonical (l.foldl g s) := by
  induction l generalizing s with
  | nil => exact h
  | cons x l ih => exact ih _ (hg _ _ h)

theorem canonical_foldl_fst {β γ : Type} (g : State × γ → β → State × γ) (l : List β) (p : State × γ)
    (hg : ∀ p x, Canonical p.1 → Canonical (g p x).1) (h : Canonical p.1) : Canonical (l.foldl g p).1 := by
  induction l generalizing p with
  | nil => exact h
  | cons x l ih => exact ih _ (hg _ _ h)

theorem canonical_checkWords (touch : Nat → Bool) (s : State) (h : Canonical s) : Canonical (checkWords touch s).1 :=
  canonical_foldl_fst _ _ _ (fun p w hp => canonical_checkWord w p hp) h

theorem canonical_storeBytes (a : Nat) (bs : List Byte) (s : State) (h : Canonical s) : Canonical (storeBytes a bs s).1 := by
  simp only [storeBytes]
  refine canonical_foldl _ _ _ (fun t i ht => ?_) ?_
  · split
    · exact ht
    · exact canonical_memPut _ _ _ ht
  · have hc := canonical_checkWords
      (fun w => inRange a bs.length w && !(a ≤ 8 * w && 8 * w + 8 ≤ a + bs.length)) s h
    exact canonical_set_syn _ _ hc (smWf_smKeep _ _ _ hc.syn)

theorem canonical_store (a : Nat) (bs : List Byte) (s : State) (h : Canonical s) : Canonical (store a bs s) :=
  canonical_storeBytes a bs s h

/-! ### Requests and the cache -/

theorem canonical_writeBackLine (c : CacheLine) (s : State) (h : Canonical s) : Canonical (writeBackLine c s) := by
  unfold writeBackLine
  exact canonical_ite _ (canonical_bump _ _ _ (canonical_bump _ _ _ h)) h

theorem canonical_set_cache (s : State) (m : List CacheLine) (h : Canonical s) : Canonical { s with cache := m } := { h with }

theorem canonical_useLine (l : Nat) (wr : Bool) (s : State) (h : Canonical s) : Canonical (useLine l wr s) := by
  unfold useLine
  split
  · exact h
  · exact canonical_set_cache _ _ h

theorem canonical_allocLine (l : Nat) (fill : Bool) (s : State) (h : Canonical s) : Canonical (allocLine l fill s) := by
  simp only [allocLine]
  refine canonical_set_cache _ _ (canonical_ite _ (canonical_bump _ _ _ ?_) ?_) <;>
  · split
    · exact h
    · exact canonical_ite _ h (canonical_writeBackLine _ _ (canonical_set_cache _ _ h))

theorem canonical_fillCheck (l : Nat) (fs : List (Nat × Nat)) (s : State) (h : Canonical s) :
    Canonical (fillCheck l fs s).2 := canonical_checkWords _ _ h

theorem canonical_accessLine (k : Nat) (alloc wr : Bool) (fs : List (Nat × Nat)) (us : List Nat) (s : State) (l : Nat)
    (h : Canonical s) : Canonical (accessLine k alloc wr fs us s l) := by
  unfold accessLine
  refine canonical_ite _ (canonical_useLine _ _ _ (canonical_bump _ _ _ h)) ?_
  have hm := canonical_bump F.SSTORE_CACHE_MISS 1 s h
  generalize bump F.SSTORE_CACHE_MISS 1 s = t at hm
  have hc : Canonical (if alloc && !cacheChanging t then
      (if !(wr && coversLine fs l) then fillCheck l fs t else (true, t)) else (false, t)).2 := by
    (repeat' split) <;> first | exact canonical_fillCheck _ _ _ hm | exact hm
  exact canonical_ite _ (canonical_useLine _ _ _ (canonical_allocLine _ _ _ hc)) (canonical_bump _ _ _ hc)

theorem canonical_accessAs (k : Nat) (alloc wr : Bool) (fs : List (Nat × Nat)) (s : State) (h : Canonical s) :
    Canonical (accessAs k alloc wr fs s) := by
  have h1 : Canonical (if fs = [] then s
      else { s with xbarReqs := s.xbarReqs + 1, qfullReqs := s.qfullReqs + (hbmUnits fs != []).toNat }) := canonical_ite _ h { h with }
  unfold accessAs
  exact canonical_ite _ h1 (canonical_ite _ (canonical_bump _ _ _ h1)
    (canonical_foldl _ _ _ (fun t l ht => canonical_accessLine _ _ _ _ _ _ l ht) h1))

theorem canonical_access (t : Traffic) (st wr : Bool) (fs : List (Nat × Nat)) (s : State) (h : Canonical s) :
    Canonical (access t st wr fs s) := canonical_accessAs _ _ _ _ _ h

theorem canonical_readRange (t : Traffic) (a n : Nat) (s : State) (h : Canonical s) : Canonical (readRange t a n s).1 :=
  canonical_checkWords _ _ (canonical_access _ _ _ _ _ h)

theorem canonical_writeRange (t : Traffic) (a : Nat) (bs : List Byte) (s : State) (h : Canonical s) :
    Canonical (writeRange t a bs s).1 := canonical_storeBytes _ _ _ (canonical_access _ _ _ _ _ h)

theorem canonical_flushCache (s : State) (h : Canonical s) : Canonical (flushCache s) :=
  canonical_set_cache _ _ (canonical_foldl _ _ _ (fun _ c ht => canonical_writeBackLine c _ ht) h)

theorem canonical_dropLine (c : CacheLine) (s : State) (h : Canonical s) : Canonical (dropLine c s) := by
  unfold dropLine
  refine canonical_ite _ h { h with mem := ?_, syn := ?_ }
  · exact smWf_foldl_smSet _ _ _ (smWf_smKeep _ _ _ h.mem)
  · exact smWf_foldl_smSet _ _ _ (smWf_smKeep _ _ _ h.syn)

theorem canonical_dropCache (s : State) (h : Canonical s) : Canonical (dropCache s) :=
  canonical_set_cache _ _ (canonical_foldl _ _ _ (fun _ c ht => canonical_dropLine c _ ht) h)

theorem canonical_checkCopies (path touch : Nat → Bool) (s : State) (h : Canonical s) :
    Canonical (checkCopies path touch s).1 := by
  refine canonical_foldl_fst _ _ _ (fun p e hp => ?_) { h with }
  dsimp only
  split
  · exact hp
  · exact canonical_latchUnit _ _ (canonical_bump _ _ _ hp)
  · exact { canonical_bump F.TACK_CORR_SRAM 1 _ hp with }

/-! ### Steps, notices and descriptors -/

theorem canonical_setStep (r : StepRec) (s : State) (h : Canonical s) : Canonical (setStep r s) := { h with }

theorem canonical_modStep (n : Nat) (f : StepRec → StepRec) (s : State) (h : Canonical s) : Canonical (modStep n f s) :=
  { h with }

theorem canonical_raiseSev (n sev cause : Nat) (s : State) (h : Canonical s) : Canonical (raiseSev n sev cause s) := { h with }

theorem canonical_setCtxRt (c : Nat) (r : CtxRt) (s : State) (h : Canonical s) : Canonical (setCtxRt c r s) := { h with }

theorem canonical_setRingRt (c r : Nat) (x : RingRt) (s : State) (h : Canonical s) : Canonical (setRingRt c r x s) :=
  { h with }

theorem canonical_setDesc (d : Desc) (s : State) (h : Canonical s) : Canonical (setDesc d s) := { h with }

theorem canonical_noticeInt (c : Nat) (s : State) (h : Canonical s) : Canonical (noticeInt c s) := by
  simp only [noticeInt]
  split
  · exact h
  · split
    · exact canonical_setCtxRt _ _ _ h
    · exact canonical_raiseVec _ _ (canonical_setCtxRt _ _ _ h)

theorem canonical_writeNotice (c a : Nat) (ws : List Word) (s : State) (h : Canonical s) : Canonical (writeNotice c a ws s) :=
  canonical_noticeInt _ _ (canonical_setRingRt _ _ _ _ (canonical_hostWrite _ _ _ (canonical_hostWrite _ _ _ h)))

theorem canonical_postNotice (c : Nat) (i : NoticeInfo) (s : State) (h : Canonical s) : Canonical (postNotice c i s) := by
  simp only [postNotice]
  split
  · exact canonical_writeNotice _ _ _ _ (canonical_setCtxRt _ _ _ h)
  · split
    · exact canonical_setCtxRt _ _ _ (canonical_setCtxRt _ _ _ h)
    · exact canonical_bump _ _ _ (canonical_setCtxRt _ _ _ h)

theorem canonical_flushNotices (c n : Nat) (s : State) (h : Canonical s) : Canonical (flushNotices c n s) := by
  induction n generalizing s with
  | zero => exact h
  | succ n ih =>
    simp only [flushNotices]
    split
    · exact ih _ (canonical_writeNotice _ _ _ _ (canonical_setCtxRt _ _ _ h))
    · exact h

theorem canonical_stepNotice (r : StepRec) (i : NoticeInfo) (s : State) (h : Canonical s) : Canonical (stepNotice r i s) :=
  canonical_postNotice _ _ _ h

theorem canonical_checkError (c sev cause path addr : Nat) (s : State) (h : Canonical s) :
    Canonical (checkError c sev cause path addr s) := canonical_postNotice _ _ _ h

theorem canonical_failNotice (d : Desc) (cause path addr : Nat) (s : State) (h : Canonical s) :
    Canonical (failNotice d cause path addr s) := canonical_postNotice _ _ _ h

theorem canonical_descNotice (d : Desc) (kind cause : Nat) (s : State) (h : Canonical s) :
    Canonical (descNotice d kind cause s) := canonical_postNotice _ _ _ h

theorem canonical_failWords (d : Desc) (bad : List Nat) (s : State) (h : Canonical s) : Canonical (failWords d bad s).2 := by
  unfold failWords
  split
  · exact h
  · exact canonical_foldl _ _ _ (fun t w ht => canonical_failNotice _ _ _ _ _ ht) h

theorem canonical_failCopies (d : Desc) (bad : List (Nat × Nat)) (s : State) (h : Canonical s) :
    Canonical (failCopies d bad s).2 := by
  unfold failCopies
  split
  · exact h
  · exact canonical_foldl _ _ _ (fun t w ht => canonical_failNotice _ _ _ _ _ ht) h

theorem canonical_userDone (n status : Nat) (s : State) (h : Canonical s) : Canonical (userDone n status s) := by
  have h1 := canonical_bump (F.DM_DONE_COUNT n) 1 s h
  simp only [userDone]
  generalize bump (F.DM_DONE_COUNT n) 1 s = t at h1 ⊢
  have h2 : Canonical (if status = 1 then t else put (F.DM_STAT_FAILED_SEEN n) 1 t) := by
    split
    · exact h1
    · exact canonical_put _ _ _ h1
  generalize (if status = 1 then t else put (F.DM_STAT_FAILED_SEEN n) 1 t) = u at h2 ⊢
  split
  · exact canonical_raiseVec _ _ h2
  · exact h2

theorem canonical_writeBack (d : Desc) (status cause : Nat) (s : State) (h : Canonical s) :
    Canonical (writeBack d status cause s) := by
  simp only [writeBack]
  split
  · exact canonical_userDone _ _ _ h
  · exact canonical_hostWrite _ _ _ (canonical_hostWrite _ _ _ h)

theorem canonical_signal (d : Desc) (s : State) (h : Canonical s) : Canonical (signal d s) := by
  simp only [signal]
  split
  · exact canonical_ctrPut _ _ _ h
  · exact h

/-! ### Operations of single families -/

theorem canonical_setBits (a w v : Nat) (s : State) (h : Canonical s) : Canonical (setBits a w v s) := by
  simp only [setBits]
  exact canonical_memWrite _ _ _ h

theorem canonical_storeFields (fs : List (Nat × Nat × Nat)) (s : State) (h : Canonical s) :
    Canonical (storeFields fs s).1 := by
  unfold storeFields
  have hr : Canonical (if s.syn = [] then (s, []) else checkWords (fun w =>
      fs.any (fun f => f.1 < 64 * w + 64 && 64 * w < f.1 + f.2.1) && coverOf w fs < 64) s).1 := by
    split
    · exact h
    · exact canonical_checkWords _ _ h
  refine canonical_foldl _ _ _ (fun t i ht => ?_) (canonical_set_syn _ _ hr (smWf_filter _ _ _ hr.syn))
  exact canonical_ite _ ht (canonical_setBits _ _ _ _ ht)

theorem canonical_sideWrite (d : Desc) (sts : List (Nat × Option (FV × FV))) (s : State) (h : Canonical s) :
    Canonical (sideWrite d sts s) := by
  have hm : ∀ (l : List (Nat × Option (FV × FV))) (m : List (Nat × Word)) (g : List (Nat × Word) → Nat × Option (FV × FV) →
      List (Nat × Word)), (∀ m p, smWf (fun _ => (0 : Word)) m = true → smWf (fun _ => (0 : Word)) (g m p) = true) →
      smWf (fun _ => (0 : Word)) m = true → smWf (fun _ => (0 : Word)) (l.foldl g m) = true := by
    intro l
    induction l with
    | nil => exact fun m g _ h => h
    | cons p l ih => exact fun m g hg hm => ih _ _ hg (hg _ _ hm)
  simp only [sideWrite]
  have hk := smWf_smKeep _ _ (fun k => !(sts.filterMap (fun p => if p.2.isNone then none
    else (sideEntry (bitsOf (dWord d 5) 0 15) p.1).map (fun e => 32768 * e.1 + e.2))).contains k) h.sideSyn
  refine { h with sideMem := hm sts _ _ (fun m p hmp => ?_) h.sideMem, sideSyn := hk }
  split
  · exact smWf_smSet _ _ _ _ hmp
  · exact hmp

theorem canonical_flashSet (o : Nat) (bs : List Byte) (s : State) (h : Canonical s) : Canonical (flashSet o bs s) := by
  have hm : ∀ (l : List (Nat × Byte)) (m : List Host.Cell), smWf flashDefault m = true →
      smWf flashDefault (l.foldl (fun m p => smSet flashDefault m (o + p.1) p.2) m) = true := by
    intro l
    induction l with
    | nil => exact fun m h => h
    | cons p l ih => exact fun m hm => ih _ (smWf_smSet _ _ _ _ hm)
  exact canonical_set_flash _ _ h (hm _ _ h.flash)

theorem canonical_flashErase (o n : Nat) (s : State) (h : Canonical s) : Canonical (flashErase o n s) :=
  canonical_set_flash _ _ h (smWf_smKeep _ _ _ h.flash)

theorem canonical_flashProgram (o : Nat) (bs : List Byte) (s : State) (h : Canonical s) : Canonical (flashProgram o bs s) :=
  canonical_flashSet _ _ _ h

theorem canonical_resetRegs (p : Nat → Bool) (s : State) (h : Canonical s) : Canonical (resetRegs p s) where
  regs := smWf_smKeep _ _ (fun a => !p a) h.regs
  force := smWf_smKeep _ _ (fun a => !p a) h.force
  mem := h.mem
  syn := h.syn
  host := h.host
  flash := h.flash
  sideMem := h.sideMem
  ctrs := h.ctrs
  sideSyn := h.sideSyn

theorem canonical_cmpStores (s : State) (h : Canonical s) : Canonical (cmpStores s) where
  regs := h.regs
  force := h.force
  mem := smWf_smKeep _ _ (fun a => a < 0xF00000000000) h.mem
  syn := smWf_smKeep _ _ (fun w => w < 0xF00000000000 / 8) h.syn
  host := h.host
  flash := h.flash
  sideMem := rfl
  ctrs := h.ctrs
  sideSyn := rfl

theorem canonical_clearPart (p : Nat) (s : State) (h : Canonical s) : Canonical (clearPart p s) where
  regs := h.regs
  force := h.force
  mem := smWf_smKeep _ _ (fun a => !(0xF00000000000 + p * 0x1000000 ≤ a && a < 0xF00000000000 + p * 0x1000000 + 0x1000000)) h.mem
  syn := smWf_smKeep _ _ (fun w => !((0xF00000000000 + p * 0x1000000) / 8 ≤ w && w < (0xF00000000000 + p * 0x1000000 + 0x1000000) / 8)) h.syn
  host := h.host
  flash := h.flash
  sideMem := h.sideMem
  ctrs := h.ctrs
  sideSyn := h.sideSyn

theorem canonical_clearBank (n : Nat) (s : State) (h : Canonical s) : Canonical (clearBank n s) :=
  canonical_set_ctrs _ _ h (smWf_smKeep _ _ _ h.ctrs)

end Sys2Proof.Machine
end

