-- ==== Sys2Proof/Laws/Frame.lean ====
section
/-!
SUPPORT. What every shared operation of Machine/Ops.lean leaves alone: the waiting commands and the flash.
-/
namespace Sys2Proof.Machine

/-- A fold leaves alone what every turn leaves alone. -/
@[simp] theorem foldl_frame {β : Type} (g : State → β → State) (l : List β) (s : State)
    (h : ∀ s x, (g s x).pending = s.pending ∧ (g s x).flash = s.flash) :
    (l.foldl g s).pending = s.pending ∧ (l.foldl g s).flash = s.flash := by
  induction l generalizing s with
  | nil => exact ⟨rfl, rfl⟩
  | cons x l ih => rw [List.foldl_cons]; exact ⟨(ih _).1.trans (h s x).1, (ih _).2.trans (h s x).2⟩

@[simp] theorem foldl_frame_fst {β γ : Type} (g : State × γ → β → State × γ) (l : List β) (p : State × γ)
    (h : ∀ p x, (g p x).1.pending = p.1.pending ∧ (g p x).1.flash = p.1.flash) :
    (l.foldl g p).1.pending = p.1.pending ∧ (l.foldl g p).1.flash = p.1.flash := by
  induction l generalizing p with
  | nil => exact ⟨rfl, rfl⟩
  | cons x l ih => rw [List.foldl_cons]; exact ⟨(ih _).1.trans (h p x).1, (ih _).2.trans (h p x).2⟩

@[simp] theorem putReg_frame (a : Nat) (v : Word) (s : State) :
    (putReg a v s).pending = s.pending ∧ (putReg a v s).flash = s.flash := by
  simp [putReg]

@[simp] theorem putForce_frame (a : Nat) (v : Word) (s : State) :
    (putForce a v s).pending = s.pending ∧ (putForce a v s).flash = s.flash := by
  simp [putForce]

@[simp] theorem put_frame (f : Fld) (x : Nat) (s : State) :
    (put f x s).pending = s.pending ∧ (put f x s).flash = s.flash := by
  simp [put]

@[simp] theorem bump_frame (f : Fld) (n : Nat) (s : State) :
    (bump f n s).pending = s.pending ∧ (bump f n s).flash = s.flash := by
  simp [bump]

@[simp] theorem emit_frame (m : OutMsg) (s : State) : (emit m s).pending = s.pending ∧ (emit m s).flash = s.flash := by
  simp [emit]

@[simp] theorem drawFree_frame (s : State) : (drawFree s).2.pending = s.pending ∧ (drawFree s).2.flash = s.flash := by
  simp [drawFree]

@[simp] theorem setupError_frame (cause : Nat) (src : Source) (addr : Nat) (s : State) :
    (setupError cause src addr s).pending = s.pending ∧ (setupError cause src addr s).flash = s.flash := by
  unfold setupError; simp only [apply_ite State.pending, apply_ite State.flash]; simp

@[simp] theorem setupRefused_frame (src : Source) (addr : Nat) (s : State) :
    (setupRefused src addr s).pending = s.pending ∧ (setupRefused src addr s).flash = s.flash := by
  simp [setupRefused]

@[simp] theorem memPut_frame (a : Nat) (b : Byte) (s : State) :
    (memPut a b s).pending = s.pending ∧ (memPut a b s).flash = s.flash := by
  simp [memPut]

@[simp] theorem memWrite_frame (a : Nat) (bs : List Byte) (s : State) :
    (memWrite a bs s).pending = s.pending ∧ (memWrite a bs s).flash = s.flash := by
  fun_induction memWrite <;> simp_all

@[simp] theorem hostPut_frame (a : Nat) (b : Byte) (s : State) :
    (hostPut a b s).pending = s.pending ∧ (hostPut a b s).flash = s.flash := by
  simp [hostPut]

@[simp] theorem hostPoke_frame (a : Nat) (bs : List Byte) (s : State) :
    (hostPoke a bs s).pending = s.pending ∧ (hostPoke a bs s).flash = s.flash := by
  fun_induction hostPoke <;> simp_all

@[simp] theorem hostWrite_frame (a : Nat) (bs : List Byte) (s : State) :
    (hostWrite a bs s).pending = s.pending ∧ (hostWrite a bs s).flash = s.flash := by
  unfold hostWrite; (repeat' split) <;> simp

@[simp] theorem raiseVec_frame (v : Nat) (s : State) :
    (raiseVec v s).pending = s.pending ∧ (raiseVec v s).flash = s.flash := by
  unfold raiseVec; (repeat' split) <;> simp

@[simp] theorem byHost_frame (a : Nat) (f : State → State) (s : State)
    (hf : ∀ x, (f x).pending = x.pending ∧ (f x).flash = x.flash) :
    (byHost a f s).pending = s.pending ∧ (byHost a f s).flash = s.flash := by
  unfold byHost; (repeat' split) <;> simp [*]

@[simp] theorem synPut_frame (w : Nat) (syn : Nat) (s : State) :
    (synPut w syn s).pending = s.pending ∧ (synPut w syn s).flash = s.flash := by
  simp [synPut]

@[simp] theorem countCorrection_frame (w : Nat) (s : State) :
    (countCorrection w s).pending = s.pending ∧ (countCorrection w s).flash = s.flash := by
  unfold countCorrection; (repeat' split) <;> simp

@[simp] theorem latchUnit_frame (path : Nat) (s : State) :
    (latchUnit path s).pending = s.pending ∧ (latchUnit path s).flash = s.flash := by
  unfold latchUnit; (repeat' split) <;> simp

@[simp] theorem countUncorrectable_frame (w : Nat) (s : State) :
    (countUncorrectable w s).pending = s.pending ∧ (countUncorrectable w s).flash = s.flash := by
  unfold countUncorrectable; dsimp only; (repeat' split) <;> simp

@[simp] theorem checkWord_frame (w : Nat) (p : State × List Nat) :
    (checkWord w p).1.pending = p.1.pending ∧ (checkWord w p).1.flash = p.1.flash := by
  unfold checkWord; (repeat' split) <;> simp

@[simp] theorem checkWords_frame (touch : Nat → Bool) (s : State) :
    (checkWords touch s).1.pending = s.pending ∧ (checkWords touch s).1.flash = s.flash := by
  simp [checkWords]

@[simp] theorem checkRange_frame (a : Nat) (n : Nat) (s : State) :
    (checkRange a n s).1.pending = s.pending ∧ (checkRange a n s).1.flash = s.flash := by
  simp [checkRange]

@[simp] theorem storeBytes_frame (a : Nat) (bs : List Byte) (s : State) :
    (storeBytes a bs s).1.pending = s.pending ∧ (storeBytes a bs s).1.flash = s.flash := by
  unfold storeBytes; simp [apply_ite State.pending, apply_ite State.flash]

@[simp] theorem store_frame (a : Nat) (bs : List Byte) (s : State) :
    (store a bs s).pending = s.pending ∧ (store a bs s).flash = s.flash := by
  simp [store]

@[simp] theorem writeBackLine_frame (c : CacheLine) (s : State) :
    (writeBackLine c s).pending = s.pending ∧ (writeBackLine c s).flash = s.flash := by
  unfold writeBackLine; (repeat' split) <;> simp

@[simp] theorem useLine_frame (l : Nat) (wr : Bool) (s : State) :
    (useLine l wr s).pending = s.pending ∧ (useLine l wr s).flash = s.flash := by
  unfold useLine; (repeat' split) <;> simp

@[simp] theorem allocLine_frame (l : Nat) (fill : Bool) (s : State) :
    (allocLine l fill s).pending = s.pending ∧ (allocLine l fill s).flash = s.flash := by
  unfold allocLine; dsimp only; (repeat' split) <;> simp

@[simp] theorem fillCheck_frame (l : Nat) (fs : List (Nat × Nat)) (s : State) :
    (fillCheck l fs s).2.pending = s.pending ∧ (fillCheck l fs s).2.flash = s.flash := by
  simp [fillCheck]

@[simp] theorem accessLine_frame (k : Nat) (alloc wr : Bool) (fs : List (Nat × Nat)) (us : List Nat) (s : State) (l : Nat) :
    (accessLine k alloc wr fs us s l).pending = s.pending ∧ (accessLine k alloc wr fs us s l).flash = s.flash := by
  unfold accessLine; dsimp only; (repeat' split) <;> simp

@[simp] theorem accessAs_frame (k : Nat) (alloc wr : Bool) (fs : List (Nat × Nat)) (s : State) :
    (accessAs k alloc wr fs s).pending = s.pending ∧ (accessAs k alloc wr fs s).flash = s.flash := by
  unfold accessAs; dsimp only; (repeat' split) <;> simp

@[simp] theorem access_frame (t : Traffic) (st wr : Bool) (fs : List (Nat × Nat)) (s : State) :
    (access t st wr fs s).pending = s.pending ∧ (access t st wr fs s).flash = s.flash := by
  simp [access]

@[simp] theorem readRange_frame (t : Traffic) (a n : Nat) (s : State) :
    (readRange t a n s).1.pending = s.pending ∧ (readRange t a n s).1.flash = s.flash := by
  simp [readRange]

@[simp] theorem writeRange_frame (t : Traffic) (a : Nat) (bs : List Byte) (s : State) :
    (writeRange t a bs s).1.pending = s.pending ∧ (writeRange t a bs s).1.flash = s.flash := by
  simp [writeRange]

@[simp] theorem flushCache_frame (s : State) :
    (flushCache s).pending = s.pending ∧ (flushCache s).flash = s.flash := by
  simp [flushCache]

@[simp] theorem dropLine_frame (c : CacheLine) (s : State) :
    (dropLine c s).pending = s.pending ∧ (dropLine c s).flash = s.flash := by
  unfold dropLine; (repeat' split) <;> simp

@[simp] theorem dropCache_frame (s : State) :
    (dropCache s).pending = s.pending ∧ (dropCache s).flash = s.flash := by
  simp [dropCache]

@[simp] theorem setStep_frame (r : StepRec) (s : State) :
    (setStep r s).pending = s.pending ∧ (setStep r s).flash = s.flash := by
  simp [setStep]

@[simp] theorem modStep_frame (n : Nat) (f : StepRec → StepRec) (s : State) :
    (modStep n f s).pending = s.pending ∧ (modStep n f s).flash = s.flash := by
  simp [modStep]

@[simp] theorem raiseSev_frame (n : Nat) (sev : Nat) (cause : Nat) (s : State) :
    (raiseSev n sev cause s).pending = s.pending ∧ (raiseSev n sev cause s).flash = s.flash := by
  simp [raiseSev]

@[simp] theorem setCtxRt_frame (c : Nat) (r : CtxRt) (s : State) :
    (setCtxRt c r s).pending = s.pending ∧ (setCtxRt c r s).flash = s.flash := by
  simp [setCtxRt]

@[simp] theorem setRingRt_frame (c : Nat) (r : Nat) (x : RingRt) (s : State) :
    (setRingRt c r x s).pending = s.pending ∧ (setRingRt c r x s).flash = s.flash := by
  simp [setRingRt]

@[simp] theorem noticeInt_frame (c : Nat) (s : State) :
    (noticeInt c s).pending = s.pending ∧ (noticeInt c s).flash = s.flash := by
  unfold noticeInt; simp only [apply_ite State.pending, apply_ite State.flash]; simp

@[simp] theorem writeNotice_frame (c : Nat) (a : Nat) (ws : List Word) (s : State) :
    (writeNotice c a ws s).pending = s.pending ∧ (writeNotice c a ws s).flash = s.flash := by
  simp [writeNotice]

@[simp] theorem postNotice_frame (c : Nat) (i : NoticeInfo) (s : State) :
    (postNotice c i s).pending = s.pending ∧ (postNotice c i s).flash = s.flash := by
  unfold postNotice; dsimp only; (repeat' split) <;> simp

@[simp] theorem flushNotices_frame (c : Nat) (n : Nat) (s : State) :
    (flushNotices c n s).pending = s.pending ∧ (flushNotices c n s).flash = s.flash := by
  fun_induction flushNotices <;> simp_all

@[simp] theorem stepNotice_frame (r : StepRec) (i : NoticeInfo) (s : State) :
    (stepNotice r i s).pending = s.pending ∧ (stepNotice r i s).flash = s.flash := by
  simp [stepNotice]

@[simp] theorem checkError_frame (c : Nat) (sev : Nat) (cause : Nat) (path : Nat) (addr : Nat) (s : State) :
    (checkError c sev cause path addr s).pending = s.pending ∧ (checkError c sev cause path addr s).flash = s.flash := by
  simp [checkError]

@[simp] theorem setDesc_frame (d : Desc) (s : State) :
    (setDesc d s).pending = s.pending ∧ (setDesc d s).flash = s.flash := by
  simp [setDesc]

@[simp] theorem ctrPut_frame (key : Nat) (v : Nat) (s : State) :
    (ctrPut key v s).pending = s.pending ∧ (ctrPut key v s).flash = s.flash := by
  simp [ctrPut]

@[simp] theorem userDone_frame (n : Nat) (status : Nat) (s : State) :
    (userDone n status s).pending = s.pending ∧ (userDone n status s).flash = s.flash := by
  unfold userDone; dsimp only; (repeat' split) <;> simp

@[simp] theorem writeBack_frame (d : Desc) (status : Nat) (cause : Nat) (s : State) :
    (writeBack d status cause s).pending = s.pending ∧ (writeBack d status cause s).flash = s.flash := by
  unfold writeBack; (repeat' split) <;> simp

@[simp] theorem descNotice_frame (d : Desc) (kind : Nat) (cause : Nat) (s : State) :
    (descNotice d kind cause s).pending = s.pending ∧ (descNotice d kind cause s).flash = s.flash := by
  simp [descNotice]

@[simp] theorem signal_frame (d : Desc) (s : State) : (signal d s).pending = s.pending ∧ (signal d s).flash = s.flash := by
  unfold signal; (repeat' split) <;> simp

@[simp] theorem retire_frame (d : Desc) (status : Nat) (cause : Nat) (s : State) :
    (retire d status cause s).pending = s.pending ∧ (retire d status cause s).flash = s.flash := by
  unfold retire; dsimp only; (repeat' split) <;> simp

@[simp] theorem failNotice_frame (d : Desc) (cause : Nat) (path : Nat) (addr : Nat) (s : State) :
    (failNotice d cause path addr s).pending = s.pending ∧ (failNotice d cause path addr s).flash = s.flash := by
  simp [failNotice]

@[simp] theorem failWords_frame (d : Desc) (bad : List Nat) (s : State) :
    (failWords d bad s).2.pending = s.pending ∧ (failWords d bad s).2.flash = s.flash := by
  unfold failWords; (repeat' split) <;> simp

@[simp] theorem withIbi_frame (f : State → State) (s : State)
    (hf : ∀ x, (f x).pending = x.pending ∧ (f x).flash = x.flash) :
    (withIbi f s).pending = s.pending ∧ (withIbi f s).flash = s.flash := by
  unfold withIbi; simp only [apply_ite State.pending, apply_ite State.flash]; simp [*]

end Sys2Proof.Machine
end

