-- ==== Sys2Proof/Laws/Ops.lean ====
section
/-!
SUPPORT. The shared operations over registers and memories: what a read gives after a write, once for each operation.
-/
namespace Sys2Proof.Machine

/-! ### Bit fields -/

/-- A word splits into what lies below a field, the field, and what lies above it. -/
theorem bits_split (v lo w : Nat) :
    v = v % 2 ^ lo + 2 ^ lo * (bitsOf v lo w + 2 ^ w * (v / 2 ^ lo / 2 ^ w)) := by
  unfold bitsOf
  rw [Nat.shiftRight_eq_div_pow, Nat.mod_add_div, Nat.mod_add_div]

/-- A word with a field replaced, split the same way. -/
theorem withBits_split (v lo w x : Nat) :
    withBits v lo w x = v % 2 ^ lo + 2 ^ lo * (x % 2 ^ w + 2 ^ w * (v / 2 ^ lo / 2 ^ w)) := by
  have h := bits_split v lo w
  unfold withBits
  have : v - bitsOf v lo w * 2 ^ lo = v % 2 ^ lo + 2 ^ lo * (2 ^ w * (v / 2 ^ lo / 2 ^ w)) := by
    rw [Nat.mul_add] at h
    have hc : bitsOf v lo w * 2 ^ lo = 2 ^ lo * bitsOf v lo w := Nat.mul_comm _ _
    omega
  rw [this, Nat.mul_add, Nat.mul_comm (x % 2 ^ w)]
  omega

/-- The field replaced reads as the new value. -/
@[simp] theorem bitsOf_withBits (v lo w x : Nat) : bitsOf (withBits v lo w x) lo w = x % 2 ^ w := by
  rw [withBits_split]
  unfold bitsOf
  rw [Nat.shiftRight_eq_div_pow, Nat.add_mul_div_left _ _ (Nat.two_pow_pos lo),
    Nat.div_eq_of_lt (Nat.mod_lt _ (Nat.two_pow_pos lo)), Nat.zero_add, Nat.add_mul_mod_self_left, Nat.mod_mod]

/-- A field wholly below or above the one replaced reads as before. -/
theorem bitsOf_withBits_of_disjoint (v lo w x lo' w' : Nat) (h : lo' + w' ≤ lo ∨ lo + w ≤ lo') :
    bitsOf (withBits v lo w x) lo' w' = bitsOf v lo' w' := by
  rcases h with h | h
  · have e : ∀ y, bitsOf (v % 2 ^ lo + 2 ^ lo * y) lo' w' = bitsOf (v % 2 ^ lo) lo' w' := by
      intro y
      unfold bitsOf
      obtain ⟨k, rfl⟩ := Nat.exists_eq_add_of_le h
      rw [Nat.shiftRight_eq_div_pow, Nat.shiftRight_eq_div_pow]
      have : 2 ^ (lo' + w' + k) * y = 2 ^ lo' * (2 ^ w' * (2 ^ k * y)) := by
        rw [Nat.pow_add, Nat.pow_add, Nat.mul_assoc, Nat.mul_assoc]
      rw [this, Nat.add_mul_div_left _ _ (Nat.two_pow_pos lo'), Nat.add_mul_mod_self_left]
    rw [withBits_split, e]
    conv => rhs; rw [bits_split v lo w, e]
  · have e : ∀ y, y < 2 ^ w → bitsOf (v % 2 ^ lo + 2 ^ lo * (y + 2 ^ w * (v / 2 ^ lo / 2 ^ w))) lo' w'
        = v / 2 ^ lo / 2 ^ w / 2 ^ (lo' - (lo + w)) % 2 ^ w' := by
      intro y hy
      obtain ⟨k, rfl⟩ := Nat.exists_eq_add_of_le h
      unfold bitsOf
      rw [Nat.shiftRight_eq_div_pow, Nat.pow_add, Nat.pow_add, ← Nat.div_div_eq_div_mul, ← Nat.div_div_eq_div_mul,
        Nat.add_mul_div_left _ _ (Nat.two_pow_pos lo), Nat.div_eq_of_lt (Nat.mod_lt _ (Nat.two_pow_pos lo)),
        Nat.zero_add, Nat.add_mul_div_left _ _ (Nat.two_pow_pos w), Nat.div_eq_of_lt hy, Nat.zero_add,
        Nat.add_sub_cancel_left]
    rw [withBits_split, e _ (Nat.mod_lt _ (Nat.two_pow_pos w))]
    conv => rhs; rw [bits_split v lo w]
    rw [e]
    exact Nat.mod_lt _ (Nat.two_pow_pos w)

/-- A field of a number kept to 64 bits is the field of the number. -/
theorem bitsOf_mod (v lo w : Nat) (h : lo + w ≤ 64) : bitsOf (v % 2 ^ 64) lo w = bitsOf v lo w := by
  unfold bitsOf
  obtain ⟨k, hk⟩ := Nat.exists_eq_add_of_le h
  rw [Nat.shiftRight_eq_div_pow, Nat.shiftRight_eq_div_pow, hk, Nat.add_assoc, Nat.pow_add,
    Nat.mod_mul_right_div_self, Nat.pow_add, Nat.mod_mul_right_mod]

/-! ### Registers -/

@[simp] theorem rdReg_putReg_self (a : Nat) (v : Word) (s : State) : rdReg (putReg a v s) a = v := by
  simp [rdReg, putReg]

theorem rdReg_putReg_ne (a b : Nat) (v : Word) (s : State) (h : b ≠ a) : rdReg (putReg a v s) b = rdReg s b := by
  simp [rdReg, putReg, smGet_smSet_ne _ _ _ _ _ h]

/-- A register other than the one a field lies in is unchanged when the field is set. -/
theorem rdReg_put_ne (f : Fld) (x b : Nat) (s : State) (h : b ≠ f.reg) : rdReg (put f x s) b = rdReg s b :=
  rdReg_putReg_ne _ _ _ _ h

theorem rdReg_bump_ne (f : Fld) (n b : Nat) (s : State) (h : b ≠ f.reg) : rdReg (bump f n s) b = rdReg s b :=
  rdReg_put_ne _ _ _ _ h

/-- The field set is the field read, at its width. -/
theorem rf_put_self (f : Fld) (x : Nat) (s : State) (h : f.lo + f.w ≤ 64) : rf (put f x s) f = x % 2 ^ f.w := by
  simp only [rf, put, rdReg_putReg_self, BitVec.toNat_ofNat]
  rw [bitsOf_mod _ _ _ h, bitsOf_withBits]

/-- A field of another register, or of other bits of the same register, is unchanged. -/
theorem rf_put_ne (f g : Fld) (x : Nat) (s : State) (hg : g.lo + g.w ≤ 64)
    (h : g.reg ≠ f.reg ∨ g.lo + g.w ≤ f.lo ∨ f.lo + f.w ≤ g.lo) : rf (put f x s) g = rf s g := by
  by_cases hr : g.reg = f.reg
  · have hd : g.lo + g.w ≤ f.lo ∨ f.lo + f.w ≤ g.lo := by
      rcases h with h | h
      · exact absurd hr h
      · exact h
    simp only [rf, put, hr, rdReg_putReg_self, BitVec.toNat_ofNat]
    rw [bitsOf_mod _ _ _ hg, bitsOf_withBits_of_disjoint _ _ _ _ _ _ hd]
  · simp [rf, rdReg_put_ne _ _ _ _ hr]

/-- A counter raised reads as the sum, at its width. -/
theorem rf_bump_self (f : Fld) (n : Nat) (s : State) (h : f.lo + f.w ≤ 64) :
    rf (bump f n s) f = (rf s f + n) % 2 ^ f.w := rf_put_self _ _ _ h

theorem rf_bump_ne (f g : Fld) (n : Nat) (s : State) (hg : g.lo + g.w ≤ 64)
    (h : g.reg ≠ f.reg ∨ g.lo + g.w ≤ f.lo ∨ f.lo + f.w ≤ g.lo) : rf (bump f n s) g = rf s g := rf_put_ne _ _ _ _ hg h

/-- A record update that leaves `regs` alone leaves every field alone. -/
theorem rf_congr {s t : State} (h : t.regs = s.regs) (f : Fld) : rf t f = rf s f := by simp [rf, rdReg, h]

theorem ff_congr {s t : State} (h : t.force = s.force) (f : Fld) : ff t f = ff s f := by simp [ff, inForce, h]

/-! ### Memories -/

/-- A read after a write to the same byte gives the byte written. -/
@[simp] theorem memGet_memPut_self (a : Nat) (b : Byte) (s : State) : memGet (memPut a b s) a = b := by
  simp [memGet, memPut]

/-- A write leaves every other byte alone. -/
theorem memGet_memPut_ne (a x : Nat) (b : Byte) (s : State) (h : x ≠ a) : memGet (memPut a b s) x = memGet s x := by
  simp [memGet, memPut, smGet_smSet_ne _ _ _ _ _ h]

/-- A run of bytes written leaves every byte outside it alone. -/
theorem memGet_memWrite_of_outside (a x : Nat) (bs : List Byte) (s : State) (h : x < a ∨ a + bs.length ≤ x) :
    memGet (memWrite a bs s) x = memGet s x := by
  induction bs generalizing a s with
  | nil => rfl
  | cons b bs ih =>
    rw [List.length_cons] at h
    rw [memWrite, ih _ _ (by omega), memGet_memPut_ne _ _ _ _ (by omega)]

/-- A run of bytes written reads back byte by byte. -/
theorem memGet_memWrite (a : Nat) (bs : List Byte) (i : Nat) (s : State) (h : i < bs.length) :
    memGet (memWrite a bs s) (a + i) = bs[i] := by
  induction bs generalizing a i s with
  | nil => simp at h
  | cons b bs ih =>
    rw [memWrite]
    cases i with
    | zero => simp [memGet_memWrite_of_outside (a + 1) a bs _ (by omega)]
    | succ i =>
      have := ih (a + 1) i (memPut a b s) (by simpa using h)
      simpa [Nat.add_assoc, Nat.add_comm 1 i] using this

@[simp] theorem hostGet_hostPut_self (a : Nat) (b : Byte) (s : State) : hostGet (hostPut a b s) a = b := by
  simp [hostGet, hostPut]

theorem hostGet_hostPut_ne (a x : Nat) (b : Byte) (s : State) (h : x % 2 ^ 64 ≠ a % 2 ^ 64) :
    hostGet (hostPut a b s) x = hostGet s x := smGet_smSet_ne _ _ _ _ _ h

/-- Nothing is checked where every stored word is clean. -/
theorem checkWords_of_clean (p : Nat → Bool) (s : State) (h : s.syn = []) : checkWords p s = (s, []) := by
  simp [checkWords, h]

/-! ### Run-time records -/

@[simp] theorem ringRt_setRingRt_self (c r : Nat) (x : RingRt) (s : State) : ringRt (setRingRt c r x s) c r = x := by
  simp [ringRt, setRingRt]

@[simp] theorem ctxRt_setCtxRt_self (c : Nat) (x : CtxRt) (s : State) : ctxRt (setCtxRt c x s) c = x := by
  simp [ctxRt, setCtxRt]

theorem ctxRt_setCtxRt_ne (c b : Nat) (x : CtxRt) (s : State) (h : b ≠ c) : ctxRt (setCtxRt c x s) b = ctxRt s b := by
  simp [ctxRt, setCtxRt, smGet_smSet_ne _ _ _ _ _ h]

/-- A counter set is the counter read, modulo 2^16. -/
@[simp] theorem ctrGet_ctrPut_self (k v : Nat) (s : State) : ctrGet (ctrPut k v s) k = v % 2 ^ 16 := by
  simp [ctrGet, ctrPut]

theorem ctrGet_ctrPut_ne (k j v : Nat) (s : State) (h : j ≠ k) : ctrGet (ctrPut k v s) j = ctrGet s j := by
  simp [ctrGet, ctrPut, smGet_smSet_ne _ _ _ _ _ h]

end Sys2Proof.Machine
end

