-- ==== Sys2Proof/Tests/Slice0.lean ====
section
/-!
SUPPORT. Tests: for every obligation with hypotheses a state and operands that meet them, the worked examples of the spec, and
ill-formed commands that `WellFormed` refuses. The expected values of the worked examples are the spec's own.
-/
set_option Elab.async false
open Sys2Proof Sys2Proof.Machine
namespace Sys2Proof.Tests

/-! ### States to try -/

/-- Fields set. -/
def with' (fs : List (Fld × Nat)) (s : State) : State := fs.foldl (fun s f => put f.1 f.2 s) s

/-- Fields set in force. -/
def inForce' (fs : List (Fld × Nat)) (s : State) : State :=
  fs.foldl (fun s f => putForce f.1.reg (BitVec.ofNat 64 (withBits (inForce s f.1.reg).toNat f.1.lo f.1.w f.2)) s) s

/-- A device that is ready and ACTIVE, with every domain running and the host link up in a PCIe mode. -/
def up : State :=
  with' [(F.RST_STAT_PHASE, 7), (F.HIF_LINK_MODE, 4), (F.CLK_STAT_ROOT_LOCK, 1), (F.CLK_CTL_SRC, 1)]
    { State.reset with rtrUp := true, hifUp := true, memUp := true, cmpUp := true, selfRefresh := false, rails := true,
                       rst := ⟨0, false, 0, 0, true⟩ }

/-- The same device with the host link in a CXL mode. -/
def upCxl : State := with' [(F.HIF_LINK_MODE, 1)] up

/-- Words written to host memory. -/
def words (a : Nat) (ws : List Nat) (s : State) : State := hostPoke a (ws.flatMap (fun w => leBytes w 8)) s

/-- A fetched descriptor: class, operation, further bits of word 0, and words 1 to 7. -/
def desc (c r cnt cls op w0 : Nat) (ws : List Nat) : Desc :=
  newDesc c r cnt (((cls * 2 ^ 60 + op * 2 ^ 52 + w0) :: ws).map (BitVec.ofNat 64)) none 0

/-- A device with descriptor `d` in flight. -/
def flying (d : Desc) (s : State) : State := { s with inflight := [d] }

/-- An entry of context 5's tensor table: handle, device address, format code, region, elements. -/
def tensor (h a fmt region d0 : Nat) (s : State) : State :=
  words (0x40000 + 64 * h) [a + fmt * 2 ^ 48, region * 2 ^ 48, d0, 0, 0, 0, 0, 0] s

/-- A live step, OPEN. -/
def aStep (n : Nat) : StepRec :=
  { num := n, epoch := 1, replay := false, budget := 0, cursor0 := 0, cursor1 := 0, key := 11, st := .opened, sev := 0, cause := 0,
    forced := false, vote := ⟨0, 0x7FFF, 0⟩, axis := 0, got := [], early := [], sealed := false, groupRecs := [], efbOffs := [],
    mark := [], keepBytes := 0, keepOver := false, closeProd := [], openedAt := 0, contribAt := 0, busyAt := none, busyNs := 0,
    sendNs := 0, recvNs := 0, lags := [], late := none, locked := true, idle0 := 0, taint := [], binds := [] }

/-! ### The queue, doorbells and rings -/

/-- Ring 0 of context 5 enabled with 16 slots at 0x10000. -/
def ringed : State :=
  with' [(F.CTX_RING_CTL_ENABLE 5 0, 1), (F.CTX_RING_CTL_LOG2 5 0, 4), (F.CTX_RING_BASE 5 0, 0x10000), (F.CTX_CFG_INFLIGHT_MAX 5, 64),
    (F.CTX_CFG_FENEX_REV 5, 3)] up

/-- The same with a NOP posted in slot 0. -/
def posted : State :=
  setRingRt 5 0 ⟨1, 0, false, 0⟩ (hostPoke 0x10000 (leBytes (2 ^ 63 + 5 * 2 ^ 60) 8) ringed)

/-- The notice ring of context 5 enabled with 16 slots, and one notice held back. -/
def noticed : State :=
  setCtxRt 5 ⟨1, [⟨[5#64]⟩], false, false⟩
    (with' [(F.CTX_RING_CTL_ENABLE 5 3, 1), (F.CTX_RING_CTL_LOG2 5 3, 4), (F.CTX_RING_BASE 5 3, 0x18000)] ringed)

/-- The doorbell line of a CXL mode with a changed count on ring 0. -/
def rung : State := hostPoke 0x20000 (leBytes 3 4) (with' [(F.HIF_LINK_MODE, 1), (F.CTX_DB_ADDR 5, 0x20000)] ringed)

theorem test_StepRunsFrontCommand : let s := { up with pending := [.rampStep, .droopDetect] }; s.pending = .rampStep :: [.droopDetect] := by
  decide +kernel

theorem test_IdleStepIsOneTick : up.pending = [] ∧ up.rtrUp = true ∧ State.reset.rtrUp = false := by decide +kernel

theorem test_StepKeepsCanonicalForm : step up = .next (tick up) ∧ Canonical up :=
  ⟨rfl, ⟨by decide +kernel, by decide +kernel, by decide +kernel, by decide +kernel, by decide +kernel,
    by decide +kernel, by decide +kernel, by decide +kernel, by decide +kernel⟩⟩

theorem test_DoorbellsSetProducerCounts :
    (HostReaches ringed ∧ linkCxl ringed = false ∧ ringOn ringed 5 0 = true
      ∧ (16#32).toNat + 2 ^ 32 - (ringRt ringed 5 0).prod < 2 ^ 32 + 2 ^ 31 ∧ (16 + 2 ^ 32 - oldestOwned ringed 5 0) % 2 ^ 32 ≤ 16)
    ∧ 2 ^ 31 ≤ ((0xFFFFFFFF#32).toNat + 2 ^ 32 - (ringRt ringed 5 0).prod) % 2 ^ 32
    ∧ 2 ^ rf ringed (F.CTX_RING_CTL_LOG2 5 0) < ((17#32).toNat + 2 ^ 32 - oldestOwned ringed 5 0) % 2 ^ 32
    ∧ (HostReaches upCxl ∧ linkCxl upCxl = true)
    ∧ (HostReaches up ∧ ringOn up 5 0 = false)
    ∧ (let s := noticed
       HostReaches s ∧ linkCxl s = false ∧ ringOn s 5 3 = true ∧ (ctxRt s 5).held ≠ []
        ∧ ((2#32).toNat + 2 ^ 32 - (ringRt s 5 3).prod) % 2 ^ 32 < 2 ^ 31
        ∧ ((2#32).toNat + 2 ^ 32 - oldestOwned s 5 3) % 2 ^ 32 ≤ 2 ^ rf s (F.CTX_RING_CTL_LOG2 5 3))
    ∧ (let s := with' [(F.HIF_LINK_MODE, 1)] ringed
       linkUp s = true ∧ linkCxl s = true ∧ (∃ r, r < 4 ∧ ringOn s 5 r = true) ∧ changedRings s 5 = [])
    ∧ (linkUp rung = true ∧ linkCxl rung = true ∧ changedRings rung 5 = [(0, 3)] ∧ ringOn rung 5 0 = true
      ∧ (3 + 2 ^ 32 - (ringRt rung 5 0).prod) % 2 ^ 32 < 2 ^ 31
      ∧ (3 + 2 ^ 32 - oldestOwned rung 5 0) % 2 ^ 32 ≤ 2 ^ rf rung (F.CTX_RING_CTL_LOG2 5 0)) := by
  refine ⟨by decide +kernel, by decide +kernel, by decide +kernel, by decide +kernel, by decide +kernel, by decide +kernel,
    by decide +kernel, by decide +kernel⟩

theorem test_FetchTakesOwnedSlots :
    (let s := setRingRt 5 0 ⟨1, 0, false, 0⟩ ringed
     fetchTurnOf s 5 0 = true ∧ bitsOf (hostWord s (slotAddr s 5 0 0)).toNat 63 1 = 0 ∧ s.holder = none
      ∧ fetchTurnOf s 5 1 = false)
    ∧ (let s := posted
       let ws := hostWords s (slotAddr s 5 0 0) 8
       fetchTurnOf s 5 0 = true ∧ (ringRt s 5 0).prod = ((ringRt s 5 0).cons + 1) % 2 ^ 32
      ∧ s.holder = none ∧ 5 ≠ stepCtx s ∧ bitsOf (hostWord s (slotAddr s 5 0 0)).toNat 63 1 = 1
      ∧ refuseCause collCause s (newDesc 5 0 0 ws none 0) = none) := by
  decide +kernel

theorem test_RingEnableAndDisable :
    (let s := with' [(F.CTX_RING_BASE 5 0, 0x10000), (F.CTX_CFG_FENEX_REV 5, 3)] up
     HostReaches s ∧ ringOn s 5 0 = false ∧ 1 ≤ rf s (F.CTX_CFG_FENEX_REV 5) ∧ rf s (F.CTX_CFG_FENEX_REV 5) ≤ 3
      ∧ ringBusy s 5 0 = false ∧ 4 ≤ (16#5).toNat ∧ (16#5).toNat ≤ 16 ∧ rf s (F.CTX_RING_BASE 5 0) % 4096 = 0
      ∧ (0 = 2 → chanTaken s 5 = false) ∧ rf s F.RST_STAT_OOS = 0)
    ∧ (HostReaches ringed ∧ ringOn ringed 5 0 = true ∧ ¬ (5 = stepCtx ringed ∧ ringed.steps ≠ [])
      ∧ rf ringed (F.CTX_RING_CTL_LOG2 5 0) = (4#5).toNat ∧ rf ringed F.RST_STAT_OOS = 0)
    ∧ (let s := with' [(F.RST_STAT_OOS, 1)] ringed
       HostReaches s ∧ ringOn s 5 0 = true ∧ rf s F.RST_STAT_OOS = 1)
    ∧ (let s := { with' [(F.STEPCFG_CTL_STEP_CTX, 5)] ringed with steps := [aStep 7] }
       HostReaches s ∧ ringOn s 5 0 = true ∧ 5 = stepCtx s ∧ s.steps ≠ []) := by
  decide +kernel

/-- Context 5 is the step context, at Fenex 3, and own state is valid. -/
def stepping : State := with' [(F.STEPCFG_CTL_STEP_CTX, 5), (F.SEAM_OSTAT_OWN, 0)] ringed

/-- A finished NOP that signals counter 3. -/
def done : State := flying { desc 5 0 2 5 0 (2 ^ 36 + 3 * 2 ^ 16) [0, 0, 0, 0, 0, 0, 0] with run := .finished } ringed

/-- Notices of context 5 raise vector 9, unmasked. -/
def unmasked : State := putReg (0xF00008 + 16 * 9) 0 (with' [(F.CTX_INT_VEC 5, 9), (F.CTX_INT_MASK 5, 0)] up)

theorem test_RetirementWritesBack :
    (let d := { desc 5 0 2 5 0 (2 ^ 36 + 3 * 2 ^ 16) [0, 0, 0, 0, 0, 0, 0] with run := .finished }
     findDesc done 5 0 2 = some d ∧ d.run = .finished ∧ d.refused = none ∧ retireTurn done d = true ∧ dmChan done 5 < 48
      ∧ linkUp done = true ∧ slotAddr done 5 0 2 + 64 ≤ 2 ^ 64 ∧ d.fails = [] ∧ bitsOf (dWord d 0) 36 1 = 1)
    ∧ (let d := desc 5 0 2 5 0 (3 * 2 ^ 50) [0, 0, 0, 0, 0, 0, 0]
       let s := flying d stepping
       findDesc s 5 0 2 = some d ∧ staleTag s d = true ∧ (0 : Fin 3).val ≠ 2)
    ∧ (let d := desc 5 0 2 5 10 0 [2 ^ 60, 0, 0, 0, 0, 0, 0]
       let s := flying d ringed
       findDesc s 5 0 2 = some d ∧ timerRuns s d = true)
    ∧ (let s := setCtxRt 5 ⟨4, [], true, true⟩ unmasked
       (ctxRt s 5).holdoff = true ∧ (ctxRt s 5).pendInt = true ∧ rf s (F.CTX_INT_MASK 5) = 0
        ∧ bitsOf (rdReg s (0xF00008 + 16 * rf s (F.CTX_INT_VEC 5))).toNat 32 1 = 0)
    ∧ (let s := setCtxRt 5 ⟨4, [], true, false⟩ up
       (ctxRt s 5).holdoff = true ∧ (ctxRt s 5).pendInt = false) := by
  decide +kernel

/-! ### Elementwise, row and matrix work -/

/-- Vectors of two FP32 elements: 1, 2 and 3 name inputs and outputs of context 5. -/
def vectors : State :=
  memWrite 0x1000 (leBytes 0x3F800000 4 ++ leBytes 0x40000000 4) (memWrite 0x2000 (leBytes 0x40400000 4 ++ leBytes 0xC0000000 4)
    (tensor 1 0x1000 0x0A 0 2 (tensor 2 0x2000 0x0A 0 2 (tensor 3 0x3000 0x0A 0 2 (tensor 4 0x4000 0x0A 0 2
      (with' [(F.CTX_TT_BASE 5, 0x40000)] ringed))))))

/-- An ELEM descriptor over them. -/
def elemDesc (op : Nat) : Desc := desc 5 0 0 2 op 0 [1 + 2 * 2 ^ 16 + 3 * 2 ^ 32, 2, 0x3F000000, 0, 0, 0, 0]

/-- The gate form of ACT over vector 1: OUT is vector 3 and AUX is vector 4. -/
def gatedDesc : Desc := desc 5 0 0 2 5 0 [1 + 3 * 2 ^ 32 + 4 * 2 ^ 48, 2 + 6 * 2 ^ 40, 0, 0, 0, 0, 0]

/-- The same on the step context in live step 7, as a DROPOUT. -/
def dropping' : State :=
  let s := with' [(F.STEPCFG_CTL_STEP_CTX, 5)] vectors
  { s with inflight := [desc 5 0 0 2 7 (3 * 2 ^ 50) [1 + 2 * 2 ^ 16 + 3 * 2 ^ 32, 2, 0x3F7FFFFF, 0, 0, 0, 0]], steps := [aStep 7] }

/-- Positions of an unblocked tensor whose elements lie apart, two by two, share no byte. -/
theorem apart_of_check (t : Tensor) (base : Nat) (ps : List Nat) (hb : fmtBlocked (tFmt t) = false) (hn : ps.Nodup)
    (hc : ∀ p ∈ ps, ∀ q ∈ ps, p ≠ q →
      (elemBitAddr t base p + fmtBits (tFmt t) + 7) / 8 ≤ elemBitAddr t base q / 8
        ∨ (elemBitAddr t base q + fmtBits (tFmt t) + 7) / 8 ≤ elemBitAddr t base p / 8) : Apart t base ps := by
  refine ⟨hn, fun p hp q hq h a => ?_⟩
  have := hc p hp q hq h
  simp only [InElem, hb, Bool.false_eq_true, false_and, or_false]
  omega

/-- Positions of two unblocked tensors that lie apart share no byte. -/
theorem disjoint_of_check (t u : Tensor) (base baseU p q : Nat) (hb : fmtBlocked (tFmt t) = false) (hu : fmtBlocked (tFmt u) = false)
    (hc : (elemBitAddr t base p + fmtBits (tFmt t) + 7) / 8 ≤ elemBitAddr u baseU q / 8
        ∨ (elemBitAddr u baseU q + fmtBits (tFmt u) + 7) / 8 ≤ elemBitAddr t base p / 8) (a : Nat) (h : InElem t base p a) :
    ¬ InElem u baseU q a := by
  simp only [InElem, hb, hu, Bool.false_eq_true, false_and, or_false] at h ⊢
  omega

theorem test_ElemWritesItsResult :
    (let s := flying (elemDesc 1) vectors
     let c := elemCtx s (elemDesc 1) 0 0
     Starts s 5 0 0 2 1 (elemDesc 1) ∧ NoUpset s ∧ Untainted s ∧ tFmt c.outp = .fp32 ∧ c.outp.layout = 0 ∧ c.outp.rank = 0
      ∧ c.count ≤ c.outp.d0 ∧ 0 < c.count ∧ c.gated = false)
    ∧ (let s := flying gatedDesc vectors
       let c := elemCtx s gatedDesc 0 0
       Starts s 5 0 0 2 5 gatedDesc ∧ NoUpset s ∧ c.gated = true ∧ tFmt c.outp = .fp32 ∧ c.outp.layout = 0 ∧ c.outp.rank = 0
        ∧ c.count ≤ c.outp.d0
        ∧ (∀ i j a, i < c.count → j < c.count → InElem c.outp c.bo i a → ¬ ((5 : Nat) = 5 ∧ c.gated = true ∧ InElem c.aux c.ba j a)))
    ∧ (let s := dropping'
       let d := desc 5 0 0 2 7 (3 * 2 ^ 50) [1 + 2 * 2 ^ 16 + 3 * 2 ^ 32, 2, 0x3F7FFFFF, 0, 0, 0, 0]
       let c := elemCtx s d (aStep 7).key (aStep 7).num
       Starts s 5 0 0 2 7 d ∧ NoUpset s ∧ tagged s 5 = true ∧ stepOfTag s (dStag d) = some (aStep 7)
        ∧ findStep s 7 = some (aStep 7) ∧ tFmt c.outp = .fp32 ∧ c.outp.layout = 0 ∧ c.outp.rank = 0 ∧ c.count ≤ c.outp.d0
        ∧ fvLt (uniformOf (randomWord (aStep 7).key (aStep 7).num c.strm ((c.origin + 0) % 2 ^ 64))) c.param = true) := by
  refine ⟨by decide +kernel, ⟨by decide +kernel, by decide +kernel, by decide +kernel, by decide +kernel, by decide +kernel,
    by decide +kernel, by decide +kernel, ?_⟩, by decide +kernel⟩
  intro i j a hi hj ho h
  refine disjoint_of_check _ _ _ _ i j (by decide +kernel) (by decide +kernel) ?_ a ho h.2.2
  have c2 : (elemCtx (flying gatedDesc vectors) gatedDesc 0 0).count = 2 := by decide +kernel
  rw [c2] at hi hj
  have key : ∀ i < 2, ∀ j < 2,
      (let c := elemCtx (flying gatedDesc vectors) gatedDesc 0 0
       (elemBitAddr c.outp c.bo i + fmtBits (tFmt c.outp) + 7) / 8 ≤ elemBitAddr c.aux c.ba j / 8
        ∨ (elemBitAddr c.aux c.ba j + fmtBits (tFmt c.aux) + 7) / 8 ≤ elemBitAddr c.outp c.bo i / 8) := by decide +kernel
  exact key i hi j hj

/-- An RMS_FWD over one row of two elements. -/
def rowDesc (op : Nat) : Desc := desc 5 0 0 1 op 0 [1 + 3 * 2 ^ 16 + 2 * 2 ^ 32, 4 * 2 ^ 48, 1 + 2 * 2 ^ 32, 0x3727C5AC, 0, 0, 0]

theorem test_RowRunsToItsEnd :
    (let s := flying (rowDesc 2) vectors
     let c := rowCtx s (rowDesc 2)
     let base := fun (t : Tensor) => tBase s t c.stag
     Starts s 5 0 0 1 2 (rowDesc 2) ∧ NoUpset s ∧ Untainted s ∧ s.side = [] ∧ (rowOne s [] [] c (rowDesc 2) 0).1.isSome = true
      ∧ sideEntry (bitsOf (dWord (rowDesc 2) 5) 0 15) 0 = some (0, 0) ∧ tFmt c.y = .fp32
      ∧ Apart c.y (base c.y) (List.range (c.rows * c.len)) ∧ named c.stats = true
      ∧ ∀ i a, i < c.rows * c.len → InElem c.y (base c.y) i a → ∀ k, k < 2 * c.rows → ¬ InElem c.stats (base c.stats) k a)
    ∧ (let s := flying (rowDesc 4) vectors
       let c := rowCtx s (rowDesc 4)
       Starts s 5 0 0 1 4 (rowDesc 4) ∧ NoUpset s ∧ tFmt c.y = .fp32
        ∧ Apart c.y (tBase s c.y c.stag) (List.range (c.rows * c.len)) ∧ named c.dgain = false ∧ named c.dbias = false) := by
  have sz : (rowCtx (flying (rowDesc 2) vectors) (rowDesc 2)).rows * (rowCtx (flying (rowDesc 2) vectors) (rowDesc 2)).len = 2
      ∧ 2 * (rowCtx (flying (rowDesc 2) vectors) (rowDesc 2)).rows = 2 := by decide +kernel
  have key : ∀ i < 2, ∀ k < 2,
      (let s := flying (rowDesc 2) vectors
       let c := rowCtx s (rowDesc 2)
       (elemBitAddr c.y (tBase s c.y c.stag) i + fmtBits (tFmt c.y) + 7) / 8 ≤ elemBitAddr c.stats (tBase s c.stats c.stag) k / 8
        ∨ (elemBitAddr c.stats (tBase s c.stats c.stag) k + fmtBits (tFmt c.stats) + 7) / 8
            ≤ elemBitAddr c.y (tBase s c.y c.stag) i / 8) := by decide +kernel
  refine ⟨⟨by decide +kernel, by decide +kernel, by decide +kernel, by decide +kernel, by decide +kernel, by decide +kernel,
    by decide +kernel, apart_of_check _ _ _ (by decide +kernel) (by decide +kernel) (by decide +kernel), by decide +kernel,
    fun i a hi hy k hk => ?_⟩,
    by decide +kernel, by decide +kernel, by decide +kernel,
    apart_of_check _ _ _ (by decide +kernel) (by decide +kernel) (by decide +kernel), by decide +kernel, by decide +kernel⟩
  exact disjoint_of_check _ _ _ _ i k (by decide +kernel) (by decide +kernel) (key i (sz.1 ▸ hi) k (sz.2 ▸ hk)) a hy

theorem test_FloatCodesRoundTrip :
    fpDecode .fp8E4M3 (0x7E#8).toNat ≠ .nan ∧ fpDecode .fp8E5M2 (0xFC#8).toNat ≠ .nan ∧ fpDecode .bf16 (0x8001#16).toNat ≠ .nan
    ∧ fpDecode .fp32 (0x7F800000#32).toNat ≠ .nan := by
  decide +kernel

theorem test_ByteFormatsCastExactly : (0x7F#8) ≠ 0x80 ∧ (0xFE#8) ≠ 0xFF := by decide

/-- A GEMM of one row, one column and four contraction slots over FP32, in two partitions. -/
def gemmDesc : Desc := desc 5 0 0 0 1 0 [1 + 2 * 2 ^ 16 + 3 * 2 ^ 32, 1 + 2 ^ 24, 8 + 2 * 2 ^ 32, 0, 0, 0, 0]

/-- Its operands, and one staging partition. -/
def matrices : State :=
  inForce' [(F.SSTORE_PCFG_MODE 0, 2)] (memWrite 0x1000 ((List.range 8).flatMap (fun _ => leBytes 0x3F800000 4))
    (memWrite 0x2000 ((List.range 8).flatMap (fun i => leBytes (0x3F800000 + i * 2 ^ 20) 4))
      (tensor 1 0x1000 0x0A 0 8 (tensor 2 0x2000 0x0A 0 1 (tensor 3 0x3000 0x0A 0 1
        (with' [(F.CTX_TT_BASE 5, 0x40000)] ringed))))))

/-- The GEMM running, its pass allocated, its partial slots reserved, and the jobs of the partitions in `issued` issued to
engine 3 of bay 2. -/
def gemmRun (allocated : Nat) (reserved : List (Nat × Nat)) (issued drained : List Nat) : Desc :=
  { gemmDesc with run := .running, mx := ⟨splitOf matrices 5 (gemmOf gemmDesc),
    (jobsOf (gemmOf gemmDesc) (splitOf matrices 5 (gemmOf gemmDesc))).map (fun j =>
      if issued.contains j.part then { j with issued := true, drained := drained.contains j.part, bay := 2, me := 3 } else j),
      drained.map (fun p => ⟨0, 0, p, [some (fvOfNat 4)]⟩), 1, allocated, reserved,
      if issued = [] then [] else [(0, [true])], [], []⟩ }

/-- The machine with the GEMM in that state. -/
def matrix (allocated : Nat) (reserved : List (Nat × Nat)) (issued drained : List Nat) : State :=
  flying (gemmRun allocated reserved issued drained) { matrices with holder := some 5, bob := 1000 * 2 ^ 40 }

theorem test_GemmIsSplitAndIssued :
    (Starts (flying gemmDesc matrices) 5 0 0 0 1 gemmDesc ∧ Untainted matrices
      ∧ jobsOf (gemmOf gemmDesc) (splitOf matrices 5 (gemmOf gemmDesc)) ≠ [])
    ∧ (match issuing (matrix 0 [] [] []) ⟨5, 0⟩ with
       | some (some (j, _, _), d1, s1) => decide (d1.mx.allocated ≤ j.pass
          ∧ passBytes s1 d1.ctx (gemmOf d1) d1.mx.split j.pass ≤ stagingCap s1 - stagingUsed s1
          ∧ ∀ o ∈ passRuns s1 d1 (gemmOf d1) d1.mx.split j.pass, accessHeld s1 .operand o.2 = false)
       | _ => false) = true
    ∧ (match issuing (matrix 1 [] [] []) ⟨5, 0⟩ with
       | some (some (j, _, _), d1, s1) => decide (needsSlots d1 j = true ∧ j.band = (0#32).toNat ∧ j.col = (0#32).toNat
          ∧ poolUsed s1 + ((gemmOf d1).kpart - 1) * slotBytes (gemmOf d1) ≤ 8 * 2 ^ 20)
       | _ => false) = true
    ∧ (let s := matrix 1 [] [] []
       s.cmpUp = true ∧ s.memUp = true ∧ unitsClocked s = true ∧ engBarred s 0 0 = false ∧ waveWaits s 0 0 = false
        ∧ (match issuing s ⟨5, 0⟩ with
           | some (some (j, d2, s2), d1, s1) =>
             let g := gemmOf d1
             let q := (gArray g (0 : Fin 4).val).1
             decide (j.pass < d1.mx.allocated ∧ segmentReady d1 j = true ∧ arrayTakes s1 0 0 g q j = true ∧ servedFirst s1 0 0 q g = true
              ∧ needsSlots d2 j = true ∧ poolUsed s2 + ((gemmOf d2).kpart - 1) * slotBytes (gemmOf d2) ≤ 8 * 2 ^ 20)
           | _ => false) = true) := by
  decide +kernel

/-- A fault in a group register of the first cell: 1 is added to it. -/
def anUpset : GroupUpset := ⟨0, 0, 0, 5, 0⟩

/-- A running GEMM with statistics whose one band has drained. -/
def statDesc : Desc :=
  { desc 5 0 0 0 1 0 [1 + 2 * 2 ^ 16 + 3 * 2 ^ 32, 1 + 2 ^ 24, 8 + 3 * 2 ^ 42, 4 * 2 ^ 16, 0, 0, 0] with
    run := .running
    mx := ⟨⟨1, 1, 1, 1, 1, 8⟩, [⟨0, 0, 0, 0, 0, true, true, 2, 3, 0, 0⟩], [], 1, 1, [], [(0, [true])],
      [(0, 0, [some (fvOfNat 4)])], []⟩ }

/-- The machine with it. -/
def statState : State := flying statDesc (tensor 4 0x4000 0x0A 0 2 { matrices with holder := some 5 })

theorem test_TileJobsDrain :
    (let s := matrix 1 [(0, 0)] [0, 1] [0]
     let d := gemmRun 1 [(0, 0)] [0, 1] [0]
     let j : TileJob := ⟨0, 0, 0, 1, 0, true, false, 2, 3, 0, 0⟩
     let D := tensorEntry s d.ctx (gemmOf d).d
     runningGemm s ⟨5, 0⟩ = some d ∧ NoUpset s ∧ drainHeld s d j = false ∧ tFmt D = .fp32
      ∧ Apart D (tBase s D (dStag d)) (tilePositions s d (gemmOf d) j) ∧ (jobCells d (gemmOf d) j)[0]? = some (true, 0, 0)
      ∧ d.mx.jobs.find? (fun j => j.issued && !j.drained && j.pass == 0 && j.band == 0 && j.col == 0 && j.part == 1 && j.seg == 0)
        = some j)
    ∧ (let s := matrix 1 [(0, 0)] [0, 1] []
       let d := gemmRun 1 [(0, 0)] [0, 1] []
       let j : TileJob := ⟨0, 0, 0, 0, 0, true, false, 2, 3, 0, 0⟩
       runningGemm s ⟨5, 0⟩ = some d ∧ NoUpset s ∧ drainHeld s d j = false ∧ j.bay < 20 ∧ j.me < 8
        ∧ residueFails s d (gemmOf d) j [anUpset] ≠ []
        ∧ d.mx.jobs.find? (fun j => j.issued && !j.drained && j.pass == 0 && j.band == 0
        && j.col == 0 && j.part == 0 && j.seg == 0) = some j)
    ∧ (let s := statState
       let g := gemmOf statDesc
       let S := tensorEntry s 5 g.stat
       let D := tensorEntry s 5 g.d
       runningGemm s ⟨5, 0⟩ = some statDesc ∧ NoUpset s ∧ 0 ∈ unfolded statDesc ∧ (∀ l ∈ s.lent, l.unit / 4096 ≠ 2)
        ∧ (∀ j ∈ statDesc.mx.jobs, j.band = 0 → j.drained = true) ∧ foldHeld s statDesc 0 = false
        ∧ tFmt S = .fp32 ∧ Apart S (tBase s S (dStag statDesc)) (List.range (2 * g.m))
        ∧ ((bandRows g 0).zip (maskOf statDesc 0))[0]? = some (0, true)
        ∧ ((rowStat ((List.range g.n).map (fun c => elemGet s [] D (tBase s D (dStag statDesc)) (0 * D.d0 + c)))
            ((statDesc.mx.rowMax.filter (fun m => m.1 == 0)).map (fun m => m.2.2.getD 0 none))).1.isSome = true)
        ∧ ((rowStat ((List.range g.n).map (fun c => elemGet s [] D (tBase s D (dStag statDesc)) (0 * D.d0 + c)))
            ((statDesc.mx.rowMax.filter (fun m => m.1 == 0)).map (fun m => m.2.2.getD 0 none))).2.isSome = true)) := by
  refine ⟨⟨by decide +kernel, by decide +kernel, by decide +kernel, by decide +kernel,
    apart_of_check _ _ _ (by decide +kernel) (by decide +kernel) (by decide +kernel), by decide +kernel, by decide +kernel⟩,
    by decide +kernel, by decide +kernel, by decide +kernel, by decide +kernel, by decide +kernel, by decide +kernel, by decide +kernel,
    by decide +kernel, apart_of_check _ _ _ (by decide +kernel) (by decide +kernel) (by decide +kernel),
    by decide +kernel, by decide +kernel, by decide +kernel⟩

/-! ### CTRL descriptors and steps -/

/-- A CTRL descriptor of context 5 by itself in flight. -/
def ctrl (op w0 : Nat) (ws : List Nat) (s : State) : State := flying (desc 5 0 2 5 op w0 ws) s

/-- Step 7 live in a state. -/
def live (st : StepSt) : State := { stepping with steps := [{ aStep 7 with st := st }] }

theorem test_CtrlDescriptorsRetire :
    (let d := desc 5 0 2 5 0 (2 ^ 36 + 3 * 2 ^ 16) [0, 0, 0, 0, 0, 0, 0]
     Starts (flying d ringed) 5 0 2 5 0 d)
    ∧ (let d := desc 5 0 2 5 9 (2 ^ 36 + 3 * 2 ^ 16) [3 + 9 * 2 ^ 8, 0, 0, 0, 0, 0, 0]
       Starts (flying d ringed) 5 0 2 5 9 d)
    ∧ (let d := desc 5 0 2 5 8 (3 * 2 ^ 50) [1, 0, 0, 0, 0, 0, 0]
       let s := flying d (live .opened)
       Starts s 5 0 2 5 8 d ∧ InStep s 5 d (aStep 7) ∧ (aStep 7).st = .opened
        ∧ bindsBefore { d with step := some (aStep 7).num } (aStep 7) s ≤ 4095)
    ∧ (let d := desc 5 0 2 5 11 0 [0x30000, 0, 0, 0, 0, 0, 0]
       let s := flying d ringed
       Starts s 5 0 2 5 11 d ∧ linkUp s = true ∧ dWord d 1 + 64 ≤ 2 ^ 64 ∧ slotAddr s 5 0 2 + 64 ≤ dWord d 1) := by
  decide +kernel

/-- A BARRIER armed for 1,000 ns, 300 ns before it, with Steam allowed. -/
def ramping : State :=
  { ringed with
    oppWord := BitVec.ofNat 64 (withBits 0 (F.OPP_ENT_STEAM 0).lo 1 1)
    bob := 700 * 2 ^ 40
    inflight := [{ desc 5 0 2 5 10 0 [1000, 0, 0, 0, 0, 0, 0] with run := .running, armed := true }] }

theorem test_BarriersAndStartWaves :
    (let d := desc 5 0 2 5 10 0 [500, 0, 0, 0, 0, 0, 0]
     let s := flying d { ringed with bob := 500 * 2 ^ 40 }
     Starts s 5 0 2 5 10 d ∧ dWord d 1 ≤ nowNs s)
    ∧ (let d := desc 5 0 2 5 10 0 [500, 0, 0, 0, 0, 0, 0]
       let s := flying d { ringed with bob := 499 * 2 ^ 40 }
       Starts s 5 0 2 5 10 d ∧ nowNs s < dWord d 1)
    ∧ (let d := { desc 5 0 2 5 10 0 [500, 0, 0, 0, 0, 0, 0] with run := .running }
       let s := flying d { ringed with bob := 500 * 2 ^ 40 }
       findDesc s 5 0 2 = some d ∧ dClass d = 5 ∧ dOp d = 10 ∧ d.run = .running ∧ dWord d 1 ≤ nowNs s)
    ∧ (preRampDue ramping 2 = true ∧ ramping.cmpUp = true ∧ onArray ramping 4 2 (0, 4) = [] ∧ (engRt ramping 4 2).steam = false
      ∧ steamAllowed ramping 4 2 = true)
    ∧ (let s := { up with bob := 1750 * 2 ^ 40, waveHeld := [6, 7] }
       s.waveT + 250 * 7 ≤ nowNs s ∧ 7 ∉ s.waveDue)
    ∧ (let s := { ramping with bob := 1750 * 2 ^ 40, waveDue := [7] }
       s.waveT + 250 * 7 ≤ nowNs s ∧ 7 ∈ s.waveDue ∧ s.cmpUp = true ∧ onArray s 4 7 (0, 4) = [] ∧ steamAllowed s 4 7 = true) := by
  decide +kernel

theorem test_StepsOpenCloseAndVote :
    (let d := desc 5 0 2 5 1 (3 * 2 ^ 50) [7, 1, 0, 0, 0, 0, 0]
     let s := flying d (with' [(F.STEPSTAT_LAST_HEM_VALID, 1), (F.STEPSTAT_LAST_HEM_STEP, 6)] stepping)
     findDesc s 5 0 2 = some d ∧ dClass d = 5 ∧ dOp d = 1 ∧ d.run = .fetched ∧ eligible s d = true ∧ 5 = stepCtx s
      ∧ rf s F.STEPSTAT_LAST_HEM_VALID = 1 ∧ rf s F.SEAM_OSTAT_OWN = 0 ∧ s.steps = []
      ∧ (∀ e ∈ s.inflight, e.ctx = 5 → e.run = .fetched → namesStep e = false → dStag e ≠ 7 % 4 ∧ e.step ≠ some 7)
      ∧ bitsOf (dWord d 1) 0 48 = rf s F.STEPSTAT_LAST_HEM_STEP + 1 ∧ bitsOf (dWord d 1) 48 1 = 0)
    ∧ (let d := desc 5 0 2 5 1 (2 ^ 48 + 2 * 2 ^ 50) [6 + 2 ^ 48, 1, 0, 0, 0, 0, 0]
       let s := flying d { with' [(F.STEPSTAT_LAST_HEM_VALID, 1), (F.STEPSTAT_LAST_HEM_STEP, 6)] stepping with lastDisc := [7] }
       findDesc s 5 0 2 = some d ∧ eligible s d = true ∧ s.steps = [] ∧ bitsOf (dWord d 1) 0 48 ≠ rf s F.STEPSTAT_LAST_HEM_STEP + 1)
    ∧ (let d := desc 5 0 2 5 1 0 [8, 1, 0, 0, 0, 0, 0]
       let s := flying d (with' [(F.STEPSTAT_LAST_HEM_VALID, 1), (F.STEPSTAT_LAST_HEM_STEP, 6), (F.STEPCFG_CTL_OVERLAP, 1)]
         (live .closing))
       findDesc s 5 0 2 = some d ∧ eligible s d = true ∧ s.steps = [{ aStep 7 with st := .closing }] ∧ bitsOf (dWord d 1) 0 48 = 7 + 1
        ∧ bitsOf (dWord d 1) 48 1 = 0 ∧ rf s F.STEPCFG_CTL_OVERLAP = 1 ∧ rf s F.STEPSTAT_LAST_HEM_VALID = 1 ∧ rf s F.SEAM_OSTAT_OWN = 0)
    ∧ (let d := desc 5 0 2 5 2 (3 * 2 ^ 50) [7, 0, 0, 0, 0, 0, 0]
       let s := flying d (live .opened)
       Starts s 5 0 2 5 2 d ∧ InStep s 5 d (aStep 7))
    ∧ (let s := live .closing
       let x := { aStep 7 with st := .closing }
       findStep s 7 = some x ∧ x.st = .closing ∧ closeDone s x = true ∧ s.ownBad = false ∧ s.cmpUp = true ∧ x.early = []) := by
  refine ⟨by decide +kernel, by decide +kernel, by decide +kernel, by decide +kernel, by decide +kernel⟩

theorem test_VoteCellIsCombined :
    consumerUp (live .voting) 4 = true ∧ findStep stepping 7 = none
    ∧ (findStep (live .closing) 7 = some { aStep 7 with st := .closing } ∧ (aStep 7).epoch = (1#32).toNat ∧ (aStep 7).sealed = false)
    ∧ findStep (live .voting) 7 = some { aStep 7 with st := .voting } := by
  decide +kernel

/-- Step 7 VOTING with a complete reduction and a severity. -/
def voted (sev : Nat) : State := { stepping with steps := [{ aStep 7 with st := .voting, axis := 4, vote := ⟨sev, 3, 0x11⟩ }] }

/-- A vote control of step 7, epoch 1. -/
def voteDesc (op hem : Nat) : Desc := desc 5 0 2 5 op 0 [7, 1 + hem * 2 ^ 32, 0, 0, 0, 0, 0]

theorem test_VotesAreDecided :
    (∀ sev, sev < 3 → findStep (voted sev) 7 = some { aStep 7 with st := .voting, axis := 4, vote := ⟨sev, 3, 0x11⟩ }
      ∧ voteDone (voted sev) { aStep 7 with st := .voting, axis := 4, vote := ⟨sev, 3, 0x11⟩ } = true ∧ (voted sev).cmpUp = true)
    ∧ (let s := flying (voteDesc 3 0) (live .voting)
       let x := { aStep 7 with st := .voting }
       findDesc s 5 0 2 = some (voteDesc 3 0) ∧ dClass (voteDesc 3 0) = 5 ∧ dOp (voteDesc 3 0) = 3 ∧ (voteDesc 3 0).run = .fetched
        ∧ s.cmpUp = true ∧ s.steps.find? (fun y => y.num == 7 && y.epoch == 1) = some x ∧ findStep s 7 = some x)
    ∧ (let s := flying (voteDesc 4 1) (live .unresolved)
       let x := { aStep 7 with st := .unresolved }
       findDesc s 5 0 2 = some (voteDesc 4 1) ∧ dOp (voteDesc 4 1) = 4 ∧ s.steps.find? (fun y => y.num == 7 && y.epoch == 1) = some x
        ∧ findStep s 7 = some x ∧ outcomeOf s 7 1 = 0)
    ∧ (let s := flying (voteDesc 4 1) { stepping with outcomes := [(7, 1, 2)] }
       findDesc s 5 0 2 = some (voteDesc 4 1) ∧ s.cmpUp = true
        ∧ (outcomeOf s 7 1, bitsOf (dWord (voteDesc 4 1) 2) 32 1) ∈ [(1, 0), (2, 1)]) := by
  decide +kernel

theorem test_VoteConflictIsRefused :
    let s := flying (voteDesc 4 0) { stepping with outcomes := [(7, 1, 1)] }
    findDesc s 5 0 2 = some (voteDesc 4 0) ∧ dClass (voteDesc 4 0) = 5 ∧ dOp (voteDesc 4 0) = 4 ∧ (voteDesc 4 0).run = .fetched
      ∧ s.cmpUp = true ∧ outcomeOf s (bitsOf (dWord (voteDesc 4 0) 1) 0 48) (bitsOf (dWord (voteDesc 4 0) 2) 0 32) = 1
      ∧ bitsOf (dWord (voteDesc 4 0) 2) 32 1 = 0 ∧ (ctxRt s 5).held.length < 64
      ∧ linkServes { s with regs := (with' [(F.HIF_LINK_MODE, 0)] s).regs } = false
      ∧ (let t := setRingRt 5 3 ⟨1, 0, false, 0⟩
           (with' [(F.CTX_RING_CTL_ENABLE 5 3, 1), (F.CTX_RING_CTL_LOG2 5 3, 4), (F.CTX_RING_BASE 5 3, 0x18000)]
             (hostPoke 0x18000 (leBytes (2 ^ 63) 8) s))
         noticeSlot t 5 = some 0x18000 ∧ (ctxRt t 5).held = [] ∧ slotAddr t 5 0 2 + 64 ≤ 0x18000) := by
  decide +kernel

/-- The own update of step 7, begun. -/
def anUpdate : UpdateRec := ⟨7, 1, [], [], 0, true, true, false, 0, 0, 11, 0, none⟩

/-- The machine that runs it. -/
def updating : State := { live .hemming with upds := [anUpdate], winHold := true }

/-- A group of two elements under SGD_M, with its gradient at 0x5000: P, V1, W and W8 lie apart. -/
def aGroup : List Word :=
  ([2 + 2 ^ 40 + 2 ^ 44, 0x100, 0x200, 0x300, 0x400, 0, 0x3F000000, 0, 0, 2 ^ 33, 0, 0, 0, 0, 0, 0, 0x5000] : List Nat).map (BitVec.ofNat 64)

/-- The machine whose update is of that group alone. -/
def updatingGroup : State :=
  { inForce' [(F.SEAM_STATE_BASE, 0x10000), (F.SEAM_STATE_SIZE_BYTES, 0x1000)] updating with
    upds := [{ anUpdate with records := [aGroup] }] }

theorem test_StepsEnd :
    (∀ s ∈ [updating, updatingGroup], ∃ u, s.upds = u :: [] ∧ u.step = 7 ∧ u.begun = true ∧ s.ownBad = false ∧ fillRuns s = false
      ∧ pressRuns s = false ∧ tripped s = false ∧ s.memUp = true ∧ s.cmpUp = true ∧ NoUpset s ∧ s.winHold = true
      ∧ ∀ b ∈ updateBlocks u.records, accessHeld s .update (byteRun ((b.1.getD 16 0).toNat + 2 * b.2.1) (2 * b.2.2)
        ++ blockReads (ownAddr s) (groupOf b.1) b.2.1 b.2.2) = false)
    ∧ (let g := groupOf aGroup
       let u : UpdateRec := { anUpdate with records := [aGroup] }
       u.records = [aGroup] ∧ u.progress = 0 ∧ u.press = false ∧ g.count = 2 ∧ fmtBlocked ((fmtOfCode g.w8fmt).getD .fp8E4M3) = false
        ∧ GroupApart g g.count ∧ ∀ x ∈ groupParts g g.count, x.1 + x.2 ≤ ff updatingGroup F.SEAM_STATE_SIZE_BYTES)
    ∧ (findStep (live .stopped) 7 = some { aStep 7 with st := .stopped } ∧ (live .stopped).cmpUp = true) := by
  refine ⟨fun s h => ?_, by decide +kernel, by decide +kernel⟩
  simp only [List.mem_cons, List.not_mem_nil, or_false] at h
  rcases h with rfl | rfl
  · exact ⟨anUpdate, by decide +kernel⟩
  · exact ⟨{ anUpdate with records := [aGroup] }, by decide +kernel⟩

theorem test_RecoverableEventsKeepTheVerdict :
    (let s := { synPut 3 0x0B (synPut 5 1 up) with scrubAt := 5 }
     (∀ w, w < 10 → tackClassify (synGet s w) ≠ .uncorrectable) ∧ tackClassify (synGet s 3) ≠ .clean
      ∧ tackClassify (synGet s s.scrubAt) ≠ .uncorrectable) := by
  decide +kernel

/-! ### Data movers and collectives -/

/-- A MOVE of 8 bytes between host address 0x60010 (LOCAL: tensor 2) and tensor 1, and the same with its burst outstanding. -/
def moveDesc (op : Nat) : Desc := desc 5 2 0 4 op 0 [if op = 3 then 2 * 2 ^ 48 else 0x60010, 2 ^ 48, 8, 0, 0, 0, 0]

/-- Its burst outstanding. -/
def moveRun (op : Nat) : Desc := { moveDesc op with run := .running, dm := ⟨8, [(0, 8)], [], false, none, [0], []⟩ }

/-- The machine with it; host memory holds 5 there. -/
def moving' (op : Nat) : State := flying (moveRun op) (words 0x60010 [5] vectors)

/-- A MOVE whose channel is halted. -/
def haltedMove : Desc := { moveDesc 1 with run := .running, dm := ⟨0, [], [], true, none, [], []⟩ }

theorem test_MovesIssueBurstsHaltAndResume :
    (∀ op ∈ [1, 2, 3],
      (let s := flying (moveDesc op) vectors
       let d := moveDesc op
       Starts s 5 2 0 4 op d ∧ rf s (F.DM_STAT_HALTED (dmChan s 5)) ≠ 1 ∧ linkUp s = true ∧ s.memUp = true ∧ s.hifUp = true
        ∧ Untainted s ∧ (∀ e ∈ earlierOf s d, e.run = .finished ∨ issuedAll e = true) ∧ linkBusy s = false
        ∧ (∀ e ∈ s.inflight, waitBursts e = []) ∧ d.dm = ⟨0, [], [], false, none, [], []⟩ ∧ d.fails = []
        ∧ othersOut s d < 4 ∧ 0 < mvLen d
        ∧ servedFromKeep s d = false ∧ tagged s 5 = false))
    ∧ (burstOwner (moving' 1) 5 0 = some (moveRun 1, 8) ∧ burstOwner (moving' 2) 5 0 = some (moveRun 2, 8) ∧ dOp (moveRun 1) ≠ 3
      ∧ burstOwner (moving' 3) 5 0 = some (moveRun 3, 8) ∧ linkBusy (moving' 1) = true
      ∧ (∀ e ∈ chanMoves (moving' 1) 5, findDesc (moving' 1) e.ctx 2 e.cnt = some e ∧ dOp e = 1)
      ∧ (∀ e ∈ chanMoves (moving' 2) 5, findDesc (moving' 2) e.ctx 2 e.cnt = some e)
      ∧ rf (moving' 1) (F.DM_STAT_HALT_ERR 5) = 0)
    ∧ (let s := with' [(F.DM_STAT_HALT_ERR 5, 1)] (moving' 2)
       burstOwner s 5 0 = some (moveRun 2, 8) ∧ dOp (moveRun 2) ≠ 3 ∧ rf s (F.DM_STAT_HALT_ERR 5) = 1
        ∧ ∀ e ∈ chanMoves s 5, findDesc s e.ctx 2 e.cnt = some e)
    ∧ (∀ op ∈ [1, 2],
      (let d := desc 5 2 1 4 op 0 [0x60020, 3 * 2 ^ 48, 8, 0, 0, 0, 0]
       let s := { moving' op with inflight := [moveRun op, d] }
       Starts s 5 2 1 4 op d ∧ linkBusy s = true ∧ (∀ e ∈ earlierOf s d, e.run = .finished ∨ issuedAll e = true) ∧ othersOut s d < 4
        ∧ servedFromKeep s d = false))
    ∧ (haltedOf (flying haltedMove vectors) 5 = some haltedMove ∧ HostReaches (flying haltedMove vectors)) := by
  refine ⟨by decide +kernel, by decide +kernel, by decide +kernel, by decide +kernel, by decide +kernel⟩

theorem test_BurstMovesItsBytes :
    ∀ op ∈ [1, 2, 3], burstOwner (moving' op) 5 (0#40).toNat = some (moveRun op, 8) ∧ NoUpset (moving' op)
      ∧ findDesc (moving' op) (moveRun op).ctx 2 (moveRun op).cnt = some (moveRun op) ∧ 0 < (burstSpan (moving' op) (moveRun op) 0 8).2
      ∧ (moveRun op).dm.badAt = none ∧ burstHeld (moving' op) (moveRun op) (0#40).toNat 8 = false
      ∧ dOp (moveRun op) = op ∧ (moveRun op).step = none ∧ linkUp (moving' op) = true := by
  decide +kernel

/-- The device at the origin of a fabric of four devices along X, assigned, its step context 5 and step 7 live. -/
def fabric : State :=
  let s := with' [(F.STEPCFG_CTL_STEP_CTX, 5), (F.SEAM_OSTAT_OWN, 0)] vectors
  { inForce' [(F.ROUTE_ID_VALID, 1), (F.ROUTE_SHAPE_X, 3), (F.ROUTE_SHAPE_Z, 3)] s with steps := [aStep 7] }

/-- A COLL descriptor of context 5 over an axis mask: tensor 1 to tensor 3, tag 5. -/
def collDesc (op axes dir : Nat) : Desc :=
  desc 5 1 0 3 op (3 * 2 ^ 50) [1 + 3 * 2 ^ 16, axes + dir * 2 ^ 10, 2, 0, 5, 0, 0]

/-- `fabric` with vectors 1 and 3 of eight elements. -/
def fabricLong : State := tensor 1 0x1000 0x0A 0 8 (tensor 3 0x3000 0x0A 0 8 fabric)

/-- A reduction or a gather of them along X. -/
def longDesc (op : Nat) : Desc := desc 5 1 0 3 op (3 * 2 ^ 50) [1 + 3 * 2 ^ 16, 1, if op = 3 then 2 else 8, 0, 5, 0, 0]

/-- A BROADCAST along X from coordinate 2. -/
def rootElsewhere : Desc := desc 5 1 0 3 4 (3 * 2 ^ 50) [1 + 3 * 2 ^ 16, 1 + 2 * 2 ^ 11, 2, 0, 5, 0, 0]

/-- A SEND in direction plus of an axis that waits for its READY. -/
def aSend (axes : Nat) : Desc :=
  { collDesc 5 axes 1 with run := .running, step := some 7, coll := { (collDesc 5 axes 1).coll with own := [1, 2, 3, 4, 5, 6, 7, 8] } }

/-- A RECV from the neighbour in direction minus along X. -/
def recvWaits : Desc := { collDesc 6 1 0 with run := .running, step := some 7, coll := { (collDesc 6 1 0).coll with total := 8 } }

/-- A packet to this device. -/
def packet (typ : BitVec 4) (src : BitVec 14) (tag off : BitVec 32) (bs : List Byte) : Packet :=
  ⟨0, src, 0, 0, 3, 5, typ, tag, off, bs, false, 0⟩

/-- The announcement of READY for the SEND along an axis with capacity 8. -/
def readyPkt (axis src : Nat) : Packet :=
  packet 7 (BitVec.ofNat 14 src) 0 0 (leBytes (1 + 16 + 32 + axis * 64 + 5 * 2 ^ 32) 8 ++ leBytes 0 8 ++ leBytes 8 8)

theorem test_CollectivesStart :
    (∀ op ∈ [1, 2, 3, 4],
      Starts (flying (collDesc op 1 0) fabric) 5 1 0 3 op (collDesc op 1 0) ∧ ceFree (flying (collDesc op 1 0) fabric) (collDesc op 1 0) = true
        ∧ (piecesOf (flying (collDesc op 1 0) fabric) (collDesc op 1 0)).isSome = true
        ∧ collHeld (flying (collDesc op 1 0) fabric) (collDesc op 1 0) = false
        ∧ NoUpset (flying (collDesc op 1 0) fabric) ∧ cComp (collDesc op 1 0) = 0 ∧ allDirs fabric (collDesc op 1 0) ≠ []
        ∧ assigned fabric = true)
    ∧ (∀ op ∈ [1, 2, 3],
      (let d := longDesc op
       let s := flying d fabricLong
       let S := tensorEntry s d.ctx (cSrc d)
       let base := tBase s S (dStag d)
       let n := axisSize s 0
       let x := myCoord s 0
       let vec := (List.range (cCount d)).map (fun i => (elemGet s [] S base i).getD fvZero)
       Starts s 5 1 0 3 op d ∧ ceFree s d = true ∧ collHeld s d = false ∧ NoUpset s ∧ cComp d = 0 ∧ liveAxes s d = [0] ∧ s.readys = []
        ∧ (op = 3 → (rawRead s S base 0 (cCount d)).length = packedBytes S (cCount d))
        ∧ (if op = 3 then byteHalf (rawRead s S base 0 (cCount d)) 1
           else (shardHalf vec n ((x + n - 1) % n) 1).flatMap (partBytes (wideInt s d))) ≠ []))
    ∧ (let s := flying (collDesc 4 1 0) fabric
       let d := collDesc 4 1 0
       let S := tensorEntry s d.ctx (cSrc d)
       bcastAxis s d = none ∧ liveAxes s d ≠ [] ∧ rawRead s S (tBase s S (dStag d)) 0 (cCount d) ≠ [])
    ∧ (let d := rootElsewhere
       let s := flying d fabric
       Starts s 5 1 0 3 4 d ∧ ceFree s d = true ∧ collHeld s d = false ∧ bcastAxis s d ≠ none ∧ s.readys = []
        ∧ 0 < packedBytes (tensorEntry s d.ctx (cDst d)) (cCount d))
    ∧ (let s := flying (collDesc 5 1 1) fabric
       let d := collDesc 5 1 1
       Starts s 5 1 0 3 5 d ∧ ceFree s d = true ∧ collHeld s d = false ∧ d.coll.cap = none ∧ s.readys.find? (readyOfSend s d) = none)
    ∧ (let s := flying (collDesc 5 4 1) { fabric with readys := [readyOf (readyPkt 2 4)] }
       let d := collDesc 5 4 1
       let S := tensorEntry s d.ctx (cSrc d)
       Starts s 5 1 0 3 5 d ∧ ceFree s d = true ∧ collHeld s d = false ∧ d.fails = []
        ∧ s.readys.find? (readyOfSend s d) = some (readyOf (readyPkt 2 4))
        ∧ (rawRead s S (tBase s S (dStag d)) 0 (cCount d)).length ≤ (readyOf (readyPkt 2 4)).value
        ∧ holdsNew s (cClass d) = false ∧ tagged s 5 = true ∧ stepOfTag s (dStag d) = some (aStep 7) ∧ (aStep 7).taint = []
        ∧ findStep s 7 = some (aStep 7) ∧ p2pAxis d = 2)
    ∧ (let s := flying (collDesc 6 1 0) fabric
       let d := collDesc 6 1 0
       Starts s 5 1 0 3 6 d ∧ ceFree s d = true ∧ collHeld s d = false ∧ 0 < packedBytes (tensorEntry s d.ctx (cDst d)) (cCount d)
        ∧ stepOfTag s (dStag d) = some (aStep 7) ∧ findStep s 7 = some (aStep 7) ∧ (aStep 7).replay = false ∧ tagged s 5 = true) := by
  refine ⟨by decide +kernel, by decide +kernel, by decide +kernel, by decide +kernel, by decide +kernel, by decide +kernel,
    by decide +kernel⟩

/-- 256 READYs held for neighbour 1 of direction plus. -/
def readysFull : State := { fabric with readys := List.replicate 256 ⟨1, true, 1, 0, 9, 1, 3, 0, 8⟩ }

/-- 256 VERIFYs held for the same. -/
def verifiesFull : State := { fabric with verifies := List.replicate 256 ⟨7, 9, 1, 1, 8⟩ }

/-- The VERIFY of one SEND is due. -/
def sentOne : State := { fabric with sends := [(⟨5, 3, 7, 1, 5, 8⟩ : SentSend)] }

/-- A packet of the first eight bytes of a SEND of step 7 from neighbour 1 is kept. -/
def keptOne : State := { fabric with kept := [⟨7, true, 9, 1, 1, 0, 0xB7C0000000, 8, false, false, 8, 8, false⟩] }

theorem test_ReadiesAndVerifies :
    (let s := flying (aSend 1) fabric
     consumerUp s 7 = true ∧ (readyOf (readyPkt 0 1)).kind = 1 ∧ (readyOf (readyPkt 0 1)).p2p = true
      ∧ readyFor s (readyOf (readyPkt 0 1)) = some (aSend 1) ∧ (aSend 1).fails = []
      ∧ (aSend 1).coll.own.length ≤ (readyOf (readyPkt 0 1)).value ∧ fenceSays s 1 0 = .take
      ∧ assigned s = true ∧ holdsNew s (cClass (aSend 1)) = false)
    ∧ (let s := flying (aSend 4) fabric
       readyFor s (readyOf (readyPkt 2 4)) = some (aSend 4) ∧ (aSend 4).step = some 7 ∧ p2pAxis (aSend 4) = 2
        ∧ fenceSays s 4 0 = .take ∧ sendTainted s (aSend 4) = false)
    ∧ (readyFor fabric (readyOf (readyPkt 0 1)) = none ∧ readyEnded fabric (readyOf (readyPkt 0 1)) = false
      ∧ readyFor readysFull (readyOf (readyPkt 0 1)) = none
      ∧ 256 ≤ (readysFull.readys.filter (fun x => x.src == 1 && x.dirn == 1)).length)
    ∧ (consumerUp fabric 6 = true ∧ findStep fabric 8 = none ∧ findStep fabric 7 = some (aStep 7)
      ∧ (fabric.verifies ++ [(⟨7, 9, 1, 1, 8⟩ : HeldVerify)]).all (fun y => !verifyCovered fabric y) = true
      ∧ findStep keptOne 7 = some (aStep 7) ∧ verifyCovered keptOne ⟨7, 9, 1, 1, 8⟩ = true)
    ∧ (findStep verifiesFull 7 = some (aStep 7) ∧ verifyCovered verifiesFull ⟨7, 9, 1, 1, 8⟩ = false
      ∧ 256 ≤ (verifiesFull.verifies.filter (fun y => y.src == 1 && y.dirn == 1)).length)
    ∧ (sentOne.sends.find? (fun x => x.ctx == 5 && x.cnt == 3) = some (⟨5, 3, 7, 1, 5, 8⟩ : SentSend)
      ∧ sendWaits sentOne ⟨5, 3, 7, 1, 5, 8⟩ = false ∧ assigned sentOne = true) := by
  refine ⟨by decide +kernel, by decide +kernel, by decide +kernel, by decide +kernel, by decide +kernel, by decide +kernel⟩

/-- An ALLREDUCE along X that runs. -/
def reducing : Desc := { collDesc 1 1 0 with run := .running, coll := { (collDesc 1 1 0).coll with streams :=
  [⟨0, 1, [], 0, false, 0, [], 0, 0, 0⟩, ⟨0, 0, [], 0, false, 0, [], 0, 0, 0⟩] } }

/-- `fabric` with vector 3 of signed bytes, and with a step that keeps up to 1 MiB. -/
def fabricBytes : State := tensor 3 0x3000 0x0B 0 2 fabric

/-- `fabric` with a step that keeps up to 1 MiB. -/
def fabricKeeps : State := { fabric with steps := [{ aStep 7 with budget := 1 }] }

theorem test_CollectivePacketsAndFences :
    (let s := flying reducing fabric
     let p := packet 8 3 (BitVec.ofNat 32 (transferId reducing)) 0 [1, 2]
     consumerUp s 8 = true ∧ isFence p = false ∧ p.abort = false ∧ collFor s p.tag.toNat = some reducing
      ∧ fenceSays s p.src.toNat p.tclass.toNat = .take ∧ (∃ x ∈ reducing.coll.streams, x.axis = 0 ∧ x.dirn = 1) ∧ NoUpset s
      ∧ cComp reducing = 0 ∧ multiSum s reducing = false ∧ p.typ = 8#4)
    ∧ (let p := packet 9 3 5 0 [1, 2]
       let f := packet 9 3 5 0xFFFFFFFF []
       consumerUp fabric 9 = true ∧ p.typ = 9#4 ∧ isFence p = false ∧ isFence f = true
        ∧ (3, 0) ∈ { fabric with fenceNeed := [(3, 0)] }.fenceNeed ∧ p.abort = false
        ∧ ((3, 0) ∉ { fabric with fenceGot := [(3, 0)] }.fenceNeed ∧ (3, 0) ∈ { fabric with fenceGot := [(3, 0)] }.fenceGot))
    ∧ (let s := flying recvWaits fabric
       let p := packet 9 3 5 0 [1, 2]
       stepOfTag s p.stag.toNat = some (aStep 7) ∧ fenceSays s p.src.toNat p.tclass.toNat = .take
        ∧ recvFor s ⟨0, true, false, 0, 8, p, 0⟩ = some recvWaits ∧ recvWaits.coll.recvd + p.payload.length < 8
        ∧ recvFor s ⟨0, true, false, 0, 8, { p with abort := true }, 0⟩ = some recvWaits)
    ∧ (let s := flying recvWaits fabricBytes
       let p := packet 9 3 5 0 [1, 2]
       let D := tensorEntry s 5 (cDst recvWaits)
       recvFor s ⟨0, true, false, 2, 2, p, 0⟩ = some recvWaits ∧ NoUpset s ∧ recvWaits.fails = [] ∧ recvWaits.coll.parts = []
        ∧ recvWaits.coll.recvd = 0 ∧ p.payload.length = 2 ∧ tFmt D = .int8 ∧ D.layout = 0 ∧ D.rank = 0
        ∧ 2 ≤ cCount recvWaits ∧ cCount recvWaits ≤ tCount D)
    ∧ (let s := fabricKeeps
       let p := packet 9 3 5 0 [1, 2]
       let x : StepRec := { aStep 7 with budget := 1 }
       let w : Waiting := ⟨2, true, false, 8, 8, p, 0⟩
       consumerUp s 9 = true ∧ NoUpset s ∧ fenceSays s p.src.toNat p.tclass.toNat = .take ∧ stepOfTag s p.stag.toNat = some x
        ∧ p2pHeld s w = false ∧ findStep s x.num = some x ∧ x.st = .opened ∧ x.keepOver = false ∧ s.kept.find? (sameKept (keptOfPkt x.num w)) = none
        ∧ recvFor s w = none ∧ s.verifies = [] ∧ x.keepBytes + p.payload.length ≤ x.budget * 2 ^ 20
        ∧ (keepPlace s p.payload.length).isSome = true) := by
  refine ⟨by decide +kernel, by decide +kernel, by decide +kernel, by decide +kernel, by decide +kernel⟩

/-! ### The fabric and its ports -/

/-- `fabric` with table 0 ACTIVE, ports 0, 1 and 5 ACTIVE in MATCH; the entry of device 1 names port 1, of devices 2 and 3
none. -/
def routed : State :=
  with' [(F.ROUTE_TSTAT_STATE0, 1), (F.UBVOR_PSTAT_STATE 0, 6), (F.UBVOR_PSTAT_STATE 1, 6), (F.UBVOR_PSTAT_STATE 5, 6),
    (F.UBVOR_PCFG_ENABLE 0, 1), (F.ROUTE_NBR_STATE 0, 1), (F.ROUTE_NBR_STATE 1, 1), (F.ROUTE_NBR_STATE 5, 1)]
    (putReg (tableAddr 0 1) 0x0F0F0100 fabric)

/-- A packet to a device, with its TTL. -/
def sentTo (dst : BitVec 14) (ttl : BitVec 8) : Packet := { packet 8 3 0 0 [1, 2] with dst := dst, ttl := ttl, tclass := 1 }

theorem test_HeadCellIsConsumedDroppedOrSentOn :
    (portState routed 0 = 6 ∧ classOk (sentTo 0 5).typ.toNat (sentTo 0 5).tclass.toNat = true ∧ 4 ≤ (sentTo 0 5).typ.toNat
      ∧ rf routed (F.ROUTE_NBR_STATE 0) = 1 ∧ waitsFence routed (sentTo 0 5) = false
      ∧ waitsSeam routed (sentTo 0 5) = false ∧ (sentTo 0 5).dst.toNat = selfId routed ∧ assigned routed = true ∧ consumerUp routed 8 = true)
    ∧ (let s := inForce' [(F.SEAM_PEER_MIRROR_OF_VALID, 1), (F.SEAM_PEER_MIRROR_OF, 3)] routed
       let p := { sentTo 0 5 with typ := 10, tclass := 3, tag := 1 }
       waitsSeam s p = true ∧ portState s 0 = 6 ∧ classOk p.typ.toNat p.tclass.toNat = true ∧ p.dst.toNat = selfId s
        ∧ assigned s = true ∧ consumerUp s p.typ.toNat = true ∧ rf s (F.ROUTE_NBR_STATE 0) = 1)
    ∧ (let s := { routed with fenceGot := [(3, 1)] }
       let p := { sentTo 0 5 with typ := 9 }
       waitsFence s p = true ∧ portState s 0 = 6 ∧ classOk p.typ.toNat p.tclass.toNat = true ∧ p.dst.toNat = selfId s
        ∧ assigned s = true ∧ consumerUp s p.typ.toNat = true ∧ rf s (F.ROUTE_NBR_STATE 0) = 1)
    ∧ ((sentTo 2 5).dst.toNat ≠ selfId routed ∧ (sentTo 2 5).ttl ≠ 0 ∧ 12 ≤ tableEntry routed 0 2 % 16
      ∧ rf routed F.ROUTE_DROP_FIRST_VALID = 0)
    ∧ quarantined (with' [(F.ROUTE_NBR_STATE 0, 2)] routed) 0 = true
    ∧ (tableState routed 0 ≠ 0 ∧ tableEntry routed 0 1 % 16 = 1 ∧ quarantined routed 1 = false
      ∧ portState routed (carrier routed 1) = 6 ∧ rf routed (F.ROUTE_NBR_STATE (carrier routed 1)) = 1) := by
  decide +kernel

/-- No listed channel and no listed port holds a cell: none does. -/
theorem quiet_of_lists (s : State) (hv : s.vcs.all (fun e => e.2.queue == []) = true)
    (hp : s.ports.all (fun e => e.2.waitQ == [] && e.2.bobQ == []) = true) : Quiet s := by
  have one : ∀ {α : Type} (d : Nat → α) (q : α → Bool) (m : List (Nat × α)), (∀ k, q (d k) = true) →
      m.all (fun e => q e.2) = true → ∀ k, q (smGet d m k) = true := by
    intro α d q m hd
    induction m with
    | nil => intro _ k; exact hd k
    | cons e m ih =>
      intro h k
      simp only [List.all_cons, Bool.and_eq_true] at h
      simp only [smGet]
      split
      · exact h.1
      · exact ih h.2 k
  constructor
  · intro n v
    have := one (fun _ => vcFresh) (fun x => x.queue == []) s.vcs (fun _ => rfl) hv (8 * n + v)
    simpa [vcRt] using this
  · intro n
    have := one (fun _ => portFresh) (fun x => x.waitQ == [] && x.bobQ == []) s.ports (fun _ => rfl) hp n
    simpa [portRt] using this

/-- Cells outstanding, and freed since the last report, on channel 3 of port 0. -/
def flowing : State := setVcRt 0 3 ⟨[], 5, 0, 7, 6, none⟩ routed

theorem test_CreditsAndDiscovery :
    Quiet flowing ∧ carrier flowing 0 = 0 ∧ portState flowing 0 = 6 ∧ CanSend flowing 0 ∧ rf flowing (F.ROUTE_NBR_STATE 0) ∉ [0, 4] ∧ (∃ v, v < 8 ∧ (vcRt flowing 0 v).freed ≠ (vcRt flowing 0 v).reported)
    ∧ ff routed (F.ROUTE_PLAN_USE 0) = 0 ∧ ff (inForce' [(F.ROUTE_PLAN_USE 0, 1)] routed) (F.ROUTE_PLAN_USE 0) = 1
    ∧ Quiet routed ∧ CanSend routed 0 :=
  ⟨quiet_of_lists _ (by decide +kernel) (by decide +kernel), by decide +kernel,
    by decide +kernel, by decide +kernel, by decide +kernel, ⟨3, by decide +kernel⟩,
    by decide +kernel, by decide +kernel, quiet_of_lists _ (by decide +kernel) (by decide +kernel), by decide +kernel⟩

/-- A table in drain, on a fabric of one device. -/
def draining : State := with' [(F.ROUTE_TSTAT_STATE0, 1), (F.ROUTE_TSTAT_STATE1, 2)] (inForce' [(F.ROUTE_ID_VALID, 1)] up)

/-- The same on a fabric of four devices along X, with a packet consumed and none injected. -/
def drainingX : State := with' [(F.ROUTE_CONS1, 1)] (inForce' [(F.ROUTE_SHAPE_X, 3)] draining)

theorem test_DrainRoundsEndInIdle :
    drainingBit routed = none
    ∧ (drainingBit draining = some 1 ∧ tableState draining (1 - 1) ≠ 2 ∧ draining.drains.running = false
      ∧ (∀ a, a < 4 → axisSize draining a = 1) ∧ drainOwn draining 1 = 0 ∧ HostReaches draining)
    ∧ (drainOwn (with' [(F.ROUTE_CONS1, 1)] draining) 1 ≠ 0 ∧ drainingBit (with' [(F.ROUTE_CONS1, 1)] draining) = some 1)
    ∧ (drainingBit drainingX = some 1 ∧ 1 < axisSize drainingX 0 ∧ drainingX.drains.early = []) := by
  decide +kernel

/-- A child of the device at port 5 that waits for the answer to its request 9. -/
def child : State :=
  { with' [(F.BOBBIN_CFG_PARENT, 5)] routed with bob := 1000 * 2 ^ 40, servo := { routed.servo with seq := 9, waiting := true, good := 7 } }

theorem test_BobbinExchangesAndLocks :
    ((5 : Nat) = rf child F.BOBBIN_CFG_PARENT ∧ rf child (F.ROUTE_NBR_STATE 5) = 1 ∧ Quiet child ∧ CanSend child 5)
    ∧ (portState child (5 : Fin 12).val = 6 ∧ rf child (F.ROUTE_NBR_STATE 5) = 1 ∧ child.servo.waiting = true ∧ (9#16).toNat = child.servo.seq)
    ∧ (let x : Int × Int := (stampDiff (stamp child) (2 ^ 8 * 900) - stampDiff (2 ^ 8 * 900) (2 ^ 8 * 800), 0)
       x.1 = 0 ∧ 7 ≤ child.servo.good ∧ rf child F.CLK_CTL_SRC = 1)
    ∧ (let x := (stampDiff (stamp child) (2 ^ 8 * 700) - stampDiff (2 ^ 8 * 900) (2 ^ 8 * 800),
         stampDiff (2 ^ 8 * 900) (2 ^ 8 * 800) + stampDiff (stamp child) (2 ^ 8 * 700))
       2 * 50 * 256 < (bestExchange ((child.servo.last ++ [x]).reverse.take 8).reverse).1.natAbs
        ∧ rf (with' [(F.BOBBIN_STAT_LOCKED, 1)] child) F.BOBBIN_STAT_LOCKED = 1)
    ∧ (HostReaches up ∧ rf (with' [(F.BOBBIN_CFG_PARENT, 15)] up) F.BOBBIN_CFG_PARENT = 15 ∧ up.steps = []
      ∧ HostReaches child ∧ ¬ (rf child F.BOBBIN_CFG_PARENT = 15 ∧ child.steps = [])) := by
  refine ⟨⟨by decide +kernel, by decide +kernel, quiet_of_lists _ (by decide +kernel) (by decide +kernel), by decide +kernel⟩,
    by decide +kernel, by decide +kernel, by decide +kernel, by decide +kernel⟩

/-- Light of 0 dBm at every receiver of port 0, and lasers of 10 dBm. -/
def bright (s : State) : State :=
  putReg (R.UBVOR_RXP_LO 0) 0 (putReg (R.UBVOR_RXP_HI 0) 0 (putReg (R.UBVOR_LSP_LO 0) 0x2828282828282828 (putReg (R.UBVOR_LSP_HI 0) 0x2828282828282828 s)))

/-- Port 0 in a state, enabled, with light on every lane and a peer that offers both generations on all lanes. -/
def training (st : Nat) : State :=
  setPortRt 0 { portFresh with seen := 0xFFFF, peerGens := 3, peerGood := 0xFFFF, good := 0xFFFF, nonce := 77 }
    (bright (with' [(F.UBVOR_PCFG_ENABLE 0, 1), (F.UBVOR_PSTAT_STATE 0, st)] up))

/-- A port in WIDTH with too few good lanes. -/
def narrow : State := setPortRt 0 { portFresh with good := 0x7F, peerGood := 0xFFFF } (training 5)

theorem test_PortsTrain :
    ((∀ st < 7, (portRt (training st) 0).narrowing = false) ∧ (training 0).rtrUp = true ∧ rf (training 0) (F.UBVOR_PCFG_ENABLE 0) = 1 ∧ portBarred (training 0) 0 = false ∧ portState (training 0) 0 = 0)
    ∧ (let s := with' [(F.UBVOR_PCFG_ENABLE 0, 0)] (training 4)
       rf s (F.UBVOR_PCFG_ENABLE 0) = 0 ∧ portState s 0 ≠ 0)
    ∧ (portState (training 1) 0 = 1 ∧ rf (training 1) (F.UBVOR_PSTAT_FAULT 0) ∉ [2, 3, 4] ∧ 8 ≤ (lanesOf (lit (training 1) 0)).length)
    ∧ (portState (training 2) 0 = 2 ∧ rf (training 2) (F.UBVOR_PSTAT_FAULT 0) ∉ [5, 7]
      ∧ genChosen (gensOffered (bitsOf (portRt (training 2) 0).cfg 1 2)) (portRt (training 2) 0).peerGens ≠ 0
      ∧ 8 ≤ (lanesOf (portRt (training 2) 0).seen).length ∧ (78#64).toNat ≠ (portRt (training 2) 0).nonce
      ∧ (77#64).toNat = (portRt (training 2) 0).nonce
      ∧ genChosen (gensOffered (bitsOf (portRt (training 2) 0).cfg 1 2)) (bitsOf (0x35#64).toNat 4 2) ≠ 0)
    ∧ (portState (training 3) 0 = 3 ∧ 8 ≤ (lanesOf (0x00FF#16).toNat).length ∧ portState (training 4) 0 = 4)
    ∧ (portState (training 5) 0 = 5 ∧ widthSet (training 5) 0 = some (16, 0xFFFF) ∧ widthSet narrow 0 = none ∧ portState narrow 0 = 5)
    ∧ (portState (training 4) 0 ∉ [0, 6] ∧ portBarred (training 4) 0 = false) := by
  decide +kernel

/-- A port in ACTIVE with one block sent and not acknowledged, in sequence, where a dropped packet of four cells arrives on
channel 3; and one that drops blocks. -/
def linked (dropping : Bool) : State :=
  setVcRt 0 3 ⟨[], 5, 0, 7, 6, some ⟨packet 8 3 0 0 (List.replicate 100 0), 1, .gone⟩⟩
    (setPortRt 0 { portFresh with txNext := 4, retry := [(3, [])], rxNext := 8, rxPos := 8, dropping := dropping, resends := 200 }
      (with' [(F.UBVOR_PSTAT_LANES 0, 0xFFFF), (F.UBVOR_PSTAT_WIDTH 0, 3)] routed))

theorem test_LinkRetryLosesNothing :
    (∀ x ∈ [true, false], portState (linked x) 0 = 6 ∧ (portRt (linked x) 0).narrowing = false ∧ (portRt (linked x) 0).nakDue = none
      ∧ (portRt (linked x) 0).retry.length < 4096 ∧ (portRt (linked x) 0).dropping = x)
    ∧ Quiet (linked false) ∧ Quiet (linked true)
    ∧ (let p := portRt (linked false) 0
       p.retry.all (fun b => b.1 != (9#16).toNat) = true ∧ (9#16).toNat ≠ p.txNext ∧ p.rxPos = p.rxNext ∧ p.uncorr = []
        ∧ beforeTurn (linked false) 0 true true = false ∧ 1 < rf (linked false) F.UBVOR_QUAL_LANE_UNCORR_MAX ∧ p.retry ≠ [])
    ∧ (let x := vcRt (linked false) (carrier (linked false) 0) 3
       x.arr.map (·.dest) = some .gone ∧ ((x.freed + 1) % 65536 + 65536 - x.reported) % 65536 < 32) := by
  exact ⟨by decide +kernel, quiet_of_lists _ (by decide +kernel) (by decide +kernel),
    quiet_of_lists _ (by decide +kernel) (by decide +kernel), by decide +kernel, by decide +kernel⟩

/-- The port after lane 3 has gone bad: it narrows, out of ACTIVE. -/
def narrowing' : State :=
  setPortRt 0 { portFresh with narrowing := true, bad := 8, good := 0xFFFF } (bright (with' [(F.UBVOR_PSTAT_STATE 0, 5)] (linked false)))

theorem test_PortsNarrowDieAndRetrain :
    (let s := with' [(F.UBVOR_PSTAT_LANES 0, 0x00FF)] (linked false)
     portState s 0 = 6 ∧ (rf s (F.UBVOR_PSTAT_LANES 0)).testBit 3 = true ∧ (rf s (F.UBVOR_PSTAT_LANES 0)).testBit 9 = false
      ∧ (portRt s 0).narrowing = false)
    ∧ (let s := with' [(F.UBVOR_QUAL_LANE_UNCORR_MAX, 1)] (linked true)
       let p := portRt s 0
       portState s 0 = 6 ∧ p.narrowing = false ∧ p.dropping = true ∧ p.uncorr = [] ∧ rf s F.UBVOR_QUAL_LANE_UNCORR_MAX ≤ 1
        ∧ (rf s (F.UBVOR_PSTAT_LANES 0)).testBit (blockLane s 0 p.rxPos) = true ∧ p.bad.testBit (blockLane s 0 p.rxPos) = false)
    ∧ (let s := narrowing'
       (portRt s 0).narrowing = true ∧ portState s 0 ≠ 0
        ∧ (widthSet (setPortRt 0 { portRt s 0 with peerGood := bitsOf (0x0000FFFF00000000#64).toNat 32 16 } s) 0).isSome = true)
    ∧ (let s := linked false
       (portRt s 0).deadSaid = false ∧ portState s 0 = 6 ∧ rf s F.UBVOR_RETRY_RETRY_MAX ≤ (portRt s 0).resends
        ∧ rf s (F.UBVOR_PCFG_ENABLE 0) = 1 ∧ portBarred s 0 = false ∧ NoUpset s ∧ portInUse s 0 = true ∧ findStep s 7 = some (aStep 7)
        ∧ (aStep 7).st = .opened ∧ (aStep 7).sev = 0)
    ∧ (portState (training 2) 0 ≠ 6 ∧ (portRt (training 2) 0).deadSaid = false)
    ∧ (HostReaches (linked false) ∧ (linked false).steps ≠ [] ∧ { linked false with steps := [] }.steps = [])
    ∧ (let s := with' [(F.UBVOR_AGE_SAMPLE_MIN, 5)] (linked false)
       rf s F.UBVOR_AGE_SAMPLE_MIN ≠ 0 ∧ rf s (F.UBVOR_PCFG_ENABLE 0) = 1) := by
  refine ⟨by decide +kernel, by decide +kernel, by decide +kernel, by decide +kernel, by decide +kernel, by decide +kernel,
    by decide +kernel⟩

/-! ### Seam streams, images, checkpoints -/

/-- A holder of device 1's mirror, current for step 6, with device 2 its own partner; outcomes of steps 7 and 8 are recorded. -/
def holder' : State :=
  let s := with' [(F.SEAM_MSTAT_STATE, 2), (F.SEAM_MSTAT_STEP, 6)] (inForce' [(F.SEAM_PEER_MIRROR_OF_VALID, 1), (F.SEAM_PEER_MIRROR_OF, 1),
    (F.SEAM_PEER_PARTNER_VALID, 1), (F.SEAM_PEER_PARTNER, 2), (F.SEAM_MIRROR_BASE, 0x100000), (F.SEAM_MIRROR_SIZE_BYTES, 0x1000),
    (F.SEAM_HOLD_BASE, 0x400000)] fabric)
  { s with steps := [], outcomes := [(7, 1, 1), (8, 1, 2), (9, 1, 1)] }

/-- A Seam stream of step 7 being received. -/
def aStream (ended : Bool) : SeamRx := ⟨7, 1, 0, [], 0x1000, 0, 0, ended, false⟩

/-- The holder in it. -/
def streaming (ended : Bool) : State := { holder' with seamRx := some (aStream ended) }

/-- A waiting BEGIN whose outcome is known. -/
def waiting' : State := { holder' with seamWait := [(1, .opening 7 1 0 0x1000 0)] }

/-- The holder in a stream of the group of two elements. -/
def streamingGroup : State := { holder' with seamRx := some { aStream false with recs := [aGroup] } }

theorem test_SeamStreamsReachTheMirror :
    (consumerUp holder' 10 = true ∧ holder'.seamWait = [] ∧ holder'.seamHeld = [] ∧ fromOwner holder' (3#14).toNat = false ∧ fromOwner holder' (1#14).toNat = true
      ∧ outcomeOf holder' 7 1 = 1 ∧ rf holder' F.SEAM_MSTAT_STATE = 2 ∧ rf holder' F.SEAM_MSTAT_STEP + 1 = 7
      ∧ outcomeOf holder' 9 1 = 1 ∧ outcomeOf holder' 8 1 = 2 ∧ outcomeOf holder' 10 1 = 0)
    ∧ ((streaming false).seamRx = some (aStream false) ∧ (streaming true).seamRx = some (aStream true)
      ∧ (aStream true).ended = true ∧ (aStream false).dropping = false ∧ NoUpset (streaming false) ∧ mirrorHeld (streaming false) = false)
    ∧ (let rx : SeamRx := { aStream false with recs := [aGroup] }
       let g := groupOf aGroup
       streamingGroup.seamRx = some rx ∧ rx.dropping = false ∧ rx.recs = [aGroup] ∧ NoUpset streamingGroup
        ∧ mirrorHeld streamingGroup = false ∧ [1, 2, 3, 4].length = 2 * g.count
        ∧ fmtBlocked ((fmtOfCode g.w8fmt).getD .fp8E4M3) = false ∧ GroupApart g g.count)
    ∧ (consumerUp waiting' 10 = true ∧ waiting'.seamWait = [(1, .opening 7 1 0 0x1000 0)] ∧ outcomeOf waiting' 7 1 = 1 ∧ rf waiting' F.SEAM_MSTAT_STATE = 2
      ∧ rf waiting' F.SEAM_MSTAT_STEP + 1 = 7)
    ∧ (consumerUp holder' 10 = true ∧ fromPartner holder' (2#14).toNat = true ∧ 7 ∈ ({ holder' with seamTx := [7] } : State).seamTx
      ∧ holder'.tripPend = false)
    ∧ (let s := { holder' with restore := ⟨true, none, false, []⟩ }
       consumerUp s 11 = true ∧ s.restore.asked = true ∧ (List.replicate 32 (0#64)).length = 32
        ∧ s.restore.records.filter (fun r => r.1 < 2) = []) := by
  decide +kernel

/-- An image transfer whose bytes have all come. -/
def arrived (kind : Nat) : LoadRx := ⟨kind, 1, 6, 1, 0, [], 0x1000, 0x100, 0x1000, true, 0x1000, []⟩

/-- The device that receives it. -/
def receiving (kind : Nat) : State :=
  if kind = 1 then { holder' with fillRx := some (arrived kind) } else { holder' with loadRx := some (arrived kind) }

theorem test_CheckpointsAndImagesArrive :
    (consumerUp holder' 11 = true ∧ slotsHeld holder' = false ∧ recordsHeld holder' = false ∧ fromOwner holder' (3#14).toNat = false
      ∧ fromPartner holder' (3#14).toNat = false ∧ fromPartner holder' (2#14).toNat = true ∧ fromOwner holder' (2#14).toNat = false)
    ∧ (fromOwner holder' (1#14).toNat = true ∧ NoUpset holder' ∧ ({ holder' with ckptRx := some ⟨0, 0, 7⟩ } : State).ckptRx = some ⟨0, 0, 7⟩
      ∧ (4088#48).toNat + 8 ≤ ff holder' F.SEAM_MIRROR_SIZE_BYTES)
    ∧ (consumerUp holder' 12 = true ∧ holder'.fillRx = none ∧ (0xF00#48).toNat + (0x100#48).toNat = ff holder' F.SEAM_MIRROR_SIZE_BYTES)
    ∧ ((receiving 1).fillRx = some (arrived 1) ∧ (receiving 1).loadRx = none ∧ (receiving 2).loadRx = some (arrived 2)
      ∧ (receiving 2).fillRx = none)
    ∧ (∀ k ∈ [1, 2], loadWhole (arrived k) = true ∧ fromOwner (receiving k) (arrived k).src = true ∧ consumerUp (receiving k) 12 = true
      ∧ (arrived k).kind = k ∧ (4088#48).toNat + 8 ≤ (arrived k).total ∧ NoUpset (receiving k) ∧ imageHeld (receiving k) k = false) := by
  decide +kernel

theorem test_TransfersAndJobsStart :
    (HostReaches holder' ∧ NoUpset holder' ∧ holder'.tripPend = false ∧ (∀ k, k < 16 → ∀ x, x < 8 → regStops holder' k x = false)
      ∧ xferAllowed holder' 1 0 = true ∧ xferAllowed holder' 2 0 = true
      ∧ xferAllowed holder' 3 1 = false ∧ xferAllowed (with' [(F.SEAM_OSTAT_OWN, 2)] holder') 1 0 = false)
    ∧ (holder'.steps = [] ∧ holder'.xfer.isSome = false ∧ holder'.loadRx.isSome = false ∧ holder'.fillRx.isSome = false
      ∧ pressRuns holder' = false ∧ holder'.drain.isSome = false ∧ holder'.restore.running = false)
    ∧ (HostReaches fabric ∧ NoUpset fabric ∧ fabric.tripPend = false ∧ fabric.steps ≠ []
      ∧ ∀ k, k < 16 → ∀ x, x < 8 → regStops fabric k x = false) := by
  decide +kernel

/-- A press copy of 16 bytes of state. -/
def aPress (running efb : Bool) : Press := ⟨6, 1, 0, 0, 5, [], 77, running, efb⟩

/-- The device that makes it, or drains it. -/
def pressing (running efb : Bool) (d : Drain) : State :=
  let s := with' [(F.SEAM_HOST_SLOT_A, 0x80000)] (inForce' [(F.SEAM_STATE_BASE, 0x1000), (F.SEAM_STATE_SIZE_BYTES, 16), (F.SEAM_PRESS_BASE, 0x600000)] holder')
  { s with press := some (aPress running efb), drain := if running then none else some d }

/-- A drain to both destinations, and how far it is. -/
def aDrain (acked : Nat) (begun : Bool) : Drain := ⟨some acked, some 0, begun, []⟩

theorem test_PressCopyAndDrain :
    (∀ efb ∈ [true, false],
      let s := pressing true efb (aDrain 0 false)
      let src := ff s F.SEAM_STATE_BASE
      let n := ff s F.SEAM_STATE_SIZE_BYTES
      let en := ff s F.SEAM_EFB_SIZE_BYTES
      let b := pressBase s
      HostReaches s ∧ NoUpset s ∧ s.press = some (aPress true efb) ∧ memDrains s = true ∧ 0 < n
        ∧ accessHeld s .press (byteRun src n ++ byteRun b n) = false
        ∧ accessHeld s .press (byteRun (ff s F.SEAM_EFB_BASE) en ++ byteRun (b + n) en) = false
        ∧ (b + n + en ≤ src ∨ src + n ≤ b + n))
    ∧ (let s := pressing false true (aDrain 0 false)
       s.drain = some (aDrain 0 false) ∧ s.press = some (aPress false true) ∧ linkUp s = true
        ∧ accessHeld s .drain (byteRun (pressBase s) (imageSize s)) = false)
    ∧ (let s := pressing false true (aDrain 0 true)
       s.drain = some (aDrain 0 true) ∧ consumerUp s 11 = true ∧ fromPartner s (2#14).toNat = true
        ∧ (6#48).toNat = (aPress false true).step % 2 ^ 48 ∧ (7#48) ≠ 6)
    ∧ (let s := pressing false true (aDrain 1 true)
       s.drain = some (aDrain 1 true) ∧ (aDrain 1 true).partner ≠ some 0 ∧ NoUpset s ∧ linkServes s = true
        ∧ hostSlot s 0 + 256 ≤ 2 ^ 64) := by
  decide +kernel

/-- A device without a partner, and no live step. -/
def alone : State := { inForce' [(F.SEAM_PEER_PARTNER_VALID, 0)] (pressing true true (aDrain 0 false)) with press := none }

/-- A restore from host slot A accepted, and running. -/
def restoring (running : Bool) : State := with' [(F.SEAM_RSTAT_RESULT, 2)] { alone with restore := ⟨false, some 2, running, []⟩ }

theorem test_RestoreRunsItsCourse :
    (HostReaches alone ∧ NoUpset alone ∧ alone.steps = [] ∧ alone.restore.running = false ∧ ff alone F.SEAM_PEER_PARTNER_VALID = 0)
    ∧ ((restoring false).restore.accepted = some 2 ∧ rf (restoring false) F.SEAM_RSTAT_RESULT = 2 ∧ (restoring false).steps = []
      ∧ (restoring false).restore.running = false)
    ∧ ((restoring true).restore.accepted = some 2 ∧ (restoring true).restore.running = true ∧ ownHeld (restoring true) = false
      ∧ ff (restoring true) F.SEAM_EFB_BASE + ff (restoring true) F.SEAM_EFB_SIZE_BYTES ≤ ff (restoring true) F.SEAM_STATE_BASE) := by
  decide +kernel

/-! ### Set-up space, the window, Lint and memory checks -/

/-- A pending partition of mode 1 whose change is quiet. -/
def partPending : State :=
  { with' [(F.SSTORE_PSTAT_PENDING, 8), (F.SSTORE_PCFG_MODE 3, 1)] up with partPend := [(3, 1)] }

theorem test_CommitsPutShadowsInForce :
    (HostReaches up ∧ seamSetOk up = true ∧ oppSetOk up = true ∧ routeSetOk up = true ∧ activeBit up = none)
    ∧ seamSetOk fabric = false ∧ oppSetOk (with' [(F.OPP_ENT_ROOT 3, 95)] up) = false
    ∧ routeSetOk (with' [(F.ROUTE_PLAN_USE 3, 3)] up) = false ∧ HostReaches fabric
    ∧ (let modes := (List.range 16).map (fun p => rf up (F.SSTORE_PCFG_MODE p))
       rf up F.SSTORE_PSTAT_PENDING = 0 ∧ 3 ∉ modes ∧ 2 ∈ modes)
    ∧ 3 ∈ (List.range 16).map (fun p => rf (with' [(F.SSTORE_PCFG_MODE 7, 3)] up) (F.SSTORE_PCFG_MODE p))
    ∧ (partPending.partPend.find? (fun e => e.1 == 3) = some (3, 1) ∧ partQuiet (if cacheChanging partPending then flushCache partPending else partPending) 3 1 = true
      ∧ bitsOf (rf partPending F.SSTORE_PSTAT_PENDING) 3 1 = 1) := by
  decide +kernel

theorem test_SetupWritesObeyTheirFields :
    linkUp up = true
    ∧ (let r := (regRow? R.TACK_CE_THRESH).getD ⟨"", 0, 0, 0, 0, 0, 0, 0, 0, 0, 0, 0⟩
       let a := (BitVec.ofNat 24 R.TACK_CE_THRESH).toNat
       let v := (0x1234#64).toNat
       regRow? a = some r ∧ a % 8 = 0 ∧ notReady up = false ∧ plainReg a = true
        ∧ v &&& (2 ^ 64 - 1 - (r.rw ||| r.w1c ||| r.wo ||| r.ro)) = 0
        ∧ writeRefused up a ((rdReg up a).toNat &&& r.rw)
            (((rdReg up a).toNat - ((rdReg up a).toNat &&& r.rw) + (v &&& r.rw)) &&& r.rw) = false)
    ∧ (¬ (((4#4) = 8 ∧ (0x23000#24).toNat % 8 = 0) ∨ ((2#4) = 4 ∧ (0x23000#24).toNat % 4 = 0))
      ∧ mapped (0x7FFFF8 / 8 * 8) = false ∧ notReady (with' [(F.RST_STAT_PHASE, 9)] up) = true)
    ∧ (up.steps = [] ∧ (∀ c, c < 64 → ∀ r, r < 4 → ringOn up c r = false) ∧ fabric.steps ≠ [] ∧ linkUp fabric = true
      ∧ (0x7F#64).toNat < 2 ^ 7)
    ∧ ((0x100000#64).toNat < 2 ^ 48 ∧ (0x100000#64).toNat % 2 ^ 20 = 0
      ∧ (0x100000#64).toNat + rf up F.STEPCFG_KEEP_SIZE_MIB * 2 ^ 20 ≤ 0xBFC0000000
      ∧ rf up F.STEPCFG_KEEP_BASE_ADDR + (5#64).toNat * 2 ^ 20 ≤ 0xBFC0000000) := by
  refine ⟨by decide +kernel, by decide +kernel, by decide +kernel, by decide +kernel, by decide +kernel⟩

/-- The state window of 16 bytes at 0x1000, with no transfer; and while the own update holds reads and a step is live. -/
def windowed (hold : Bool) : State :=
  { pressing true true (aDrain 0 false) with press := none, winHold := hold, steps := if hold then [aStep 7] else [] }

theorem test_WindowReadsAndWrites :
    (linkUp (windowed true) = true ∧ (windowed true).memUp = true ∧ NoUpset (windowed true)
      ∧ inStateWindow (windowed true) (0x1008#48).toNat (4#12).toNat = true ∧ (windowed true).ownBad = false
      ∧ (windowed true).winHold = true ∧ windowLocked (windowed true) = true)
    ∧ (inStateWindow (windowed false) 0x1008 4 = true ∧ (windowed false).winHold = false ∧ inStateWindow (windowed true) 0x900 4 = false
      ∧ accessHeld (windowed false) windowTraffic (byteRun 0x1008 4) = false ∧ rf (windowed false) F.STEPCFG_CTL_OVERLAP = 0
      ∧ windowLocked (windowed false) = false ∧ linkCxl (windowed false) = false ∧ windowEnd < (0xBFBFFFFFFF#48).toNat + (2#12).toNat
      ∧ (0xBFBFFFFFFF#48).toNat + (1#12).toNat ≤ windowEnd) := by
  decide +kernel

/-- A Lint pack of one item for the matrix engines. -/
def onePack : List Byte := List.replicate 16 0 ++ [1] ++ List.replicate 495 0

/-- Lint runs with it, a second after the last sweep; no engine is lent. -/
def linting : State := { with' [(F.LINT_CTL_ENABLE, 1)] fabric with lintPack := onePack, inflight := [], aon := 10 ^ 12 * 2 ^ 40 }

/-- Engine 0 of bay 0 lent. -/
def lentOut : State := { linting with lent := [⟨pathMatrix 0 0 0, 1, 0, some 7, true, some 0, 5, none⟩], lintFirst := some 5 }

theorem test_LintRunsItems :
    (let u := (BitVec.ofNat 16 (pathMatrix 0 0 0)).toNat
     rf linting F.LINT_CTL_ENABLE = 1 ∧ linting.cmpUp = true ∧ unitExists u = true ∧ 0 < packCount linting.lintPack (unitKind u)
      ∧ lendable linting u = true ∧ itemMayRun linting u (unitKind u) 0 = true
      ∧ lentOut.lent.find? (fun l => l.unit == u) = some (⟨u, 1, 0, some 7, true, some 0, 5, none⟩ : Lent)
      ∧ suspectStep lentOut true none u 1 0 = some 5 ∧ NoUpset linting
      ∧ accessHeld linting .lint (byteRun (itemReads linting (unitKind u) 0).1 (itemReads linting (unitKind u) 0).2) = false ∧ rf lentOut F.LINT_SUSPECT_VALID = 0
      ∧ unitDisabled linting u = false ∧ (lastStart linting u (unitKind u) 0).2 = false
      ∧ (lastStart linting u (unitKind u) 0).1 + 1000000 * rf linting F.LINT_CFG_PERIOD_MS < aonNs linting)
    ∧ (HostReaches linting ∧ rf linting F.LINT_STAT_BUSY = 0 ∧ linting.memUp = true)
    ∧ ({ linting with lintNew := some onePack } : State).lintNew = some onePack
    ∧ accessHeld { linting with lintNew := some onePack } .other (packWrites onePack) = false := by
  decide +kernel

/-- A device whose traffic generator is armed, or runs, in a direction over 2 KiB of channel 0 of stack 0. -/
def testing (busy : Bool) (dir : Nat) : State :=
  { with' [(F.HBM_TG_CTL_ARM, 1), (F.HBM_TG_CFG_DIR, dir), (F.HBM_TG_CTL_BUSY, busy.toNat)] up with
    tgBusy := busy, tgRun := if busy then some ⟨dir, 0, 0, 9, 2048, [(0, 0)]⟩ else none }

/-- A device whose patrol scrub stands at word 5, which has a syndrome. -/
def scrubbing (syn : Nat) : State := { synPut 5 syn up with scrubAt := 5 }

theorem test_MemoryIsScrubbedAndTested :
    (∀ x ∈ [0, 1, 11, 3], let s := scrubbing x
      rf s F.HBM_SCRUB_PERIOD ≠ 0 ∧ s.memUp = true ∧ tripped s = false
        ∧ regHeld s 13 (64 * (s.scrubAt / 8)) = false ∧ inSram s s.scrubAt = false)
    ∧ (tackClassify (synGet (scrubbing 0) 5) = .clean ∧ tackClassify (synGet (scrubbing 1) 5) = .checkBit
      ∧ tackClassify (synGet (scrubbing 11) 5) = .dataBit 1 ∧ tackClassify (synGet (scrubbing 3) 5) = .uncorrectable)
    ∧ (HostReaches (testing false 1) ∧ rf (testing false 1) F.HBM_TG_CTL_ARM = 1
      ∧ (∀ c, c < 64 → ∀ r, r < 4 → ringOn (testing false 1) c r = false) ∧ rf up F.HBM_TG_CTL_ARM = 0)
    ∧ (∀ dir ∈ [0, 1], let s := testing true dir
       s.tgRun = some ⟨dir, 0, 0, 9, 2048, [(0, 0)]⟩ ∧ s.tgBusy = true ∧ tripped s = false ∧ tgHeld s ⟨dir, 0, 0, 9, 2048, [(0, 0)]⟩ = false
        ∧ s.syn = [] ∧ s.cache = []) := by
  decide +kernel

/-! ### Power, clocks, temperatures, power states -/

/-- An own update runs, which selects entry 4, of a higher set-point. -/
def requested : State := { inForce' [(F.OPP_ENT_VCORE 4, 800), (F.OPP_ENT_ROOT 4, 120)] up with vcore := 700, upds := [anUpdate] }

/-- The ramp to it begun; `wait` while the regulator settles. -/
def ramped (wait : Bool) : State :=
  { with' [(F.CLK_STAT_RAMPING, 1), (F.CLK_STAT_ROOT_MHZ, 2400)] requested with
    vcore := 800, oppTarget := some (entOf requested 4), rampWait := wait }

/-- Droop holds ramps. -/
def drooping : State := { requested with droopLow := true, stretched := true, quiet := false }

/-- The entry selected is a sprint entry, which may be granted with a sprint cap; droop holds changes. -/
def sprintAsked (cap : Nat) : State :=
  with' [(F.PWR_CAP_SPRINT_W, cap)] (inForce' [(F.OPP_ENT_SPRINT 4, 1), (F.OPP_ENT_FALLBACK 4, 3), (F.OPP_ENT_ROOT 3, 100)] drooping)

/-- A sprint runs on an entry of 4,000 MHz; the selection names no sprint entry. -/
def sprinting : State :=
  { with' [(F.CLK_STAT_ENTRY, 5), (F.CLK_STAT_ROOT_MHZ, 4000)] requested with
    vcore := 850, sprint := some (entOf requested 4), oppWord := BitVec.ofNat 64 (withBits 0 (F.OPP_ENT_SPRINT 0).lo 1 1) }

/-- A sprint runs, at the limit of the junction, whose entry is still selected. -/
def sprintHot : State :=
  with' [(F.PWR_TJ_STAT_AT_LIMIT, 1)] { inForce' [(F.OPP_ENT_SPRINT 4, 1)] sprinting with sprint := some (entOf requested 3) }

theorem test_PowerAllocationSplitsTheCap : clocked up = true ∧ rf up F.PWR_STAT_INFEASIBLE = 0 := by decide +kernel

theorem test_RampsMoveInSteps :
    (clocked requested = true ∧ selection requested = 4 ∧ entSprint (entOf requested 4) = false ∧ requested.sprintRefused ≠ some 4
      ∧ requested.sprint = none ∧ goal requested ≠ entOf requested 4 ∧ droopHolds requested = false
      ∧ requested.vcore < entVcore (entOf requested 4))
    ∧ (clocked drooping = true ∧ selection drooping = 4 ∧ entSprint (entOf drooping 4) = false ∧ drooping.sprint = none
      ∧ goal drooping ≠ entOf drooping 4 ∧ droopHolds drooping = true)
    ∧ (∀ cap ∈ [0, 2500], let s := sprintAsked cap
       clocked s = true ∧ selection s = 4 ∧ s.sprintRefused ≠ some 4 ∧ goal s ≠ entOf s 4 ∧ entSprint (entOf s 4) = true
        ∧ droopHolds s = true ∧ s.sprint = none ∧ sprintOk s = (cap != 0)
        ∧ goal s ≠ entOf s (fldOf (entOf s 4).word (F.OPP_ENT_FALLBACK 0)))
    ∧ ((∀ w ∈ [true, false], (ramped w).oppTarget = some (entOf requested 4) ∧ (ramped w).oppNext = none
        ∧ (ramped w).sprint = none ∧ droopHolds (ramped w) = false ∧ (ramped w).rampWait = w
        ∧ rf (ramped w) F.CLK_STAT_ROOT_MHZ ≠ entMhz (entOf requested 4) ∧ rf (ramped w) F.CLK_STAT_ROOT_MHZ < 4500)
      ∧ entSprint (entOf requested 4) = false ∧ (entOf requested 4).entry < 16 ∧ rf (ramped false) F.CLK_STAT_RAMPING = 1)
    ∧ (requested.vcore ≠ 0 ∧ sprintDue requested = false)
    ∧ (sprinting.sprint = some (entOf requested 4) ∧ sprintDue sprinting = true ∧ leaving sprinting = false
      ∧ sprinting.vcore ≥ entVcore (entOf requested 4) ∧ entMhz (entOf requested 4) < rf sprinting F.CLK_STAT_ROOT_MHZ)
    ∧ (sprintHot.sprint = some (entOf requested 3) ∧ sprintDue sprintHot = true ∧ leaving sprintHot = false
      ∧ sprintHot.vcore ≥ entVcore (entOf requested 3) ∧ entMhz (entOf requested 3) < rf sprintHot F.CLK_STAT_ROOT_MHZ
      ∧ isSprint sprintHot (selection sprintHot) = true) := by
  refine ⟨by decide +kernel, by decide +kernel, by decide +kernel, by decide +kernel, by decide +kernel, by decide +kernel,
    by decide +kernel⟩

/-- Steam runs on engine 2 of bay 4 with some quads gated. -/
def steaming (gated : Nat) : State := setEng 4 2 ⟨true, gated⟩ up

/-- A ramp deferred until droop has been quiet. -/
def calming : State := { requested with quiet := false, oppNext := some (entOf requested 4) }

theorem test_DroopSteamAndClocks :
    (clocked up = true ∧ up.stretched = false ∧ drooping.stretched = true ∧ clocked drooping = true
      ∧ rf drooping F.CLK_STAT_RAMPING = 0)
    ∧ (rf (ramped false) F.CLK_STAT_RAMPING = 1 ∧ (ramped false).rampHard = false ∧ clocked (ramped false) = true
      ∧ (ramped false).stretched = false)
    ∧ (calming.droopLow = false ∧ calming.quiet = false ∧ calming.oppNext = some (entOf requested 4) ∧ calming.rampHard = false
      ∧ calming.vcore < entVcore (entOf requested 4) ∧ calming.sprint = none ∧ ({ up with quiet := false } : State).oppNext = none)
    ∧ ((engRt (steaming 1) 4 2).steam = true ∧ (engRt (steaming 3) 4 2).steam = true)
    ∧ (HostReaches up ∧ rf up F.CLK_STAT_ROOT_LOCK = 1 ∧ rf (with' [(F.CLK_STAT_ROOT_LOCK, 0)] up) F.CLK_STAT_ROOT_LOCK = 0) := by
  decide +kernel

theorem test_TemperaturesAct :
    up.rtrUp = true ∧ (List.replicate 48 (119#8)).length = 48 ∧ (List.replicate 48 (119#8)).foldl (fun m x => max m x.toNat) 0 < 120
    ∧ 120 ≤ (List.replicate 48 (120#8)).foldl (fun m x => max m x.toNat) 0
    ∧ tjTarget up ≤ 119 ∧ 60 < tjTarget up ∧ tjLimit up ≤ 119
    ∧ (List.replicate 8 (105#8)).length = 8 ∧ (∀ x ∈ List.replicate 8 (105#8), x.toNat < 110) ∧ up.tripPend = false := by
  decide +kernel

/-- A device in PARKED. -/
def parkedUp : State := { with' [(F.PWR_STAT_STATE, 2)] up with cmpUp := false, memUp := false, selfRefresh := true }

theorem test_StopsAndPowerStates :
    stoppable up = true
    ∧ (noWork up = true ∧ clocked up = true ∧ up.rst.ready = true ∧ rf up F.PWR_STAT_STATE = 0)
    ∧ (HostReaches up ∧ mayPark up = true ∧ parked up = false ∧ up.rtrUp = true ∧ fenceQuiet 7 up = true ∧ fenceQuiet 8 up = true
      ∧ ∀ c ∈ up.cache, c.dirty = false)
    ∧ (let s := { up with heldReads := [(0x1000, 4)] }
       HostReaches s ∧ mayPark s = true ∧ parked s = false ∧ s.rtrUp = true ∧ fenceQuiet 7 s = false ∧ fenceQuiet 8 s = false)
    ∧ (HostReaches parkedUp ∧ parked parkedUp = true ∧ rf parkedUp F.RST_STAT_OOS = 0 ∧ parkedUp.rst.kind = 0 ∧ parkedUp.rtrUp = true
      ∧ parkedUp.inflight = [] ∧ parkedUp.steps = [])
    ∧ (HostReaches fabric ∧ mayPark fabric = false) := by
  decide +kernel

/-- A Folded device, its rails good, stopped by its coolant. -/
def foldedDown (coolant : Nat) : State :=
  { with' [(F.PWR_AON_COOLANT_STOP, coolant)] State.reset with folded := true, rails := true }

/-- A start-up in a phase. -/
def starting (n : Nat) : State :=
  { with' [(F.RST_STAT_PHASE, n)] State.reset with rst := ⟨5, false, n, 0, false⟩, rails := true, rtrUp := 2 ≤ n, hifUp := 2 ≤ n }

theorem test_DeviceStarts :
    (State.reset.rst.kind = 0 ∧ State.reset.folded = false ∧ rf State.reset F.RST_STAT_PHASE = 0)
    ∧ ((starting 1).rst.phase = 1 ∧ (starting 1).rails = true)
    ∧ ((foldedDown 0).folded = true ∧ (foldedDown 0).rails = true ∧ rf (foldedDown 0) F.PWR_AON_COOLANT_STOP = 0
      ∧ rf (foldedDown 0) F.PWR_AON_TRIP_STOP = 0 ∧ rf (foldedDown 1) F.PWR_AON_COOLANT_STOP = 1 ∧ coolantHeld (foldedDown 1) = false
      ∧ coolantHeld { foldedDown 1 with coolantSince := some 0, aon := 2 ^ 40 * 10 ^ 9 } = true)
    ∧ (let s := { foldedDown 0 with rails := false, rst := { (foldedDown 0).rst with kind := 6 } }
       s.folded = true ∧ s.rails = false ∧ s.rst.kind = 6 ∧ rf s F.PWR_AON_COOLANT_STOP = 0 ∧ rf s F.PWR_AON_TRIP_STOP = 0) := by
  decide +kernel

/-- A start-up in phase 3 whose POWER table of the image in use has two entries, of the operations given, with one to run. -/
def tabled (op value : Nat) : State :=
  { flashSet 1024 (leBytes 2 1 ++ leBytes 256 6 ++ leBytes 64 6) (flashSet 1280 (leBytes op 8 ++ leBytes 0 8 ++ leBytes value 8
      ++ leBytes 0 8) (starting 3)) with
    tables := [⟨1, 0, 0⟩] }

theorem test_TablesAndPhasesRun :
    ((starting 2).rst.phase = 2 ∧ imageOk (starting 2) (imageBase 0) = false ∧ imageOk (starting 2) (imageBase 1) = false
      ∧ ownerKey (starting 2) = none ∧ (starting 2).bootSel < 3)
    ∧ (∀ op ∈ [3, 4, 15, 0, 7], (tabled op 0).tables.find? (fun t => t.table == (0 : Fin 4).val + 1 && t.unit == (0#8).toNat
        && t.entry < 65536) = some ⟨1, 0, 0⟩ ∧ tableEntryAt (tabled op 0) 2 0 = some ⟨op, 0, 0, 0, 0, 0⟩)
    ∧ ((tabled 5 1).tables.find? (fun t => t.table == (0 : Fin 4).val + 1 && t.unit == (0#8).toNat && t.entry < 65536) = some ⟨1, 0, 0⟩
      ∧ tableEntryAt (tabled 5 1) 2 0 = some ⟨5, 0, 0, 0, 1, 0⟩
      ∧ phyRead { tabled 5 1 with phy := [(phyKey 1 0 0, 6)] } (phyKey 1 0 0) &&& 0 ≠ 1)
    ∧ (starting 4).rst.phase = 4
    ∧ ((starting 6).rst.phase = 6 ∧ (starting 6).rst.kind ≠ 2 ∧ rf (starting 6) F.RST_STAT_OOS = 0
      ∧ flashNat (starting 6) 0x8010000 8 ≠ oosMagic) := by
  decide +kernel

/-- A reset of a kind whose fence runs. -/
def fencing (k : Nat) : State :=
  { with' [(F.RST_STAT_BUSY, 1)] up with rst := ⟨k, true, 0, 0, true⟩, cmpUp := k ≠ 1, hifUp := k ≠ 3 }

theorem test_ResetsFenceAndRestart :
    (∀ k ∈ [1, 2, 3, 4], resetOk k up = true) ∧ resetOk 1 (fencing 2) = false
    ∧ (let s := fencing 1
       s.rst.kind = 1 ∧ s.rst.fencing = true ∧ s.rst.ready = true ∧ cmpWork s = [] ∧ s.upds = [] ∧ s.steps = [] ∧ s.seamRx = none
        ∧ parked s = false ∧ rf s F.RST_STAT_OOS = 0)
    ∧ ((fencing 3).rst.fencing = true ∧ (fencing 3).rst.kind = 3 ∧ (fencing 3).inflight = []
      ∧ (flying (moveDesc 1) (fencing 3)).inflight ≠ []) := by
  decide +kernel

theorem test_LinksAndPowerComeAndGo :
    linkUp up = true
    ∧ (let s := with' [(F.HIF_LINK_MODE, 0)] up
       s.hifUp = true ∧ rf s F.HIF_LINK_MODE = 0 ∧ s.rst.phase = 0 ∧ s.rst.kind = 0 ∧ tableRuns s 4 = false
        ∧ (16#5).toNat ∈ [4, 8, 16] ∧ ∀ d ∈ s.inflight, dClass d = 4 → d.run ≠ .running)
    ∧ up.tripLow = false ∧ ({ up with tripLow := true } : State).tripLow = true := by
  decide +kernel

theorem test_ManagementBus :
    1 ≤ (1#8).toNat ∧ up.folded = false ∧ fabric.folded = false ∧ ({ up with i3c := true } : State).i3c = true ∧ up.maddr < 8
    ∧ (0x20000#48).toNat % 8 = 0 ∧ regPowered up (0x20000#48).toNat = true ∧ (0x20000#48).toNat ≠ R.MGMT_CMDS
    ∧ (0x20004#48).toNat % 8 ≠ 0
    ∧ (up.rtrUp = true ∧ 500 ≤ (500#16).toNat ∧ (2300#16).toNat ≤ 2300 ∧ (2300#16).toNat ≤ (2750#16).toNat)
    ∧ resetOk 1 up = true ∧ (4 < (5#8).toNat)
    ∧ ((foldedDown 0).folded = true ∧ (foldedDown 0).rails = true ∧ rf (foldedDown 0) F.PWR_AON_COOLANT_STOP = 0
      ∧ rf (foldedDown 0) F.PWR_AON_TRIP_STOP = 0)
    ∧ (pecOk up [0x77, 0] = false
      ∧ (let f := [0x77#8, BitVec.ofNat 8 (crc8 [BitVec.ofNat 8 (2 * cmdAddr up), 0x77])]
         pecOk up f = true ∧ f.headD 0 ∉ cmdCodes))
    ∧ (up.rst.kind = 0 ∧ mayPark up = true ∧ parked up = false ∧ up.rtrUp = true ∧ fenceQuiet 7 up = true ∧ fabric.rst.kind = 0 ∧ mayPark fabric = false)
    ∧ (rf (with' [(F.RST_STAT_PHASE, 9)] up) F.RST_STAT_PHASE = 9 ∧ rf up F.RST_STAT_PHASE ≠ 8 ∧ rf up F.RST_STAT_PHASE ≠ 9) := by
  decide +kernel

/-- Physical presence, with the identity seed reconstructed. -/
def present : State := { with' [(F.SEC_STAT_PRESENCE, 1)] up with pufSeed := some 5 }

theorem test_FlashAndPresenceCommands :
    up.rst.phase = 0 ∧ up.folded = false ∧ present.folded = false
    ∧ ((128#8).toNat ≤ 128 ∧ flashMay up (0x7FFFF80#32).toNat 128 = true ∧ (0x7FF0000#32).toNat % 65536 = 0
      ∧ flashMay up (0x7FF0000#32).toNat 65536 = true ∧ (0x7FFFF80#32).toNat % 256 + 128 ≤ 256)
    ∧ (present.rst.phase = 0 ∧ rf present F.SEC_STAT_PRESENCE = 1 ∧ (1#8).toNat ≤ 1 ∧ (List.replicate 512 (7#8)).length = 512
      ∧ present.pufSeed = some 5 ∧ (∀ c, c < 64 → ∀ r, r < 4 → ringOn present c r = false))
    ∧ rf up F.SEC_STAT_PRESENCE = 0 ∧ rf (with' [(F.SEC_STAT_TEST_EN, 1)] up) F.SEC_STAT_TEST_EN = 1 := by
  decide +kernel

/-- A land found in a class a number of times in succession. -/
def tested (k cls n : Nat) : State := { up with lands := smSet (fun _ => ⟨2, 0⟩) up.lands k ⟨cls, n⟩ }

theorem test_LandsPresenceAndTap :
    (landOf up (.maint 0 500) = (1, 0) ∧ 2 ≤ (landRt (tested 1 0 2) 1).count ∧ (landRt (tested 1 0 2) 1).cls = 0
      ∧ (landRt (tested 1 1 2) 1).cls ≠ 0)
    ∧ (landOf up (.coolant 0 500) = (0, 0) ∧ 2 ≤ (landRt (tested 0 0 2) 0).count ∧ (landRt (tested 0 0 2) 0).cls = 0
      ∧ stoppable (tested 0 0 2) = true)
    ∧ (let s := with' [(F.SEC_STAT_MAINT, 0), (F.SEC_STAT_SEAL, 1)] { up with lands := [(1, ⟨0, 3⟩), (2, ⟨1, 3⟩)] }
       rf s F.SEC_STAT_MAINT = 0 ∧ rf s F.SEC_STAT_SEAL = 1 ∧ (landRt s 1).cls = 0 ∧ (landRt s 2).cls = 1)
    ∧ rf (with' [(F.SEC_STAT_TEST_EN, 1)] up) F.SEC_STAT_TEST_EN = 1 ∧ rf up F.SEC_STAT_TEST_EN = 0 := by
  decide +kernel

/-- A responder whose algorithms are negotiated, with the identity key ready or not. -/
def attesting (key : Nat) : State := { with' [(F.SEC_STAT_ID_READY, key)] present with spdm := ⟨true, 0x12, [], [], []⟩ }

theorem test_AttestationAnswers :
    (present.pufSeed = some 5 ∧ present.rst.ready = true ∧ linkUp present = true ∧ (attesting 1).spdm.ver = 0x12
      ∧ (0x55 : Byte) ∉ ([0xE1, 0x81, 0x84, 0xE3, 0x82, 0x83, 0xE0] : List Byte))
    ∧ (let req := [0x12, 0xE3, 0, 0, 0, 0, 0, 0, 0x20, 0, 0, 0, 0x04, 0, 0, 0].map (BitVec.ofNat 8)
       req.getD 0 0 = 0x12 ∧ bitsOf (leNat ((req.drop 8).take 4)) 5 1 = 1 ∧ bitsOf (leNat ((req.drop 12).take 4)) 2 1 = 1)
    ∧ ((attesting 0).spdm.ready = true ∧ rf (attesting 0) F.SEC_STAT_ID_READY = 0 ∧ rf (attesting 1) F.SEC_STAT_ID_READY = 1
      ∧ (attesting 1).pufSeed.isSome = true ∧ linkUp (attesting 1) = true ∧ (5#8).toNat ≤ 5) := by
  decide +kernel

/-- The certificate chain holds a byte to ask for. -/
theorem test_CertificateChainIsNotEmpty : (0#16).toNat < (certChain (attesting 1)).length := by
  have h : (0#16).toNat = 0 := rfl
  simp only [certChain, leBytes, List.length_append, List.length_cons, h]
  omega

/-! ### Worked examples of the spec -/

/-- 08: the worked example after R231, and the two stuck patterns. -/
theorem test_tack_worked_example :
    tackLow ++ tackHigh = tackCols
      ∧ tackCheck 0x41 = 0xEE
      ∧ (tackSyndrome 0x01 0xEE = 0x16 ∧ tackClassify 0x16 = .dataBit 6)
      ∧ (tackSyndrome 0 0xEE = 0x11 ∧ tackClassify 0x11 = .uncorrectable)
      ∧ (tackSyndrome 0x41 0x6E = 0x80 ∧ tackClassify 0x80 = .checkBit)
      ∧ tackSyndrome 0 0 = 0xFF ∧ tackSyndrome (2 ^ 64 - 1) 0xFF = 0xD8 := by decide +kernel

/-- 03: the trace after R123: an E4M3 value, the sum that ties to even, and the result in BF16. -/
theorem test_number_worked_trace :
    fpDecode .fp8E4M3 0xB6 = .fin true 14 (-4)
      ∧ fpEncode .fp32 (fvOfNat (2 ^ 24 + 3)) = 0x4B800002
      ∧ fpEncode .bf16 (fvOfNat (2 ^ 24 + 4)) = 0x4B80 := by decide +kernel

/-- 05: the BE8 block after R186: 5.28125, -0.203125 and 0.010009765625. -/
theorem test_be8_worked_block :
    convertBlock .be8 [.fin false 169 (-5), .fin true 13 (-6), .fin false 41 (-12)] = (0x81, [84, 253, 0]) := by decide +kernel

/-- 11: the top-k block after R324, cut to its three elements. -/
theorem test_topk_worked_block :
    let b := topkBlock 2 [fpDecode .fp32 0x3F400000, fpDecode .fp32 0xBFA00001, fpDecode .fp32 0x3F400000]
    (b.1.map (fun p => (p.1, fpEncode .bf16 p.2)) = [(0, 0x3F40), (1, 0xBFA0)]
      ∧ b.2.map (fpEncode .fp32) = [0, 0xB4000000, 0x3F400000]) := by decide +kernel

/-- 11: the exchange after R335, in units of 1/256 ns: twice the offset of 3.5 ns and twice the delay of 108 ns. -/
theorem test_bobbin_worked_exchange :
    let t1 := 5000000 * 256
    let t2 := t1 + 104 * 256 + 128
    let t3 := 5000300 * 256
    let t4 := t3 + 111 * 256 + 128
    stampDiff t4 t3 - stampDiff t2 t1 = 2 * 896 ∧ stampDiff t4 t3 + stampDiff t2 t1 = 2 * 108 * 256 := by decide +kernel

/-- 07: the address of the example after R208. -/
theorem test_hbm_worked_address :
    hbmStackChannel 0x001234567800 = (3, 0) ∧ hbmBankRowByte 0x001234567800 = (10, 2330, 0)
      ∧ hbmAddrOf 3 0 0x12345000 = 0x001234567800 := by decide +kernel

/-- 02: the worked GEMM descriptor after R80. -/
theorem test_gemm_worked_descriptor :
    let d := newDesc 0 0 0 [0x8014803003040002, 0x0000004300420041, 0x0022001E00000800, 0x0000000400003C00, 0, 0, 0, 0] none 0
    (dOp d = 1 ∧ dStag d = 1)
      ∧ gemmOf d = { gemmOf (newDesc 0 0 0 [] none 0) with
          a := 0x41, b := 0x42, d := 0x43, m := 2048, n := 7680, k := 15360, group := 16, kpart := 4, tb := true } := by
  decide +kernel

/-! ### Ill-formed commands -/

/-- Each bound of `WellFormed` refuses a command beyond it. -/
theorem test_ill_formed_commands :
    let long : Packet := packet 8 3 0 0 (List.replicate 4073 0)
    let stream (n : Nat) : List Byte := List.replicate n 0
    [Instr.announceReceive false long,
     .headCellRoute 0 0 0 none long,
     .dataBlockReceive 0 0 true true 0 [0, 0, 0, 0, 0],
     .verifyReceive 3 1 true false 0 (BitVec.ofNat 36 (2 ^ 35 + 1)),
     .p2pPacketReceive 0 true false 0 (BitVec.ofNat 40 (2 ^ 35 + 1)) (packet 8 3 0 0 []),
     .seamGroup 3 false [[0, 0]],
     .seamGroup 3 false (List.replicate 32 (List.replicate 16 0)),
     .seamData 3 false 0 (stream 4073),
     .seamEfb 3 false 0 (stream 4065),
     .seamRecord 3 false (List.replicate 510 0),
     .ckptPacketReceive 3 false (.data 0 (stream 4073)),
     .loadPacketReceive 3 0 false (.record (List.replicate 510 0)),
     .windowRead 0 0,
     .windowWrite 0 [],
     .stackTempRead [none],
     .trainingStateDone 0 0 [],
     .fibreFaultClassify 0 [] [] 0,
     .laserAgeingSample [[]],
     .junctionRead [],
     .hostLinkUp 0 16,
     .hostLinkUp 1 5,
     .rotateOwner 0 [] true,
     .samplePreload [true] []].all (fun i => i.wf == false) = true := by decide +kernel

/-- And admits one within it. -/
theorem test_well_formed_commands :
    [Instr.announceReceive false (packet 8 3 0 0 (List.replicate 4072 0)), .seamEfb 3 false 0 (List.replicate 4064 0),
     .windowRead 0 1, .dataBlockReceive 0 0 true true 0 [0, 0, 0, 0], .hostLinkUp 4 16, .samplePreload [true] [false], .rampStep].all Instr.wf = true := by
  decide +kernel

/-- No row of the table gives bits, so no word spells a command. -/
theorem test_no_word_spells_a_command : decodeTableWord 64 0 = none ∧ State.reset.withFetchWord 64 0 = State.reset :=
  ⟨rfl, rfl⟩

end Sys2Proof.Tests
end

section
/-!
PROOF. Writes of set-up space (R11, R477, R479, R482, R487, R489): the bits a write leaves in a register, a write that meets no
check and no trigger, a write that its own rule refuses, and an access that the device does not take.
-/
namespace Sys2Proof.Machine

/-! ### Bits of a register under a mask -/

/-- Numbers that share no bit add without a carry. -/
theorem add_eq_or_of_and_eq_zero (x y : Nat) (h : x &&& y = 0) : x + y = x ||| y := by
  have hx : x < 2 ^ (x + y) := Nat.lt_of_le_of_lt (Nat.le_add_right x y) Nat.lt_two_pow_self
  have hy : y < 2 ^ (x + y) := Nat.lt_of_le_of_lt (Nat.le_add_left y x) Nat.lt_two_pow_self
  have hd : BitVec.ofNat (x + y) x &&& BitVec.ofNat (x + y) y = 0#(x + y) := by
    rw [← BitVec.ofNat_and, h]
  have hsum := BitVec.toNat_add_of_and_eq_zero hd
  rw [BitVec.add_eq_or_of_and_eq_zero _ _ hd] at hsum
  simpa only [BitVec.toNat_ofNat, BitVec.toNat_or, Nat.mod_eq_of_lt hx, Nat.mod_eq_of_lt hy] using hsum.symm

/-- Taking the masked bits away is flipping them, since they are all set. -/
theorem sub_and_eq_xor (x m : Nat) : x - (x &&& m) = x ^^^ (x &&& m) := by
  have hor : (x ^^^ (x &&& m)) ||| (x &&& m) = x := Nat.eq_of_testBit_eq fun i => by
    rw [Nat.testBit_or, Nat.testBit_xor, Nat.testBit_and]
    cases x.testBit i <;> cases m.testBit i <;> rfl
  have hand : (x ^^^ (x &&& m)) &&& (x &&& m) = 0 := Nat.eq_of_testBit_eq fun i => by
    rw [Nat.testBit_and, Nat.testBit_xor, Nat.testBit_and, Nat.zero_testBit]
    cases x.testBit i <;> cases m.testBit i <;> rfl
  have hadd := add_eq_or_of_and_eq_zero _ _ hand
  omega

/-- Taking the masked bits away clears them. -/
theorem testBit_sub_and (x m i : Nat) : (x - (x &&& m)).testBit i = (x.testBit i && !m.testBit i) := by
  rw [sub_and_eq_xor, Nat.testBit_xor, Nat.testBit_and]
  cases x.testBit i <;> cases m.testBit i <;> rfl

/-- The masked bits replaced: each bit comes from the value where the mask holds it, else from the old contents. -/
theorem testBit_maskedWrite (x v m i : Nat) :
    (x - (x &&& m) + (v &&& m)).testBit i = if m.testBit i then v.testBit i else x.testBit i := by
  have hand : (x - (x &&& m)) &&& (v &&& m) = 0 := Nat.eq_of_testBit_eq fun i => by
    rw [Nat.testBit_and, testBit_sub_and, Nat.testBit_and, Nat.zero_testBit]
    cases x.testBit i <;> cases v.testBit i <;> cases m.testBit i <;> rfl
  rw [add_eq_or_of_and_eq_zero _ _ hand, Nat.testBit_or, testBit_sub_and, Nat.testBit_and]
  cases x.testBit i <;> cases v.testBit i <;> cases m.testBit i <;> rfl

/-- Under its mask, a masked write reads as the value. -/
theorem maskedWrite_and (x v m : Nat) : (x - (x &&& m) + (v &&& m)) &&& m = v &&& m :=
  Nat.eq_of_testBit_eq fun i => by
    rw [Nat.testBit_and, Nat.testBit_and, testBit_maskedWrite]
    cases x.testBit i <;> cases v.testBit i <;> cases m.testBit i <;> rfl

/-- What a whole write of `v` leaves in a register of row `r` that held `old` (R11): RW bits set, W1C bits written as 1 cleared. -/
def writtenValue (r : RegRow) (old v : Nat) : Nat :=
  let new := old - (old &&& r.rw) + (v &&& r.rw)
  new - (new &&& (v &&& r.w1c))

/-- No register of the map has a bit that is both RW and W1C. -/
theorem regBlocks_rw_and_w1c : ∀ b ∈ regBlocks, ∀ r ∈ b.2.2, r.rw &&& r.w1c = 0 := by
  decide

theorem rw_and_w1c_of_regRow {a : Nat} {r : RegRow} (h : regRow? a = some r) : r.rw &&& r.w1c = 0 := by
  unfold regRow? at h
  split at h
  next b hb => exact regBlocks_rw_and_w1c b (List.mem_of_find?_eq_some hb) r (List.mem_of_find?_eq_some h)
  next => cases h

/-- Bit by bit, what a write leaves (R11). -/
theorem testBit_writtenValue (r : RegRow) (hr : r.rw &&& r.w1c = 0) (old v i : Nat) :
    (writtenValue r old v).testBit i
      = if r.rw.testBit i then v.testBit i else if r.w1c.testBit i && v.testBit i then false else old.testBit i := by
  have hbit : (r.rw.testBit i && r.w1c.testBit i) = false := by rw [← Nat.testBit_and, hr, Nat.zero_testBit]
  unfold writtenValue
  dsimp only
  rw [testBit_sub_and, Nat.testBit_and, testBit_maskedWrite]
  cases hrw : r.rw.testBit i
  · cases r.w1c.testBit i <;> cases v.testBit i <;> cases old.testBit i <;> rfl
  · have hw1c : r.w1c.testBit i = false := by rwa [hrw, Bool.true_and] at hbit
    rw [hw1c]
    cases v.testBit i <;> rfl

/-- A field all of whose bits are RW takes the written value. -/
theorem bitsOf_writtenValue (r : RegRow) (hr : r.rw &&& r.w1c = 0) (old v lo w : Nat)
    (hf : ∀ i < w, r.rw.testBit (lo + i) = true) : bitsOf (writtenValue r old v) lo w = bitsOf v lo w :=
  Nat.eq_of_testBit_eq fun i => by
    simp only [bitsOf, Nat.testBit_mod_two_pow, Nat.testBit_shiftRight, testBit_writtenValue r hr]
    by_cases hi : i < w
    · simp only [hi, hf i hi, decide_true, Bool.true_and, if_true]
    · simp only [hi, decide_false, Bool.false_and]

/-! ### A write that meets no check and no trigger (R11, R482) -/

/-- What a plain register is not, range by range. -/
theorem plainReg_iff (a : Nat) : plainReg a = true ↔
    a ∉ [R.RST_CTL, R.SSTORE_GROUP_COMMIT, R.HBM_GROUP_COMMIT, R.ROUTE_GROUP_COMMIT, R.SEAM_GROUP_COMMIT,
      R.OPP_GROUP_COMMIT, R.HBM_TG_CTL, R.LINT_CTL, R.ROUTE_CTL, R.BOBBIN_SET, R.PWR_CTL, R.SEAM_XFER, R.SEAM_CKPT_CTL,
      R.SEAM_RESTORE, R.SEAM_JOB_START, R.CLK_CTL]
    ∧ ¬ (0x30000 ≤ a ∧ a < 0x44000 ∧ a % 0x1000 = 0) ∧ ¬ (0x60100 ≤ a ∧ a < 0x60700 ∧ a % 0x80 = 0)
    ∧ ¬ (0x80800 ≤ a ∧ a < 0x80A00)
    ∧ ¬ (0x100000 ≤ a ∧ a < 0x110000 ∧ 0x28 ≤ a % 0x400 ∧ a % 0x400 ≤ 0x58 ∧ a % 16 = 8)
    ∧ ¬ (0x100000 ≤ a ∧ a < 0x110000 ∧ a % 0x400 = R.CTX_WAIT 0 - 0x100000)
    ∧ ¬ (0x110000 ≤ a ∧ a < 0x114000 ∧ a % 0x100 = 0) := by
  simp only [plainReg, Bool.and_eq_true, Bool.not_eq_true', ← Bool.not_eq_true, decide_eq_true_eq, beq_iff_eq, and_assoc,
    List.contains_iff_mem]

/-- A write of a plain register sets nothing off (R482). -/
theorem trigger_of_plainReg (src : Source) (a v mask : Nat) (armed : Bool) (s : State) (h : plainReg a = true) :
    trigger src a v mask armed s = s := by
  obtain ⟨hlist, hbay, hport, hbell, -, hwait, hmover⟩ := (plainReg_iff a).mp h
  simp only [List.mem_cons, not_or] at hlist
  simp only [trigger, hlist, hbay, hport, hbell, hwait, hmover, if_false]

/-- The mask of a whole write lets every bit of a 64-bit number through. -/
theorem and_fullMask (x y : Nat) (hx : x < 2 ^ 64) : x &&& (y &&& (2 ^ 64 - 1)) = x &&& y := by
  rw [Nat.and_comm y, ← Nat.and_assoc, Nat.and_two_pow_sub_one_of_lt_two_pow hx]

/-- A register with RW bits is not the count of errors, so a write of it never counts as refused. -/
theorem unlessRefused_putReg {r : RegRow} {a : Nat} (hr : regRow? a = some r) (hrw : r.rw ≠ 0) (v : Word) (s : State) :
    unlessRefused a s (putReg a v s) = putReg a v s := by
  have ha : F.SETUP_ERR_COUNT.reg ≠ a := by
    rintro rfl
    obtain ⟨q, hq, hqrw⟩ : ∃ q, regRow? F.SETUP_ERR_COUNT.reg = some q ∧ q.rw = 0 := ⟨_, rfl, rfl⟩
    obtain rfl := Option.some.inj (hq.symm.trans hr)
    exact hrw hqrw
  exact if_pos (by simp only [rf, rdReg_putReg_ne _ _ _ _ ha])

/-- A write that the register's own rule refuses is flagged, and nothing else (R479). -/
theorem applyWrite_of_refused (src : Source) {r : RegRow} {a v : Nat} {s : State} (hv : v < 2 ^ 64)
    (hw : writeRefused s a ((rdReg s a).toNat &&& r.rw) (v &&& r.rw) = true) :
    applyWrite src r a v (2 ^ 64 - 1) s = setupRefused src a s := by
  simp only [applyWrite, and_fullMask _ _ (rdReg s a).isLt, and_fullMask _ _ hv, maskedWrite_and, hw, if_true]

/-- A write of a plain register that its rule does not refuse leaves the written value and nothing else (R11, R482). -/
theorem applyWrite_of_plainReg (src : Source) {r : RegRow} {a v : Nat} {s : State} (hr : regRow? a = some r)
    (hp : plainReg a = true) (hv : v < 2 ^ 64)
    (hw : writeRefused s a ((rdReg s a).toNat &&& r.rw) (v &&& r.rw) = false) :
    applyWrite src r a v (2 ^ 64 - 1) s = putReg a (BitVec.ofNat 64 (writtenValue r (rdReg s a).toNat v)) s := by
  obtain ⟨hlist, -, -, -, hring, -, -⟩ := (plainReg_iff a).mp hp
  have hclk : a ≠ R.CLK_CTL := fun h => hlist (by simp only [h, List.mem_cons, or_true, true_or])
  simp only [applyWrite, and_fullMask _ _ (rdReg s a).isLt, and_fullMask _ _ hv, maskedWrite_and, hw, hclk, hring,
    Nat.and_two_pow_sub_one_of_lt_two_pow hv, trigger_of_plainReg _ _ _ _ _ _ hp, if_false, Bool.false_eq_true]
  split
  · rfl
  next hrw => exact unlessRefused_putReg hr hrw _ s

/-- A whole write of the host that meets no check reaches the register's fields (R477, R479). -/
theorem setupWrite_eq_applyWrite {r : RegRow} {a v : Nat} {s : State} (hr : regRow? a = some r) (ha : a % 8 = 0)
    (hn : notReady s = false) (hv : v < 2 ^ 64) (hrsvd : v &&& (2 ^ 64 - 1 - (r.rw ||| r.w1c ||| r.wo ||| r.ro)) = 0) :
    setupWrite .host a 8 v s = applyWrite .host r a v (2 ^ 64 - 1) s := by
  have haddr : a / 8 * 8 = a := Nat.div_mul_cancel (Nat.dvd_of_mod_eq_zero ha)
  have hm : mapped a = true := by simp only [mapped, hr, Option.isSome_some, Bool.true_or]
  have hok : accessOk a 8 = true := by simp only [accessOk, ha, BEq.rfl, Bool.and_self, Bool.true_or]
  simp only [setupWrite, haddr, hm, hok, hn, hr, Nat.mod_eq_of_lt hv, Nat.and_two_pow_sub_one_of_lt_two_pow hv, hrsvd,
    Bool.not_true, Bool.and_false, Bool.false_and, Bool.false_eq_true, if_true, if_false, ha, Nat.reduceBEq,
    Bool.and_self, ite_self]

/-- A whole write of the host to a plain register that meets no check (R11, R479, R482). -/
theorem setupWrite_of_plainReg {r : RegRow} {a v : Nat} {s : State} (hr : regRow? a = some r) (ha : a % 8 = 0)
    (hn : notReady s = false) (hp : plainReg a = true) (hv : v < 2 ^ 64)
    (hrsvd : v &&& (2 ^ 64 - 1 - (r.rw ||| r.w1c ||| r.wo ||| r.ro)) = 0)
    (hw : writeRefused s a ((rdReg s a).toNat &&& r.rw) (v &&& r.rw) = false) :
    setupWrite .host a 8 v s = putReg a (BitVec.ofNat 64 (writtenValue r (rdReg s a).toNat v)) s :=
  (setupWrite_eq_applyWrite hr ha hn hv hrsvd).trans (applyWrite_of_plainReg _ hr hp hv hw)

/-- A register put changes no other. -/
theorem regsKept_putReg (a : Nat) (v : Word) (s : State) : RegsKept s (putReg a v s) [a] :=
  fun _ hb => rdReg_putReg_ne _ _ _ _ (List.ne_of_not_mem_cons hb)

/-- States with the same registers read the same. -/
theorem rdReg_congr {s t : State} (h : t.regs = s.regs) (a : Nat) : rdReg t a = rdReg s a := by simp only [rdReg, h]

/-- Which registers are kept is a matter of the registers alone. -/
theorem regsKept_congr {s t u : State} {l : List Nat} (h : u.regs = t.regs) (ht : RegsKept s t l) : RegsKept s u l :=
  fun a ha => (rdReg_congr h a).trans (ht a ha)

/-- A field of RW bits reads as its part of the value written. -/
theorem rf_putReg_writtenValue {r : RegRow} (f : Fld) (hr : regRow? f.reg = some r) (v : Nat) (s : State)
    (hf : ∀ i < f.w, r.rw.testBit (f.lo + i) = true) (hw : f.lo + f.w ≤ 64) :
    rf (putReg f.reg (BitVec.ofNat 64 (writtenValue r (rdReg s f.reg).toNat v)) s) f = bitsOf v f.lo f.w := by
  simp only [rf, rdReg_putReg_self, BitVec.toNat_ofNat]
  rw [bitsOf_mod _ _ _ hw, bitsOf_writtenValue r (rw_and_w1c_of_regRow hr) _ _ _ _ hf]

/-! ### An access that the device does not take (R477, R479, R487) -/

/-- A field set by the device changes registers alone. -/
theorem put_eq_set_regs (f : Fld) (x : Nat) (s : State) : put f x s = { s with regs := (put f x s).regs } := rfl

/-- One change of registers alone after another is a change of registers alone. -/
theorem eq_set_regs_trans {s t u : State} (ht : t = { s with regs := t.regs }) (hu : u = { t with regs := u.regs }) :
    u = { s with regs := u.regs } := by
  generalize t.regs = m at ht
  subst ht
  exact hu

/-- A set-up error changes registers alone. -/
theorem setupError_eq_set_regs (cause : Nat) (src : Source) (a : Nat) (s : State) :
    setupError cause src a s = { s with regs := (setupError cause src a s).regs } := by
  unfold setupError
  dsimp only
  split
  · exact put_eq_set_regs _ _ _
  · exact eq_set_regs_trans (eq_set_regs_trans (eq_set_regs_trans (eq_set_regs_trans (put_eq_set_regs _ _ _)
      (put_eq_set_regs _ _ _)) (put_eq_set_regs _ _ _)) (put_eq_set_regs _ _ _)) (put_eq_set_regs _ _ _)

/-- A set-up error changes the two registers that show errors and no other (R487). -/
theorem setupError_regsKept (cause : Nat) (src : Source) (a : Nat) (s : State) :
    RegsKept s (setupError cause src a s) [R.SETUP_ERR, R.SETUP_ERR_COUNT] := by
  intro b hb
  simp only [List.mem_cons, List.not_mem_nil, or_false, not_or] at hb
  obtain ⟨herr, hcount⟩ := hb
  unfold setupError
  dsimp only
  split
  · exact rdReg_bump_ne _ _ _ _ hcount
  · rw [rdReg_put_ne _ _ _ _ herr, rdReg_put_ne _ _ _ _ herr, rdReg_put_ne _ _ _ _ herr, rdReg_put_ne _ _ _ _ herr,
      rdReg_bump_ne _ _ _ _ hcount]

/-- Every set-up error is counted (R487). -/
theorem rf_count_setupError (cause : Nat) (src : Source) (a : Nat) (s : State) :
    rf (setupError cause src a s) F.SETUP_ERR_COUNT = (rf s F.SETUP_ERR_COUNT + 1) % 2 ^ 64 := by
  have hcount : rf (bump F.SETUP_ERR_COUNT 1 s) F.SETUP_ERR_COUNT = (rf s F.SETUP_ERR_COUNT + 1) % 2 ^ 64 :=
    rf_bump_self _ _ _ (by decide)
  unfold setupError
  dsimp only
  split
  · exact hcount
  · simpa (disch := decide) only [rf_put_ne] using hcount

/-- With FLAG 0 a set-up error is latched: the flag, the requester, the address and the cause, each at its width (R487). -/
theorem setupError_latches (cause : Nat) (src : Source) (a : Nat) (s : State) (h : rf s F.SETUP_ERR_FLAG = 0) :
    rf (setupError cause src a s) F.SETUP_ERR_FLAG = 1
      ∧ rf (setupError cause src a s) F.SETUP_ERR_SRC = srcCode src % 2 ^ 2
      ∧ rf (setupError cause src a s) F.SETUP_ERR_ADDR = a % 2 ^ 24
      ∧ rf (setupError cause src a s) F.SETUP_ERR_CAUSE = cause % 2 ^ 3 := by
  have hflag : ¬ rf (bump F.SETUP_ERR_COUNT 1 s) F.SETUP_ERR_FLAG = 1 := by
    rw [rf_bump_ne _ _ _ _ (by decide) (by decide), h]
    decide
  simp only [setupError, hflag, if_false]
  simp (disch := decide) only [rf_put_self, rf_put_ne]
  exact ⟨rfl, rfl, rfl, rfl⟩

/-- An access of a size and alignment that the device takes (R477). -/
theorem accessOk_iff (addr : BitVec 24) (size : BitVec 4) : accessOk addr.toNat size.toNat = true ↔
    (size = 8 ∧ addr.toNat % 8 = 0) ∨ (size = 4 ∧ addr.toNat % 4 = 0) := by
  simp only [accessOk, Bool.or_eq_true, Bool.and_eq_true, beq_iff_eq, ← BitVec.toNat_inj, BitVec.reduceToNat]

/-- The cause of an access of the host that the device does not take: size and alignment first, then an address where nothing lies,
then that the device is not ready (R477, R479, R487). -/
def notTakenCause (addr size : Nat) : Nat :=
  if ¬ accessOk addr size = true then 6 else if mapped (addr / 8 * 8) = false then 5 else 7

theorem notTakenCause_lt (addr size : Nat) : notTakenCause addr size < 2 ^ 3 := by
  unfold notTakenCause
  split
  · decide
  · split <;> decide

/-- A write of the host that the device does not take is an error, and nothing else (R477, R479). -/
theorem setupWrite_of_not_taken (addr size v : Nat) (s : State)
    (h : ¬ accessOk addr size = true ∨ mapped (addr / 8 * 8) = false
      ∨ (notReady s = true ∧ ¬ (0x1000 ≤ addr / 8 * 8 ∧ addr / 8 * 8 < 0x3000))) :
    setupWrite .host addr size v s = setupError (notTakenCause addr size) .host (addr / 8 * 8) s := by
  unfold notTakenCause setupWrite
  dsimp only
  cases hok : accessOk addr size
  · simp only [Bool.not_false, Bool.false_eq_true, not_false_eq_true, if_true]
  · cases hm : mapped (addr / 8 * 8)
    · simp only [Bool.not_true, Bool.not_false, Bool.false_eq_true, not_true_eq_false, if_true, if_false]
    · obtain ⟨hn, hout⟩ : notReady s = true ∧ ¬ (0x1000 ≤ addr / 8 * 8 ∧ addr / 8 * 8 < 0x3000) := by
        simpa only [hok, hm, not_true_eq_false, Bool.true_eq_false, false_or] using h
      have hcheck : (Source.host == Source.host && notReady s
          && !(decide (0x1000 ≤ addr / 8 * 8) && decide (addr / 8 * 8 < 0x3000))) = true := by
        simp only [hn, ← Bool.decide_and, hout]
        rfl
      simp only [hcheck]
      rfl

/-! ### The commands -/

/-- The in-band interrupt of R456 sends a message at most. -/
theorem withIbi_eq_set_out (f : State → State) (s : State) : ∃ o, withIbi f s = { f s with out := o } := by
  unfold withIbi
  dsimp only
  split
  · exact ⟨_, rfl⟩
  · exact ⟨_, rfl⟩

/-- Over the link a SETUP_REGISTER_WRITE does what the set-up write of the host does, with a message at most (R476, R456): where that
changes registers alone, so does the command, but for what is sent. -/
theorem exec_setupRegisterWrite {addr : BitVec 24} {size : BitVec 4} {value : BitVec 64} {s t : State} (hl : linkUp s = true)
    (ht : setupWrite .host addr.toNat size.toNat value.toNat s = t) (hregs : t = { s with regs := t.regs }) :
    ∃ u, exec (.setupRegisterWrite addr size value) s = .next u ∧ u = { s with regs := u.regs, out := u.out }
      ∧ u.regs = t.regs := by
  obtain ⟨o, ho⟩ := withIbi_eq_set_out
    (fun s => if linkUp s then setupWrite .host addr.toNat size.toNat value.toNat s else s) s
  refine ⟨{ t with out := o }, congrArg Host.Outcome.next ?_, ?_, rfl⟩
  · rw [ho]
    simp only [hl, if_true, ht]
  · generalize t.regs = m at hregs
    subst hregs
    rfl

/-- Over the link a STEPCFG_WRITE is a whole write of the host (R489). -/
theorem exec_stepcfgWrite (k : Fin 3) (value : BitVec 64) {s : State} (hl : linkUp s = true) :
    exec (.stepcfgWrite k value) s = .next (setupWrite .host (R.STEPCFG_CTL + 8 * k.val) 8 value.toNat s) := if_pos hl

/-! ### STEPCFG (R488, R489) -/

/-- A number below `2 ^ n` shares no bit with one whose lowest `n` bits are 0. -/
theorem and_eq_zero_of_lt_two_pow {v m n : Nat} (hv : v < 2 ^ n) (hm : m % 2 ^ n = 0) : v &&& m = 0 := by
  have hand := Nat.and_mod_two_pow (a := v) (b := m) (n := n)
  rw [hm, Nat.and_zero] at hand
  rwa [Nat.mod_eq_of_lt (Nat.lt_of_le_of_lt Nat.and_le_left hv)] at hand

/-- The register at `a` has RW bits and no others: those of the mask (R11). -/
def RwOnly (a rw : Nat) : Prop := ∃ r, regRow? a = some r ∧ r.rw = rw ∧ r.w1c = 0 ∧ r.wo = 0 ∧ r.ro = 0

theorem rwOnly_stepcfgCtl : RwOnly R.STEPCFG_CTL 0xffff007f := ⟨_, rfl, rfl, rfl, rfl, rfl⟩

theorem rwOnly_keepBase : RwOnly R.STEPCFG_KEEP_BASE (2 ^ 48 - 1) := ⟨_, rfl, rfl, rfl, rfl, rfl⟩

theorem rwOnly_keepSize : RwOnly R.STEPCFG_KEEP_SIZE (2 ^ 32 - 1) := ⟨_, rfl, rfl, rfl, rfl, rfl⟩

/-- STEPCFG.CTL is refused while a step is live (R489). -/
theorem writeRefused_stepcfgCtl_of_live {s : State} (hs : s.steps ≠ []) (old new : Nat) :
    writeRefused s R.STEPCFG_CTL old new = true := by
  simp only [writeRefused, bne_iff_ne.mpr hs, Bool.true_or, if_true]

/-- With no step live and no ring on, STEPCFG.CTL takes any value (R489). -/
theorem writeRefused_stepcfgCtl_of_idle {s : State} (hs : s.steps = [])
    (hoff : ∀ c, c < 64 → ∀ r, r < 4 → ringOn s c r = false) (old new : Nat) :
    writeRefused s R.STEPCFG_CTL old new = false := by
  have hnone : ∀ x, (List.range 4).any (fun r => ringOn s (bitsOf x 0 6) r) = false := fun x => by
    have hlt : bitsOf x 0 6 < 64 := Nat.mod_lt _ (by decide)
    simpa only [List.any_eq_false, List.mem_range, Bool.not_eq_true] using hoff _ hlt
  simp only [writeRefused, if_true, hs, hnone, bne_self_eq_false, Bool.or_self, Bool.and_false]

/-- With no step live, the keep area may begin at a multiple of 1 MiB from which its size fits (R489). -/
theorem writeRefused_keepBase {s : State} (hs : s.steps = []) (old : Nat) {new : Nat} (hnew : new % 2 ^ 20 = 0)
    (hfit : new + rf s F.STEPCFG_KEEP_SIZE_MIB * 2 ^ 20 ≤ 0xBFC0000000) :
    writeRefused s R.STEPCFG_KEEP_BASE old new = false := by
  have hctl : R.STEPCFG_KEEP_BASE ≠ R.STEPCFG_CTL := by decide
  simp only [writeRefused, hctl, if_true, if_false, hs, hnew, bne_self_eq_false, Bool.or_self, Bool.false_or,
    decide_eq_false_iff_not]
  omega

/-- With no step live, the keep area may have any size that fits from where it begins (R489). -/
theorem writeRefused_keepSize {s : State} (hs : s.steps = []) (old : Nat) {new : Nat}
    (hfit : rf s F.STEPCFG_KEEP_BASE_ADDR + new * 2 ^ 20 ≤ 0xBFC0000000) :
    writeRefused s R.STEPCFG_KEEP_SIZE old new = false := by
  have hctl : R.STEPCFG_KEEP_SIZE ≠ R.STEPCFG_CTL := by decide
  have hbase : R.STEPCFG_KEEP_SIZE ≠ R.STEPCFG_KEEP_BASE := by decide
  simp only [writeRefused, hctl, hbase, if_true, if_false, hs, bne_self_eq_false, Bool.false_or, decide_eq_false_iff_not]
  omega

/-- A STEPCFG_WRITE that meets no check changes its register alone, where every field of RW bits reads as its part of the value
(R489). -/
theorem exec_stepcfgWrite_of_taken (k : Fin 3) (value : BitVec 64) {s : State} {a rw : Nat} (hk : R.STEPCFG_CTL + 8 * k.val = a)
    (hl : linkUp s = true) (hn : notReady s = false) (hrow : RwOnly a rw) (hp : plainReg a = true)
    (hrsvd : value.toNat &&& (2 ^ 64 - 1 - rw) = 0)
    (hw : writeRefused s a ((rdReg s a).toNat &&& rw) (value.toNat &&& rw) = false) :
    ∃ t, exec (.stepcfgWrite k value) s = .next t ∧ t = { s with regs := t.regs } ∧ RegsKept s t [a]
      ∧ ∀ f : Fld, f.reg = a → (∀ i < f.w, rw.testBit (f.lo + i) = true) → f.lo + f.w ≤ 64 →
          rf t f = bitsOf value.toNat f.lo f.w := by
  obtain ⟨r, hr, rfl, hw1c, hwo, hro⟩ := hrow
  have ha : a % 8 = 0 := by rw [← hk, R.STEPCFG_CTL]; omega
  have hexec := exec_stepcfgWrite k value hl
  rw [hk, setupWrite_of_plainReg hr ha hn hp value.isLt (by simpa only [hw1c, hwo, hro, Nat.or_zero] using hrsvd) hw] at hexec
  refine ⟨_, hexec, rfl, regsKept_putReg _ _ _, ?_⟩
  rintro f rfl hf hfw
  exact rf_putReg_writtenValue f hr _ _ hf hfw

/-- A STEPCFG_WRITE that its rule refuses is flagged, and nothing else (R479, R489). -/
theorem exec_stepcfgWrite_of_refused (k : Fin 3) (value : BitVec 64) {s : State} {a rw : Nat}
    (hk : R.STEPCFG_CTL + 8 * k.val = a) (hl : linkUp s = true) (hn : notReady s = false) (hrow : RwOnly a rw)
    (hrsvd : value.toNat &&& (2 ^ 64 - 1 - rw) = 0)
    (hw : writeRefused s a ((rdReg s a).toNat &&& rw) (value.toNat &&& rw) = true) :
    exec (.stepcfgWrite k value) s = .next (setupRefused .host a s) := by
  obtain ⟨r, hr, rfl, hw1c, hwo, hro⟩ := hrow
  have ha : a % 8 = 0 := by rw [← hk, R.STEPCFG_CTL]; omega
  rw [exec_stepcfgWrite k value hl, hk,
    setupWrite_eq_applyWrite hr ha hn value.isLt (by simpa only [hw1c, hwo, hro, Nat.or_zero] using hrsvd),
    applyWrite_of_refused _ value.isLt hw]

end Sys2Proof.Machine

open Sys2Proof Sys2Proof.Machine

/-- Settles O44: a write that is taken puts the written value in its register, one that is not taken is one set-up error, and the
STEPCFG writes are the same two cases under the rule of R489. -/
theorem setupWritesObeyTheirFields : Obligations.SetupWritesObeyTheirFields := by
  unfold Obligations.SetupWritesObeyTheirFields
  intro s hl
  refine ⟨?_, ?_, ?_, ?_⟩
  · intro addr value r a old hr ha hn hp hrsvd hw
    rw [maskedWrite_and] at hw
    obtain ⟨t, ht, hframe, hregs⟩ := exec_setupRegisterWrite (size := 8) hl
      (setupWrite_of_plainReg hr ha hn hp value.isLt hrsvd hw) rfl
    refine ⟨t, ht, hframe, regsKept_congr hregs (regsKept_putReg _ _ _), fun i hi => ?_⟩
    rw [rdReg_congr hregs, rdReg_putReg_self, BitVec.getLsbD_ofNat, testBit_writtenValue r (rw_and_w1c_of_regRow hr)]
    simp only [hi, decide_true, Bool.true_and]
    rfl
  · intro addr size value a sized hbad
    have hsized : accessOk addr.toNat size.toNat = true ↔ sized := accessOk_iff addr size
    have hlt : a < 2 ^ 24 := Nat.lt_of_le_of_lt (Nat.div_mul_le_self _ _) addr.isLt
    obtain ⟨t, ht, hframe, hregs⟩ := exec_setupRegisterWrite hl
      (setupWrite_of_not_taken addr.toNat size.toNat value.toNat s (by rwa [hsized])) (setupError_eq_set_regs _ _ _ _)
    refine ⟨t, ht, hframe, regsKept_congr hregs (setupError_regsKept _ _ _ _), ?_⟩
    simp only [rf_congr hregs]
    refine ⟨rf_count_setupError _ _ _ _, fun hflag => ?_⟩
    obtain ⟨hset, hsrc, haddr, hcause⟩ := setupError_latches (notTakenCause addr.toNat size.toNat) .host a s hflag
    exact ⟨hset, hsrc, haddr.trans (Nat.mod_eq_of_lt hlt), (hcause.trans (Nat.mod_eq_of_lt (notTakenCause_lt _ _))).trans
      (ite_congr (propext (not_congr hsized)) (fun _ => rfl) (fun _ => rfl))⟩
  · intro value hn hv
    have hrsvd : value.toNat &&& (2 ^ 64 - 1 - 0xffff007f) = 0 := and_eq_zero_of_lt_two_pow hv (by decide)
    refine ⟨fun ⟨hs, hoff⟩ => ?_, fun hs => ?_⟩
    · obtain ⟨t, ht, hregs, hkept, hfld⟩ := exec_stepcfgWrite_of_taken 0 value rfl hl hn rwOnly_stepcfgCtl (by decide) hrsvd
        (writeRefused_stepcfgCtl_of_idle hs hoff _ _)
      exact ⟨t, ht, hregs, hkept, hfld F.STEPCFG_CTL_STEP_CTX rfl (by decide) (by decide),
        hfld F.STEPCFG_CTL_OVERLAP rfl (by decide) (by decide)⟩
    · exact ⟨_, exec_stepcfgWrite_of_refused 0 value rfl hl hn rwOnly_stepcfgCtl hrsvd
        (writeRefused_stepcfgCtl_of_live hs _ _), setupError_eq_set_regs _ _ _ _, setupError_regsKept _ _ _ _,
        rf_count_setupError _ _ _ _⟩
  · intro value hn hs
    refine ⟨fun ⟨hv, hmib, hfit⟩ => ?_, fun ⟨hv, hfit⟩ => ?_⟩
    · have hval : value.toNat &&& (2 ^ 48 - 1) = value.toNat := Nat.and_two_pow_sub_one_of_lt_two_pow hv
      obtain ⟨t, ht, hregs, hkept, hfld⟩ := exec_stepcfgWrite_of_taken 1 value rfl hl hn rwOnly_keepBase (by decide)
        (and_eq_zero_of_lt_two_pow hv (by decide)) (writeRefused_keepBase hs _ (by rwa [hval]) (by rwa [hval]))
      exact ⟨t, ht, hregs, hkept,
        (hfld F.STEPCFG_KEEP_BASE_ADDR rfl (by decide) (by decide)).trans (Nat.mod_eq_of_lt hv)⟩
    · have hval : value.toNat &&& (2 ^ 32 - 1) = value.toNat := Nat.and_two_pow_sub_one_of_lt_two_pow hv
      obtain ⟨t, ht, hregs, hkept, hfld⟩ := exec_stepcfgWrite_of_taken 2 value rfl hl hn rwOnly_keepSize (by decide)
        (and_eq_zero_of_lt_two_pow hv (by decide)) (writeRefused_keepSize hs _ (by rwa [hval]))
      exact ⟨t, ht, hregs, hkept,
        (hfld F.STEPCFG_KEEP_SIZE_MIB rfl (by decide) (by decide)).trans (Nat.mod_eq_of_lt hv)⟩
end

section
/-!
PROOF. A CAST from a byte format to BF16 (R186): a significand and exponent that a floating-point format has room for pass encode
and decode (R101, R107) with their value kept, and every FP8 and BE8 element is of that kind for BF16.
-/
namespace Sys2Proof.Machine

/-! ### Rounding that drops nothing -/

theorem SameValue.refl : ∀ x : FV, SameValue x x
  | .nan => trivial
  | .inf _ => rfl
  | .fin _ _ _ => ⟨rfl, rfl⟩

/-- Scaling up is exact. -/
theorem rneScale_of_nonneg {d : Int} (m : Nat) (hd : 0 ≤ d) : rneScale m d = m * 2 ^ d.toNat := by
  rw [rneScale, if_pos hd, Nat.shiftLeft_eq]

theorem log2_le_of_lt_two_pow {m mb : Nat} (hm : m < 2 ^ (mb + 1)) : m.log2 ≤ mb := by
  by_cases h0 : m = 0
  · rw [h0]
    exact Nat.zero_le mb
  · exact Nat.le_of_lt_succ ((Nat.log2_lt h0).2 hm)

/-- A value of at most `mb + 1` significant bits, none of them below `2^qmin`, is packed as it is: `k` steps of its quantum
`2^(qmin + d)`, the least one or the one that makes the significand normal. -/
theorem roundCode_exact {mb m : Nat} {qmin e : Int} (hm : m < 2 ^ (mb + 1)) (he : qmin ≤ e) :
    ∃ d k : Nat, roundCode mb qmin m e = d * 2 ^ mb + k ∧ k < 2 ^ (mb + 1) ∧ qmin + d ≤ e
      ∧ k = m * 2 ^ (e - (qmin + d)).toNat
      ∧ (d = 0 ∨ 2 ^ mb ≤ k ∧ qmin + d + mb = m.log2 + e) := by
  have hlog := log2_le_of_lt_two_pow hm
  by_cases h0 : m = 0
  · subst h0
    exact ⟨0, 0, by rw [roundCode, if_pos rfl, Nat.zero_mul], Nat.two_pow_pos _, by omega, (Nat.zero_mul _).symm, .inl rfl⟩
  obtain ⟨d, hd⟩ : ∃ d : Nat, max qmin ((m.log2 : Int) + e - mb) = qmin + d :=
    ⟨(max qmin ((m.log2 : Int) + e - mb) - qmin).toNat, by omega⟩
  have hde : qmin + d ≤ e := by omega
  have hshift : (e - (qmin + d)).toNat ≤ mb - m.log2 := by omega
  refine ⟨d, m * 2 ^ (e - (qmin + d)).toNat, ?_, ?_, hde, rfl, ?_⟩
  · have hsteps : (qmin + d - qmin).toNat = d := by omega
    simp only [roundCode, if_neg h0, hd, hsteps, rneScale_of_nonneg m (Int.sub_nonneg_of_le hde)]
  · calc m * 2 ^ (e - (qmin + d)).toNat
        < 2 ^ (m.log2 + 1) * 2 ^ (mb - m.log2) :=
          Nat.mul_lt_mul_of_lt_of_le Nat.lt_log2_self (Nat.pow_le_pow_right Nat.two_pos hshift) (Nat.two_pow_pos _)
      _ = 2 ^ (mb + 1) := by rw [← Nat.pow_add, Nat.add_right_comm, Nat.add_sub_cancel' hlog]
  · by_cases hd0 : d = 0
    · exact .inl hd0
    have hq : qmin + d + mb = m.log2 + e := by omega
    have heq : (e - (qmin + d)).toNat = mb - m.log2 := by omega
    refine .inr ⟨?_, hq⟩
    calc 2 ^ mb = 2 ^ m.log2 * 2 ^ (mb - m.log2) := by rw [← Nat.pow_add, Nat.add_sub_cancel' hlog]
      _ ≤ m * 2 ^ (e - (qmin + d)).toNat := heq ▸ Nat.mul_le_mul_right _ (Nat.log2_self_le h0)

/-! ### Encode and decode of one finite value -/

section
variable {f : Fmt} {eb mb bias : Nat} (hs : fpShape f = some (eb, mb, bias))
include hs

/-- A finite value whose rounded code is in range is that code with the sign bit above it. -/
theorem fpEncode_fin {neg : Bool} {m : Nat} {e : Int} (hc : roundCode mb (1 - (bias : Int) - mb) m e ≤ fpMaxCode f) :
    fpEncode f (.fin neg m e) = roundCode mb (1 - (bias : Int) - mb) m e + if neg then 2 ^ (eb + mb) else 0 := by
  unfold fpEncode
  split
  case h_1 => cases hs
  case h_2 => cases hs
  case h_3 => cases hs
  case h_4 => simp only [hs, if_neg (Nat.not_lt.2 hc)]

/-- The code of `k` steps of `2^(1 - bias - mb + d)` stands for that value: a subnormal where `k` has no leading bit, else a normal
number of exponent field `d + 1`. -/
theorem fpDecode_pack {d k : Nat} (neg : Bool) (hk : k < 2 ^ (mb + 1)) (hd : d = 0 ∨ 2 ^ mb ≤ k)
    (hc : d * 2 ^ mb + k ≤ fpMaxCode f) (hmax : fpMaxCode f < 2 ^ (eb + mb)) :
    fpDecode f (d * 2 ^ mb + k + if neg then 2 ^ (eb + mb) else 0) = .fin neg k (1 - (bias : Int) - mb + d) := by
  have hlt : d * 2 ^ mb + k < 2 ^ (eb + mb) := Nat.lt_of_le_of_lt hc hmax
  have hpos : 0 < 2 ^ mb := Nat.two_pow_pos mb
  have hmag : (d * 2 ^ mb + k + if neg then 2 ^ (eb + mb) else 0) % 2 ^ (eb + mb) = d * 2 ^ mb + k := by
    cases neg
    · exact Nat.mod_eq_of_lt hlt
    · exact (Nat.add_mod_right _ _).trans (Nat.mod_eq_of_lt hlt)
  have hneg : decide ((d * 2 ^ mb + k + if neg then 2 ^ (eb + mb) else 0) / 2 ^ (eb + mb) % 2 = 1) = neg := by
    cases neg
    · simp only [Bool.false_eq_true, if_false, Nat.add_zero, Nat.div_eq_of_lt hlt, Nat.zero_mod, Nat.zero_ne_one, decide_false]
    · simp only [if_true, Nat.add_div_right _ (Nat.two_pow_pos _), Nat.div_eq_of_lt hlt, Nat.zero_add, Nat.one_mod,
        decide_true]
  simp only [fpDecode, hs, hmag, hneg, if_neg (Nat.not_lt.2 hc)]
  rcases Nat.lt_or_ge k (2 ^ mb) with hsub | hnormal
  · obtain rfl : d = 0 := hd.resolve_right (Nat.not_le.2 hsub)
    have hexp : 1 - (bias : Int) - mb + (0 : Nat) = 1 - (bias : Int) - mb := Int.add_zero _
    simp only [Nat.zero_mul, Nat.zero_add, Nat.div_eq_of_lt hsub, Nat.mod_eq_of_lt hsub, if_true, hexp]
  · obtain ⟨r, rfl⟩ := Nat.exists_eq_add_of_le hnormal
    have hr : r < 2 ^ mb := by rw [Nat.pow_succ] at hk; omega
    have hcode : d * 2 ^ mb + (2 ^ mb + r) = r + (d + 1) * 2 ^ mb := by rw [Nat.succ_mul]; omega
    have hexp : (((d + 1 : Nat) : Int) - bias - mb) = 1 - (bias : Int) - mb + d := by omega
    simp only [hcode, Nat.add_mul_div_right _ _ hpos, Nat.add_mul_mod_self_right, Nat.div_eq_of_lt hr, Nat.mod_eq_of_lt hr,
      Nat.zero_add, Nat.add_one_ne_zero, if_false, hexp]

/-- A finite value that the format has room for keeps its value through encode and decode. -/
theorem sameValue_fpDecode_fpEncode {neg : Bool} {m : Nat} {e : Int} (hm : m < 2 ^ (mb + 1)) (he : 1 - (bias : Int) - mb ≤ e)
    (hc : roundCode mb (1 - (bias : Int) - mb) m e ≤ fpMaxCode f) (hmax : fpMaxCode f < 2 ^ (eb + mb)) :
    SameValue (fpDecode f (fpEncode f (.fin neg m e))) (.fin neg m e) := by
  obtain ⟨d, k, hcode, hk, hde, hkm, hd⟩ := roundCode_exact hm he
  rw [fpEncode_fin hs hc, hcode, fpDecode_pack hs neg hk (hd.imp_right And.left) (hcode ▸ hc) hmax]
  refine ⟨rfl, ?_⟩
  rw [Int.min_eq_left hde, Int.sub_self, hkm]
  exact Nat.mul_one _

end

/-! ### Values that BF16 holds -/

/-- A value that BF16 has room for: NaN, an infinity, or a finite value of at most 8 significant bits, none of them below 2⁻¹³³
and none at 2¹²⁸ or above. -/
def FitsBf16 : FV → Prop
  | .fin _ m e => m < 2 ^ 8 ∧ -133 ≤ e ∧ (m.log2 : Int) + e < 128
  | _ => True

/-- One rounding to BF16 keeps a value that BF16 has room for. -/
theorem sameValue_rndBf16 {x : FV} (hx : FitsBf16 x) : SameValue (rndBf16 x) x := by
  cases x with
  | nan => trivial
  | inf neg => cases neg <;> rfl
  | fin neg m e =>
    obtain ⟨hm, he, htop⟩ := hx
    refine sameValue_fpDecode_fpEncode (f := .bf16) (mb := 7) (bias := 127) rfl hm he ?_ (by decide)
    obtain ⟨d, k, hcode, hk, -, -, hd⟩ := roundCode_exact (mb := 7) hm he
    have hd' : d ≤ 253 := by omega
    show roundCode 7 (-133) m e ≤ 0x7F7F
    omega

/-- A code of a format with no more significand bits than BF16, and no wider a range of exponents, stands for a value that BF16
has room for. -/
theorem fitsBf16_fpDecode {f : Fmt} {eb mb bias : Nat} (hs : fpShape f = some (eb, mb, bias)) (hmb : mb ≤ 7)
    (hlow : bias + mb ≤ 134) (htop : 2 ^ eb ≤ bias + 128) (bits : Nat) : FitsBf16 (fpDecode f bits) := by
  have hexp : bits % 2 ^ (eb + mb) / 2 ^ mb < 2 ^ eb :=
    Nat.div_lt_of_lt_mul (by rw [← Nat.pow_add, Nat.add_comm mb]; exact Nat.mod_lt _ (Nat.two_pow_pos _))
  have hsig : bits % 2 ^ (eb + mb) % 2 ^ mb < 2 ^ mb := Nat.mod_lt _ (Nat.two_pow_pos mb)
  have hroom {m : Nat} (hm : m < 2 ^ (mb + 1)) : m < 2 ^ 8 ∧ m.log2 ≤ mb :=
    ⟨Nat.lt_of_lt_of_le hm (Nat.pow_le_pow_right Nat.two_pos (Nat.succ_le_succ hmb)), log2_le_of_lt_two_pow hm⟩
  simp only [fpDecode, hs]
  generalize bits % 2 ^ (eb + mb) / 2 ^ mb = q at hexp ⊢
  split
  · split <;> trivial
  · split
    · obtain ⟨hm, hlog⟩ := hroom (Nat.lt_trans hsig (Nat.pow_lt_pow_right Nat.one_lt_two (Nat.lt_succ_self mb)))
      exact ⟨hm, by omega, by omega⟩
    · obtain ⟨hm, hlog⟩ := hroom (m := 2 ^ mb + bits % 2 ^ (eb + mb) % 2 ^ mb) (by rw [Nat.pow_succ]; omega)
      exact ⟨hm, by omega, by omega⟩

/-! ### BE8 elements -/

/-- The two's-complement reading of a byte is its signed value. -/
theorem twos_toNat (m : BitVec 8) : twos 8 m.toNat = m.toInt := by
  simp only [twos, Nat.mod_eq_of_lt m.isLt, BitVec.toInt_eq_toNat_cond]
  split <;> split <;> omega

/-- R106: a BE8 element under a scale byte that is not the NaN one is its sign and magnitude times `2^(s - 133)`. -/
theorem elemValue_be8 (m s : BitVec 8) (hs : s ≠ 0xFF) :
    elemValue .be8 s.toNat m.toNat = .fin m.msb m.toInt.natAbs ((s.toNat : Int) - 133) := by
  have hs' : s.toNat ≠ 255 := fun h => hs (BitVec.eq_of_toNat_eq h)
  simp only [elemValue, if_neg hs', fvOfInt, fvScale, twos_toNat, BitVec.msb_eq_toInt, Int.zero_add]

theorem toNat_le_254 {s : BitVec 8} (hs : s ≠ 0xFF) : s.toNat ≤ 254 := by bv_omega

/-- Every byte but 0x80 has at most 7 significant bits. -/
theorem natAbs_toInt_lt {m : BitVec 8} (hm : m ≠ 0x80) : m.toInt.natAbs < 2 ^ 7 := by
  have hlow : m.toInt ≠ -128 := fun h => hm (BitVec.eq_of_toInt_eq h)
  have := m.le_toInt
  have := m.toInt_lt
  omega

theorem fitsBf16_be8 {m s : BitVec 8} (hm : m ≠ 0x80) (hs : s ≠ 0xFF) :
    FitsBf16 (.fin m.msb m.toInt.natAbs ((s.toNat : Int) - 133)) := by
  have hlog := log2_le_of_lt_two_pow (natAbs_toInt_lt hm)
  have := toNat_le_254 hs
  exact ⟨Nat.lt_trans (natAbs_toInt_lt hm) (by decide), by omega, by omega⟩

end Sys2Proof.Machine

open Sys2Proof Sys2Proof.Machine

/-- Settles O14: every value of the three byte formats is one that BF16 has room for, and rounding keeps such a value. -/
theorem byteFormatsCastExactly : Obligations.ByteFormatsCastExactly := by
  unfold Obligations.ByteFormatsCastExactly
  refine ⟨fun c => ⟨?_, ?_⟩, fun m s hm hs => ?_⟩
  · exact sameValue_rndBf16 (fitsBf16_fpDecode (f := .fp8E4M3) rfl (by decide) (by decide) (by decide) c.toNat)
  · exact sameValue_rndBf16 (fitsBf16_fpDecode (f := .fp8E5M2) rfl (by decide) (by decide) (by decide) c.toNat)
  · rw [elemValue_be8 m s hs]
    refine ⟨SameValue.refl _, natAbs_toInt_lt hm, ?_, fun h0 => ?_, sameValue_rndBf16 (fitsBf16_be8 hm hs)⟩
    · exact Nat.mul_le_mul (Nat.le_of_lt_succ (natAbs_toInt_lt hm)) (Nat.pow_le_pow_right Nat.two_pos (toNat_le_254 hs))
    · have hne : m.toInt ≠ 0 := fun h => h0 (BitVec.eq_of_toInt_eq h)
      exact Nat.mul_pos (Int.natAbs_pos.2 hne) (Nat.two_pow_pos _)
end
